-- ==== Sys2Proof/Word.lean ====
section
/-! DEFINITION. The plain types every file uses: a byte, a sparse table, and the few constants of the
storage units (spec/00_scope.md R9). -/

namespace Sys2Proof

/-- Eight bits, the unit of every payload, slot and stored form. -/
abbrev Byte := BitVec 8

/-- A table with few entries that differ from its default: key and value pairs with strictly rising keys and no
entry equal to the default (the canonical form; see `Sparse.set` in Machine/Sparse.lean). -/
abbrev Sparse (α : Type) := List (Nat × α)

/-- Bytes of a line, and of a slot (R9). -/
abbrev lineBytes : Nat := 64
/-- Bytes of a tile (R9). -/
abbrev tileBytes : Nat := 256
/-- Tiles of a course (R9). -/
abbrev courseTiles : Nat := 16
/-- Courses of a block (R56). -/
abbrev blockCourses : Nat := 65536
/-- Bytes of a block: 256 MiB (R56). -/
abbrev blockBytes : Nat := 268435456
/-- Bytes of a course (R9). -/
abbrev courseBytes : Nat := 4096

end Sys2Proof
end

