-- ==== Sys2Proof/Syntax.lean ====
section
/-! DEFINITION. The commands of the block (spec/opcode_table.json): one constructor of `Instr` per row, with the
operands the chapters give it, and the types of those operands. A row that stands for an input payload carries the
payload's fields; a row that stands for an event in the sled's surroundings carries what the surroundings decide. -/

namespace Sys2Proof

/-- The two host ports (R22). -/
inductive HostPort where
  | hp0 | hp1
  deriving DecidableEq, Repr, Inhabited

/-- The rate a host link trained to (R23, R24). -/
inductive LinkRate where
  | g16 | g32 | g64
  deriving DecidableEq, Repr, Inhabited

/-- A logical device: [4] port, [3:0] LD-ID (R59 [55:51]). -/
abbrev LdId := BitVec 5
/-- CH000 to CH127 (R227). -/
abbrev ChannelId := BitVec 7
/-- G00 to G15 (R227). -/
abbrev GroupId := BitVec 4
/-- RFT0 to RFT3 (R318). -/
abbrev RaftPort := BitVec 2
/-- A cascade sled ID (R350). -/
abbrev SledId := BitVec 10

/-- A CXL.mem request as it reaches a host port: the port, the LD-ID or the port-based routing ID of its source, its
CKID (R28), its address, and the host's tag. In local memory the address is a device physical address of the logical
device. -/
structure MemReq where
  port : HostPort
  ldid : BitVec 4 := 0
  pbr : BitVec 12 := 0
  ckid : BitVec 13 := 0
  addr : BitVec 52 := 0
  tag : BitVec 16 := 0
  deriving DecidableEq, Repr, Inhabited

/-- The source of a CXL.io access (R51): port, LD-ID or port-based routing ID. -/
structure MmioSrc where
  port : HostPort
  ldid : BitVec 4 := 0
  pbr : BitVec 12 := 0
  deriving DecidableEq, Repr, Inhabited

/-- The path that carries a command (R370, R524, R525): a mailbox of a logical device, with the routing ID of the
doorbell write; the fabric manager's path or the sideband path, with the logical device that the carrier names, if any;
or the rafter-borne mailbox, with its origin sled, origin path and tag (R378). -/
inductive Path where
  | primary (ld : LdId) (pbr : BitVec 12)
  | secondary (ld : LdId) (pbr : BitVec 12)
  | fabric (target : Option LdId)
  | sideband (target : Option LdId)
  | rafter (origin : SledId) (originPath : BitVec 8) (tag : BitVec 16)
  deriving DecidableEq, Repr, Inhabited

/-- A dynamic capacity extent: its device physical address and its length in 256 MiB blocks (R34). -/
structure Extent where
  dpa : BitVec 64
  blocks : BitVec 32
  deriving DecidableEq, Repr, Inhabited

/-- The five CXL event logs (R49). -/
inductive EventLog where
  | informational | warning | failure | fatal | dynamicCapacity
  deriving DecidableEq, Repr, Inhabited

/-- The input payload of Set Placement Policy (C101h). -/
structure PlacementPolicy where
  occupancy : BitVec 8 := 85
  coldMax : BitVec 8 := 8
  rawMin : BitVec 8 := 64
  tile : BitVec 8 := 24
  ftTarget : BitVec 32 := 20000
  scanRate : BitVec 32 := 16000
  share : BitVec 8 := 10
  cap : BitVec 8 := 75
  ceiling : BitVec 8 := 15
  deriving DecidableEq, Repr, Inhabited

/-- The input payload of Set Queue Regulation (C241h). -/
structure QueueReg where
  rid : BitVec 12 := 0
  cls : BitVec 8 := 0
  shaperOn : Bool := false
  policerOn : Bool := false
  shaperRate : BitVec 24 := 0
  shaperBurst : BitVec 16 := 1
  policerBurst : BitVec 16 := 1
  policerRate : BitVec 24 := 0
  deriving DecidableEq, Repr, Inhabited

/-- How a training of a hop ended (R323, R324): whether a set trained clean, the lanes of the set trained, the lanes
that erred, the peer's identity block of R321, the ridge term of a peer of another cascade (R355), and the time the
hop was down. -/
structure HopTraining where
  clean : Bool := true
  lanes : BitVec 8 := 0xFF
  erred : BitVec 8 := 0
  peer : SledId := 0
  peerPort : RaftPort := 0
  peerUsable : BitVec 8 := 0xFF
  peerEpoch : BitVec 21 := 0
  foreignTerm : Option (BitVec 32) := none
  downUs : BitVec 32 := 0
  deriving DecidableEq, Repr, Inhabited

/-- What the receiver of a pair sync packet takes its seal and its sender's pair to be at (R332, R342): the epoch, the wraps of
the unsequenced counter and the wraps of the pair sequence of the sender. -/
structure SyncIv where
  epoch : BitVec 21 := 0
  unseqWraps : BitVec 20 := 0
  wraps : BitVec 20 := 0
  deriving DecidableEq, Repr, Inhabited

/-- A ridge claim (R352). -/
structure Claim where
  term : BitVec 32 := 0
  strap : Bool := false
  id : SledId := 0
  deriving DecidableEq, Repr, Inhabited

/-- A cascade range entry as commands and messages carry it (R356). -/
structure RangeSpec where
  base : BitVec 24 := 0
  length : BitVec 24 := 0
  kind : BitVec 8 := 0
  n : BitVec 8 := 0
  flags : BitVec 8 := 0
  first : BitVec 16 := 0
  watermark : BitVec 32 := 0
  deriving DecidableEq, Repr, Inhabited

/-- A member table entry as messages carry it (R351): sled ID, serial number, role code of C2C0h, lost flag,
neighbours. -/
structure MemberInfo where
  id : SledId := 0
  serial : BitVec 64 := 0
  role : BitVec 2 := 1
  lost : Bool := false
  neighbours : List (RaftPort × SledId) := []
  deriving DecidableEq, Repr, Inhabited

/-- The cascade map, member table and a routing row as the ridge sends them (R354, R355, R361). -/
structure MapImage where
  version : BitVec 32 := 0
  ranges : List (BitVec 12 × RangeSpec) := []
  segments : List (BitVec 16 × BitVec 32) := []
  members : List MemberInfo := []
  routes : List (SledId × BitVec 16) := []
  deriving DecidableEq, Repr, Inhabited

/-- A join request (R355 step 3, step 4): serial number, strapped ID, home ID where some course is not absent, free
blocks, neighbours, the certificate chain's verification, and the joining sled's ephemeral public key. -/
structure JoinReq where
  serial : BitVec 64 := 0
  strapId : Option SledId := none
  homeId : Option SledId := none
  freeBlocks : BitVec 14 := 0
  neighbours : List (RaftPort × SledId) := []
  chainOk : Bool := true
  publicKey : List Byte := []
  deriving DecidableEq, Repr, Inhabited

/-- The ridge's answer to a join (R355 step 5): refused with a cause of event 0B02h, or the ID, the ridge, the deputy
and the term, the ridge's ephemeral public key, the wrapped link keys and the current key ID, and the map. -/
structure JoinGrant where
  refused : Option (BitVec 8) := none
  id : SledId := 0
  ridge : SledId := 0
  deputy : Option SledId := none
  term : BitVec 32 := 0
  publicKey : List Byte := []
  keys : List (BitVec 2 × List Byte) := []
  current : BitVec 2 := 0
  map : MapImage := {}
  deriving DecidableEq, Repr, Inhabited

/-- A mirror copy (R362): origin sled and sequence, the follower's global line address, context, data, byte enables,
and the sequence of the packet that carried it; a re-silver's copy may be poisoned, or say that the course is absent (R365). -/
structure MirrorCopy where
  origin : SledId := 0
  originSeq : BitVec 32 := 0
  line : BitVec 46 := 0
  ctx : BitVec 13 := 0
  data : List Byte := []
  enables : Option (BitVec 64) := none
  seq : BitVec 32 := 0
  poison : Bool := false
  absent : Bool := false
  deriving DecidableEq, Repr, Inhabited

/-- A rafter-borne mailbox request or reply (R378), and the sequence of the packet that carried it. -/
structure MailboxMsg where
  originPath : BitVec 8 := 0
  opcode : BitVec 16 := 0
  origin : SledId := 0
  tag : BitVec 16 := 0
  rc : BitVec 16 := 0
  payload : List Byte := []
  seq : BitVec 32 := 0
  deriving DecidableEq, Repr, Inhabited

/-- What the boot ROM and the start-up tests meet (R195, R278, R386, R464): whether the watchdogs stop slot 1 or slot 2
before the image is verified, whether the flashing engine's tests pass, and the failing vector of the stripe codec. -/
structure BootTests where
  watchdog1 : Bool := false
  watchdog2 : Bool := false
  flashing : Bool := true
  stripe : Option (BitVec 16) := none
  deriving DecidableEq, Repr, Inhabited

/-- What the controller measures at a trip (R448 bytes 8 to 13). -/
structure TripSense where
  mainMv : BitVec 16 := 0
  busMv : BitVec 16 := 0
  peakMa : BitVec 16 := 0
  deriving DecidableEq, Repr, Inhabited

/-- A conversion of the measured quantities (R451). -/
structure Conversion where
  mainMv : BitVec 16 := 0
  mainMa : BitVec 16 := 0
  auxMv : BitVec 16 := 0
  aux100uA : BitVec 16 := 0
  deriving DecidableEq, Repr, Inhabited

/-- The straps (R491, R497); `true` is set (grounded) for a strap named with #, and 1 for the others. -/
structure Straps where
  x16 : Bool := false
  sbmode : Bool := false
  idv : Bool := false
  ridge : Bool := false
  sa : BitVec 3 := 0
  id : BitVec 10 := 0
  deriving DecidableEq, Repr, Inhabited

/-- A change that the ridge sends to a member (R353, R354, R364). -/
structure MapUpdate where
  term : BitVec 32 := 0
  map : MapImage := {}
  deriving DecidableEq, Repr, Inhabited

/-- The commands of the block, one for each row of spec/opcode_table.json: the host's requests and the commands that
arrive on a path, then the events of the block and its surroundings. -/
inductive Instr where
  | memrd (r : MemReq)
  | memrddata (r : MemReq)
  | memwr (r : MemReq) (data : List Byte)
  | memwrptl (r : MemReq) (data : List Byte) (enables : BitVec 64)
  | memspecrd (r : MemReq)
  | sanitize (p : Path)
  | secureErase (p : Path)
  | injectPoison (p : Path) (dpa : BitVec 64)
  | clearPoison (p : Path) (dpa : BitVec 64) (data : List Byte)
  | getPoisonList (p : Path) (dpa : BitVec 64) (length : BitVec 64)
  | identifyMemoryDevice (p : Path)
  | getSupportedLogs (p : Path)
  | getLog (p : Path) (uuid : BitVec 128) (offset : BitVec 32) (length : BitVec 32)
  | getEventRecords (p : Path) (log : EventLog)
  | clearEventRecords (p : Path) (log : EventLog) (all : Bool) (handles : List (BitVec 16))
  | getEventInterruptPolicy (p : Path)
  | setEventInterruptPolicy (p : Path) (settings : BitVec 40)
  | getTimestamp (p : Path)
  | setTimestamp (p : Path) (value : BitVec 64)
  | backgroundOperationStatus (p : Path)
  | requestAbortBackgroundOperation (p : Path)
  | backgroundCommandComplete (p : Path)
  | getCapacityStatus (p : Path)
  | setOvercommitRatio (p : Path) (ratio : BitVec 16)
  | setDefaultContext (p : Path) (rid : BitVec 12) (ctx : BitVec 13)
  | getDefaultContext (p : Path) (rid : BitVec 12)
  | setReleaseWait (p : Path) (ms : BitVec 32)
  | setGrowthDevice (p : Path) (ld : LdId)
  | getBatten (p : Path) (kind : BitVec 8) (addr : BitVec 64)
  | getTranslationStatus (p : Path)
  | rebuildBattenBlock (p : Path) (block : BitVec 16)
  | discardCourseRange (p : Path) (dpa : BitVec 64) (courses : BitVec 32)
  | setCompactionPolicy (p : Path) (lowMark : BitVec 16) (victim : BitVec 8) (share : BitVec 8)
  | getTileCodingStatus (p : Path)
  | setWriteGather (p : Path) (window : BitVec 8)
  | setPhiozRange (p : Path) (entry : BitVec 8) (action : BitVec 8) (dpa : BitVec 64) (courses : BitVec 32)
  | getPhiozRange (p : Path) (entry : BitVec 8)
  | setPhiozConversion (p : Path) (ctx : BitVec 13) (allow : BitVec 8)
  | getTileForm (p : Path) (kind : BitVec 8) (tile : BitVec 8) (addr : BitVec 64)
  | getPlacementStatus (p : Path)
  | setPlacementPolicy (p : Path) (policy : PlacementPolicy)
  | setClassPlacement (p : Path) (cls : BitVec 8) (tier : BitVec 8) (pin : BitVec 8) (strong : Bool)
  | startThatchingJob (p : Path) (kind : BitVec 8) (heat : BitVec 8) (cap : BitVec 8) (budget : BitVec 32) (start : BitVec 64) (bundles : BitVec 32)
  | getThatchingJob (p : Path) (job : BitVec 16)
  | resumeThatchingJob (p : Path) (job : BitVec 16) (add : BitVec 32)
  | stopThatchingJob (p : Path) (job : BitVec 16) (free : Bool)
  | warmCourseRange (p : Path) (dpa : BitVec 64) (courses : BitVec 32)
  | getTileCacheStatus (p : Path)
  | invalidateTileCacheRange (p : Path) (kind : BitVec 8) (start : BitVec 64) (courses : BitVec 32)
  | setTileCachePolicy (p : Path) (enable : Bool) (noFill : BitVec 64)
  | getTileCacheSet (p : Path) (set : BitVec 16)
  | getFlashingStatus (p : Path)
  | establishWrappingKey (p : Path) (ownerKey : List Byte)
  | loadContextKey (p : Path) (ctx : BitVec 13) (next : Bool) (wrapped : List Byte)
  | destroyContextKey (p : Path) (ctx : BitVec 13) (discard : Bool)
  | getContext (p : Path) (ctx : BitVec 13)
  | setContextAttributes (p : Path) (ctx : BitVec 13) (cls : BitVec 8) (owner : BitVec 8)
  | startRekey (p : Path) (ctx : BitVec 13)
  | setWriteCounterLimit (p : Path) (ctx : BitVec 13) (limit : BitVec 64)
  | rotateRafterKey (p : Path)
  | getChannelStatus (p : Path) (ch : BitVec 8)
  | getGroupStatus (p : Path) (g : BitVec 8)
  | setGroupPowerPolicy (p : Path) (g : BitVec 8) (enable : Bool) (groupUs : BitVec 32) (chan100ns : BitVec 32)
  | setTrainingPolicy (p : Path) (zqMs : BitVec 16) (checkMs : BitVec 8) (driftPs : BitVec 8) (pollMs : BitVec 8)
  | setDramSpeed (p : Path) (speed : BitVec 8)
  | setBankHashMasks (p : Path) (m0 : BitVec 64) (m1 : BitVec 64) (m2 : BitVec 64)
  | getAddressMap (p : Path) (slot : BitVec 64)
  | retrainChannel (p : Path) (ch : BitVec 8) (kind : BitVec 8)
  | getCodeStatus (p : Path)
  | getSpareStatus (p : Path)
  | startRangeScrub (p : Path) (dpa : BitVec 64) (courses : BitVec 32) (deep : Bool) (share : BitVec 8)
  | setPatrolPolicy (p : Path) (enable : Bool) (minutes : BitVec 32)
  | getFaultRecords (p : Path) (first : BitVec 32) (count : BitVec 16)
  | setRetirementPolicy (p : Path) (rowThreshold : BitVec 8) (dieBanks : BitVec 8) (rankRows : BitVec 16) (share : BitVec 8) (hold : Bool)
  | retireStorage (p : Path) (kind : BitVec 8) (ch : BitVec 8) (rank : BitVec 8) (bank : BitVec 8) (row : BitVec 32)
  | clearRetirement (p : Path) (kind : BitVec 8) (ch : BitVec 8) (rank : BitVec 8) (bank : BitVec 8) (row : BitVec 32)
  | injectSlotError (p : Path) (slot : BitVec 64) (count : BitVec 8) (first : BitVec 8) (pattern : Byte)
  | getRegulationStatus (p : Path)
  | setQueueRegulation (p : Path) (q : QueueReg)
  | getQueue (p : Path) (rid : BitVec 12) (cls : BitVec 8)
  | setClassRegulation (p : Path) (cls : BitVec 8) (weight : BitVec 8) (on : Bool) (rate : BitVec 24) (burst : BitVec 16)
  | setClassGuarantee (p : Path) (cls : BitVec 8) (guarantee : BitVec 24) (burst : BitVec 16)
  | setUrgencySource (p : Path) (kind : BitVec 8) (index : BitVec 8) (rid : BitVec 16) (map : BitVec 24)
  | setHistogramMonitor (p : Path) (slot : BitVec 16) (action : BitVec 8) (cls : BitVec 8) (rid : BitVec 12) (us : BitVec 32)
  | getRafterPortStatus (p : Path) (port : BitVec 8)
  | getTransportPair (p : Path) (peer : BitVec 16)
  | setTransportPolicy (p : Path) (credits : BitVec 16) (replayUs : BitVec 16) (unreachUs : BitVec 32)
  | setRafterPort (p : Path) (port : BitVec 8) (action : BitVec 8)
  | getCascadeStatus (p : Path)
  | setCascadeRange (p : Path) (action : BitVec 8) (index : BitVec 16) (entry : RangeSpec) (segments : List (BitVec 32))
  | getCascadeRange (p : Path) (index : BitVec 16)
  | addCascadeExtent (p : Path) (ld : LdId) (region : BitVec 8) (base : BitVec 24) (blocks : BitVec 32) (dpa : BitVec 64)
  | getCascadeRoute (p : Path) (sled : BitVec 16)
  | setCascadePolicy (p : Path) (timeout : BitVec 16) (rate : BitVec 8) (eligible : Bool)
  | getFwInfo (p : Path)
  | transferFw (p : Path) (slot : BitVec 8) (action : BitVec 8) (offset : BitVec 32) (data : List Byte)
  | activateFwOnline (p : Path) (slot : BitVec 8)
  | activateFwOffline (p : Path) (slot : BitVec 8)
  | getSledIdentity (p : Path)
  | getBackgroundResult (p : Path)
  | relayCommand (p : Path) (target : BitVec 16) (opcode : BitVec 16) (payload : List Byte)
  | getPurlinStatus (p : Path)
  | getFirmwareStatus (p : Path)
  | setFirmwarePolicy (p : Path) (minutes : BitVec 8) (rollBack : Bool) (svn : Bool)
  | getLogStoreStatus (p : Path)
  | getBringupStatus (p : Path)
  | retryGroupAdmission (p : Path) (g : BitVec 8)
  | setGroupAdmission (p : Path) (g : BitVec 8) (action : BitVec 8)
  | getPowerState (p : Path)
  | setWatchConsent (p : Path) (consent : Bool) (whole : Bool)
  | setPowerStatePolicy (p : Path) (drowse : Bool) (watch : Bool) (idleUs : BitVec 32) (sampleMs : BitVec 32) (ceilingMs : BitVec 32)
  | setWatchThresholds (p : Path) (index : BitVec 8) (lowOn : Bool) (highOn : Bool) (low : BitVec 16) (high : BitVec 16)
  | getWatchSamples (p : Path)
  | getSleepRefusals (p : Path) (block : BitVec 8)
  | getPowerPathStatus (p : Path)
  | setPowerPathPolicy (p : Path) (limit : BitVec 8) (retry : BitVec 8) (soa : BitVec 16) (delay : BitVec 16)
  | clearPowerLatch (p : Path)
  | getPowerReadings (p : Path) (resetPeaks : Bool) (resetEnergy : Bool)
  | getTripRecords (p : Path)
  | getOnchipMemoryStatus (p : Path)
  | setMemoryTestPolicy (p : Path) (enable : Bool) (us : BitVec 32)
  | setGeneralCounter (p : Path) (counter : BitVec 8) (enable : Bool) (level : Bool) (event : BitVec 8) (qualifier : BitVec 16)
  | clearCounters (p : Path) (groups : BitVec 8)
  | setBandwidthWindow (p : Path) (us : BitVec 32)
  | setTracePolicy (p : Path) (kinds : BitVec 8) (sample : BitVec 8) (rid : BitVec 16) (cls : BitVec 8)
  | setCounterAccess (p : Path) (rid : BitVec 16) (counter : Bool) (trace : Bool)
  | readCounterArea (p : Path) (area : BitVec 8) (page : BitVec 16) (offset : BitVec 16) (length : BitVec 16)
  | getConnectorStatus (p : Path)
  | setLocateIndicator (p : Path) (value : BitVec 8)
  | getThermalStatus (p : Path)
  | undefinedVendorOpcode (p : Path) (opcode : BitVec 16)
  | unsupportedM2sOpcode (port : HostPort) (opcode : BitVec 4)
  | requestIssue
  | perstAssert (port : HostPort)
  | perstRelease (port : HostPort) (refclk : Bool)
  | hostLinkUp (port : HostPort) (rate : LinkRate)
  | linkL1Entry (port : HostPort)
  | linkL2Entry (port : HostPort)
  | linkElectricalIdleExit (port : HostPort)
  | blockFillComplete (block : BitVec 14)
  | addDcResponse (ld : LdId) (accepted : List Extent)
  | releaseDcCapacity (ld : LdId) (released : List Extent)
  | fmInitiateDcAdd (ld : LdId) (region : BitVec 3) (extent : Extent)
  | fmInitiateDcRelease (ld : LdId) (extent : Extent)
  | releaseWaitExpiry
  | writeThrottleStep
  | ldReset (ld : LdId)
  | cxlReset (ld : LdId) (memClear : Bool)
  | fmUnbindLd (ld : LdId)
  | ldDrainComplete (ld : LdId)
  | eventRatePeriodEnd (code : BitVec 16) (subject : BitVec 32)
  | doorbellUrgencyWrite (src : MmioSrc) (page : BitVec 12) (value : BitVec 32)
  | doorbellUrgencyHoldWrite (src : MmioSrc) (page : BitVec 12) (value : BitVec 32)
  | urgencyHoldExpiry (page : BitVec 12)
  | groupChgClear (src : MmioSrc)
  | pressureChgClear (src : MmioSrc)
  | registerWrite (src : MmioSrc) (offset : BitVec 26) (value : BitVec 32)
  | gatedBlockMmio (src : MmioSrc) (offset : BitVec 26) (write : Option (BitVec 32))
  | runMoveStart (course : BitVec 30)
  | runMoveCommit (course : BitVec 30)
  | placementRetry
  | clearingWalkStep
  | tableFillStep
  | drainWalkStep
  | tableRebuildStep
  | watermarkStallEnd
  | gatherWindowExpiry (buffer : BitVec 6)
  | gatherClose (buffer : BitVec 6)
  | thatchBundleTake (engine : BitVec 2)
  | thatchBundleCommit (engine : BitVec 2)
  | thatchJobAutoResume (job : BitVec 10)
  | promotionCommit (engine : BitVec 2)
  | placementScanVisit
  | recode (course : BitVec 30)
  | thresholdAdjust
  | rekeyPassCourse
  | destroyDiscardWalkStep
  | ideIntegrityFailure (port : HostPort)
  | cxlIdeKm (port : HostPort) (message : List Byte)
  | pcieIdeKm (port : HostPort) (message : List Byte)
  | spdmGetCertificate (port : HostPort) (offset : BitVec 16) (length : BitVec 16)
  | tspSetKey (ld : LdId) (session : BitVec 16) (ctx : BitVec 13) (wrapped : List Byte)
  | tspReplaceKey (ld : LdId) (session : BitVec 16) (ctx : BitVec 13) (wrapped : List Byte)
  | tspClearKey (ld : LdId) (session : BitVec 16) (ctx : BitVec 13)
  | tspUnsupportedRequest (ld : LdId) (session : BitVec 16) (opcode : BitVec 8)
  | queueHeadExecute (ch : ChannelId)
  | slotReadComplete (ch : ChannelId)
  | bufferDrain (ch : ChannelId)
  | refreshDue (ch : ChannelId)
  | mr4Poll (ch : ChannelId) (codes : BitVec 12)
  | zqCalibrationDue (ch : ChannelId) (passed : Bool) (stallNs : BitVec 32)
  | dqsCheckDue (ch : ChannelId) (drift : BitVec 16)
  | writeDqRetrainTurn (ch : ChannelId) (drift : BitVec 16)
  | writeDqRetrainDone (ch : ChannelId) (passed : Bool) (stallNs : BitVec 32)
  | channelSelfRefreshEntry (ch : ChannelId)
  | groupPowerDownEntry (g : GroupId) (abandoned : Bool)
  | groupWakeComplete (g : GroupId) (ns : BitVec 32)
  | groupTrainingAttemptDone (g : GroupId) (passed : BitVec 8) (failStep : BitVec 8) (failRank : BitVec 8) (settled : Bool) (sensorValid : Bool)
  | stripeRebuild (ch : ChannelId)
  | stripeLockGrant
  | rereadClassify (ch : ChannelId)
  | retirementMovesResume
  | patrolRead
  | patrolLapOverdue
  | rangeScrubStep (ld : LdId)
  | landedRequestEnterStore
  | histogramSample
  | deliverableRateInterval
  | urgencyPinChange (pair : BitVec 2) (level : BitVec 2)
  | laneParityError (port : RaftPort) (lane : BitVec 3)
  | downNoticeReceived (port : RaftPort)
  | hopTrainingDone (port : RaftPort) (result : HopTraining)
  | portRetryTimer (port : RaftPort) (result : HopTraining)
  | forwardedPacketLanded (port : RaftPort) (packet : List Byte)
  | forwardAgeDrop (port : RaftPort)
  | egressPacketSend (port : RaftPort)
  | readRequestPacket (port : RaftPort) (packet : List Byte)
  | writeRequestPacket (port : RaftPort) (packet : List Byte)
  | readResponsePacket (port : RaftPort) (packet : List Byte)
  | writeCompletionPacket (port : RaftPort) (packet : List Byte)
  | ackPacket (port : RaftPort) (packet : List Byte)
  | pairSyncPacket (port : RaftPort) (iv : SyncIv) (packet : List Byte)
  | ackTimer (peer : SledId)
  | replayTimer (peer : SledId)
  | pairUnreachable (peer : SledId)
  | ridgeClaimMessage (port : RaftPort) (claim : Claim)
  | ridgeClaimTimeout
  | heartbeatSend
  | heartbeatReceived (src : SledId) (term : BitVec 32)
  | heartbeatTimeout
  | mapChangeAck (src : SledId) (version : BitVec 32)
  | joinRequest (port : RaftPort) (join : JoinReq)
  | joinComplete (grant : JoinGrant)
  | routeUpdate (src : SledId) (term : BitVec 32) (neighbours : List (SledId × List (RaftPort × SledId))) (routes : List (SledId × BitVec 16))
  | memberProbeTimeout (member : SledId)
  | mirrorCopy (lead : SledId) (copy : MirrorCopy)
  | resilverStep (range : BitVec 12) (usable : Bool)
  | rafterMailboxRequest (port : RaftPort) (packet : List Byte)
  | rafterMailboxReply (port : RaftPort) (packet : List Byte)
  | coreWatchdogExpiry (core : BitVec 2)
  | activationStaged
  | activationPauseEnd (pauseUs : BitVec 32)
  | healthWindowEnd
  | logStoreUpdate (block : BitVec 10) (words : BitVec 16) (readBackOk : Bool)
  | firmwareBoot (tests : BootTests)
  | groupAdmission
  | groupJoin (codecsFailed : BitVec 8) (repairsFailed : BitVec 128)
  | drowseIdleTimer
  | watchEntryStart
  | sleepBlockAnswer (refusal : BitVec 8)
  | sleepAnswerTimeout
  | sleepBackoffRetry
  | watchExitComplete (imageOk : Bool) (saveOk : Bool) (retentionOk : Bool) (directoryOk : Bool) (wakeNs : BitVec 32) (exitUs : BitVec 32)
  | samplerCycle (samples : List (BitVec 16))
  | sidebandAddressMatch (address : BitVec 7)
  | crystalStop
  | timeBaseSave
  | purlinGatedAccess (block : BitVec 8)
  | auxPowerUp
  | prsntAssert
  | prsntDeassert
  | auxExcursion
  | mainExcursion (excess : Bool) (mv : BitVec 16)
  | mainInWindow
  | insertionDelayEnd
  | rampPowerGood
  | railsGood (marchOk : Bool)
  | rampTimeout (sense : TripSense)
  | railsTimeout (sense : TripSense)
  | regulatorFault (sense : TripSense)
  | foldbackEntry
  | soaTimerExpiry (sense : TripSense)
  | fastTrip (sense : TripSense)
  | tripRetry
  | tripCountReset
  | holdupEnd
  | powerConversion (c : Conversion)
  | regionTestInterval (failingWord : Option (BitVec 16)) (finished : Bool)
  | regionTestAbandon
  | bandwidthWindowEnd
  | strapPoll (read : Straps)
  | locateTimeout
  | wakeHoldTimeout
  | alertResponseAddress
  | i3cSetdasa (address : BitVec 7)
  | i3cEntdaa (address : BitVec 7)
  | sensorPoll (groups : List (BitVec 16)) (controller : List (BitVec 16))
  | thermalShutdown (sensor : BitVec 8) (reading : BitVec 16)
  | thermalCooldownEnd
  | hostLinkDown (port : HostPort)
  | linkL1Exit (port : HostPort)
  | foldbackExit
  | unreachablePairReport (src : SledId) (member : SledId)
  | linkKeyConfirmation (src : SledId) (keyId : BitVec 2) (stopped : Bool) (wrapped : List Byte)
  | ridgeTermAnnounce (src : SledId) (term : BitVec 32) (deputy : Option SledId)
  | cascadeMapUpdate (src : SledId) (update : MapUpdate)
  deriving DecidableEq, Repr

end Sys2Proof
end

