-- ==== Sys2Proof/Decode.lean ====
section
/-! DEFINITION. The decoder of table words. spec/opcode_table.json gives no row any bits, so no word spells a command
of this block: commands reach it with their operands (notes/assumptions/1.md). -/

namespace Sys2Proof

/-- The command that a word spells by the bits of the table: none, as no row has bits. -/
def decodeTableWord (_nbits _w : Nat) : Option Instr := none

end Sys2Proof
end

