-- ==== Sys2Proof/Machine/Bytes.lean ====
section
/-! DEFINITION. Byte strings: little- and big-endian fields, slices, exclusive-or, and bit streams written least
significant bit first (spec/03_tile_coding.md R98). -/

namespace Sys2Proof

/-- `n` bytes of `v`, least significant first (every multi-byte field is little-endian, R49). -/
def le : Nat → Nat → List Byte
  | 0, _ => []
  | n + 1, v => BitVec.ofNat 8 v :: le n (v / 256)

/-- The number whose little-endian bytes are given. -/
def ofLe : List Byte → Nat
  | [] => 0
  | b :: rest => b.toNat + 256 * ofLe rest

/-- `n` bytes of `v`, most significant first. -/
def be (n v : Nat) : List Byte := (le n v).reverse

/-- The number whose big-endian bytes are given. -/
def ofBe (bs : List Byte) : Nat := ofLe bs.reverse

/-- `n` bytes of 00h. -/
def zeros (n : Nat) : List Byte := List.replicate n 0

/-- Bytes `o` to `o + n - 1`, with 00h past the end. -/
def slice (bs : List Byte) (o n : Nat) : List Byte :=
  let t := (bs.drop o).take n
  t ++ zeros (n - t.length)

/-- The little-endian number in bytes `o` to `o + n - 1`. -/
def fieldLe (bs : List Byte) (o n : Nat) : Nat := ofLe (slice bs o n)

/-- Bits [hi:lo] of a number. -/
def bits (v hi lo : Nat) : Nat := v / 2 ^ lo % 2 ^ (hi + 1 - lo)

/-- One bit of a number. -/
def bitAt (v i : Nat) : Bool := v / 2 ^ i % 2 == 1

/-- `v` with its bits [hi:lo] replaced by `x`. -/
def setBits (v hi lo x : Nat) : Nat :=
  v / 2 ^ (hi + 1) * 2 ^ (hi + 1) + x % 2 ^ (hi + 1 - lo) * 2 ^ lo + v % 2 ^ lo

/-- Bytewise exclusive-or, as long as the shorter. -/
def xorBytes (a b : List Byte) : List Byte := List.zipWith (· ^^^ ·) a b

/-- Replace the bytes from offset `o` by `new`. -/
def splice (bs : List Byte) (o : Nat) (new : List Byte) : List Byte :=
  slice bs 0 o ++ new ++ bs.drop (o + new.length)

/-- Byte `i` of the first string where bit `i` of the mask is set, else of the second. -/
def mergeBytes (mask : Nat) (new old : List Byte) : List Byte :=
  (List.zip new old).zipIdx.map fun x => if bitAt mask x.2 then x.1.1 else x.1.2

/-- Are all the bytes 00h? -/
def allZero (bs : List Byte) : Bool := bs.all (· == 0)

/-- A string cut into pieces of `n` bytes; `k` pieces. -/
def chunks (n : Nat) : Nat → List Byte → List (List Byte)
  | 0, _ => []
  | k + 1, bs => slice bs 0 n :: chunks n k (bs.drop n)

/-- A Bool as one bit. -/
def b2n (b : Bool) : Nat := if b then 1 else 0

/-- A mask with bit `i` set for every `i` below `n` where `f i` holds. -/
def maskOf (n : Nat) (f : Nat → Bool) : Nat :=
  (List.range n).foldl (fun a i => a + b2n (f i) * 2 ^ i) 0

/-- How many bits below `n` of `v` are set. -/
def popcount (n v : Nat) : Nat := ((List.range n).filter (bitAt v)).length

/-- The low `w` bits of `v`, least significant first. -/
def bitsOf : Nat → Nat → List Bool
  | 0, _ => []
  | w + 1, v => (v % 2 == 1) :: bitsOf w (v / 2)

/-- The number whose bits, least significant first, are given. -/
def ofBits : List Bool → Nat
  | [] => 0
  | b :: rest => b2n b + 2 * ofBits rest

/-- Bits packed into bytes, bit `n` into bit `n mod 8` of byte `n / 8`, padded with 0 bits (R98). -/
def packBits (n : Nat) (bs : List Bool) : List Byte :=
  match n with
  | 0 => []
  | k + 1 => BitVec.ofNat 8 (ofBits (bs.take 8)) :: packBits k (bs.drop 8)

/-- The bits of a byte string, in the order of R98. -/
def unpackBits (bs : List Byte) : List Bool := bs.flatMap fun b => bitsOf 8 b.toNat

/-- ceil(a / b). -/
def ceilDiv (a b : Nat) : Nat := (a + b - 1) / b

end Sys2Proof
end

