-- ==== Sys2Proof/Machine/Gf.lean ====
section
/-! DEFINITION. The two codes on stored data, byte for byte (spec/08_codes_scrub_sparing.md R259 to R268): the light
code RS(68,64) over GF(2^8) with polynomial 11Dh, and the stripe checks P and Q. -/

namespace Sys2Proof.Gf

/-- Multiply by x in GF(2^8), with the reduction byte `p` (1Dh for 11Dh, 1Bh for 11Bh). -/
def xtime (p a : Byte) : Byte := if a.msb then (a <<< 1) ^^^ p else a <<< 1

/-- Product in GF(2^8); `k` is how many bits of `b` are still to be taken. -/
def mulAux (p : Byte) : Nat → Byte → Byte → Byte
  | 0, _, _ => 0
  | k + 1, a, b => (if b.getLsbD 0 then a else 0) ^^^ mulAux p k (xtime p a) (b >>> 1)

/-- Product over 11Dh (R259). -/
def mul (a b : Byte) : Byte := mulAux 0x1D 8 a b

/-- α^n, with α = 02h. -/
def alpha : Nat → Byte
  | 0 => 1
  | n + 1 => xtime 0x1D (alpha n)

/-- The coefficients of x^3 to x^0 of g(x) = (x - 1)(x - α)(x - α^2)(x - α^3), which begins x^4 (R259). -/
def generator : List Byte := [0x0F, 0x36, 0x78, 0x40]

/-- One step of the division by g(x): the remainder register holds x^3 down to x^0. -/
def divStep (r : List Byte) (c : Byte) : List Byte :=
  let f := r.headD 0 ^^^ c
  List.zipWith (fun a g => a ^^^ mul f g) (r.drop 1 ++ [0]) generator

/-- The four check bytes e[0] to e[3] of a slot's 64 ciphertext bytes (R259). -/
def checkBytes (c : List Byte) : List Byte := c.foldl divStep [0, 0, 0, 0]

/-- Syndrome j of a 68-byte codeword, by Horner's rule at α^j. -/
def syndrome (w : List Byte) (j : Nat) : Byte := w.foldl (fun a b => mul a (alpha j) ^^^ b) 0

/-- What the light-code decoder finds (R260). -/
inductive Verdict where
  | clean
  /-- One byte in error: its position 0 to 67 and the value to XOR. -/
  | corrected (pos : Nat) (value : Byte)
  | uncorrectable
  deriving DecidableEq, Repr

/-- The decoder of R260: it corrects only when the four syndromes fit exactly one byte in error among the 68. -/
def verdict (w : List Byte) : Verdict :=
  let s0 := syndrome w 0
  let s1 := syndrome w 1
  let s2 := syndrome w 2
  let s3 := syndrome w 3
  if s0 = 0 ∧ s1 = 0 ∧ s2 = 0 ∧ s3 = 0 then .clean
  else
    match (List.range 68).find? (fun i =>
        s0 != 0 && s1 == mul s0 (alpha (67 - i)) && s2 == mul s1 (alpha (67 - i)) && s3 == mul s2 (alpha (67 - i))) with
    | some i => .corrected i s0
    | none => .uncorrectable

/-- XOR `v` into byte `i`. -/
def flip (w : List Byte) (i : Nat) (v : Byte) : List Byte := splice w i [w.getD i 0 ^^^ v]

/-- The 64 data bytes after correction, or none (R260). -/
def correct (w : List Byte) : Verdict × Option (List Byte) :=
  match verdict w with
  | .clean => (.clean, some (w.take 64))
  | .corrected i v => (.corrected i v, some ((flip w i v).take 64))
  | .uncorrectable => (.uncorrectable, none)

/-- Exclusive-or of a list of 64-byte members. -/
def sumMembers (ds : List (List Byte)) : List Byte := ds.foldl xorBytes (zeros 64)

/-- Check P over the eight data members (R264). -/
def checkP (ds : List (List Byte)) : List Byte := sumMembers ds

/-- Every byte times α^j. -/
def scale (j : Nat) (d : List Byte) : List Byte := d.map (mul (alpha j))

/-- Check Q over the eight data members (R264). -/
def checkQ (ds : List (List Byte)) : List Byte := sumMembers (ds.zipIdx.map fun x => scale x.2 x.1)

/-- Rebuild the one lost member `m` (0 to 7 data, 8 P, 9 Q) of a stripe from the other nine, verified as R267 gives;
none when the verification fails. -/
def rebuild (members : List (List Byte)) (m : Nat) : Option (List Byte) :=
  let ds := members.take 8
  let p := members.getD 8 (zeros 64)
  let q := members.getD 9 (zeros 64)
  if m < 8 then
    let others := ds.set m (zeros 64)
    let d := xorBytes p (sumMembers others)
    if checkQ (ds.set m d) = q then some d else none
  else if m = 8 then (if checkQ ds = q then some (checkP ds) else none)
  else (if checkP ds = p then some (checkQ ds) else none)

/-- Where one byte position's stripe syndromes point (R268): none when clean, else some member or some 10 when they
point nowhere. -/
def locateByte (sp sq : Byte) : Option Nat :=
  if sp = 0 ∧ sq = 0 then none
  else if sp = 0 then some 9
  else if sq = 0 then some 8
  else some (((List.range 8).find? fun j => mul (alpha j) sp == sq).getD 10)

/-- The member that every nonzero byte position points to; none when clean, some 10 when they disagree (R268). -/
def locate (members : List (List Byte)) : Option Nat :=
  let ds := members.take 8
  let sp := xorBytes (checkP ds) (members.getD 8 (zeros 64))
  let sq := xorBytes (checkQ ds) (members.getD 9 (zeros 64))
  match (List.zipWith locateByte sp sq).filterMap id with
  | [] => none
  | m :: rest => if rest.all (· == m) then some m else some 10

end Sys2Proof.Gf
end

