-- ==== Sys2Proof/Machine/Crypto.lean ====
section
/-! DEFINITION. The cryptographic functions the manual names and does not restate (spec/00_scope.md R19): AES-256, XTS
(R192), key wrap (R204), GCM (R220), SHA-384 and HKDF (R203), P-384 (R203, R381), and the CRCs of R108 and R330.
PRESUMED from the public standards (FIPS 197, IEEE 1619, RFC 3394, SP 800-38D, FIPS 180-4, RFC 5869, FIPS 186,
RFC 3720); see notes/assumptions/5.md. -/

namespace Sys2Proof.Crypto

/-! AES-256 (FIPS 197). -/

/-- Product in the field of AES, GF(2^8) with polynomial 11Bh. -/
def amul (a b : Byte) : Byte := Gf.mulAux 0x1B 8 a b

/-- a^254, the inverse of a nonzero byte. -/
def ainv (a : Byte) : Byte :=
  let a2 := amul a a
  let a4 := amul a2 a2
  let a8 := amul a4 a4
  let a16 := amul a8 a8
  let a32 := amul a16 a16
  let a64 := amul a32 a32
  let a128 := amul a64 a64
  amul a2 (amul a4 (amul a8 (amul a16 (amul a32 (amul a64 a128)))))

/-- The substitution of one byte. -/
def subByte (a : Byte) : Byte :=
  let b := ainv a
  b ^^^ b.rotateLeft 1 ^^^ b.rotateLeft 2 ^^^ b.rotateLeft 3 ^^^ b.rotateLeft 4 ^^^ 0x63

/-- The substitution table. -/
def sbox : Array Byte := (Array.range 256).map fun i => subByte (BitVec.ofNat 8 i)

/-- The inverse substitution table. -/
def invSbox : Array Byte :=
  (List.range 256).foldl (fun t i => t.set! (sbox.getD i 0).toNat (BitVec.ofNat 8 i)) (Array.replicate 256 0)

/-- Substitute through the table. -/
def sub (b : Byte) : Byte := sbox.getD b.toNat 0
/-- Substitute through the inverse table. -/
def invSub (b : Byte) : Byte := invSbox.getD b.toNat 0

/-- The next word of the key schedule of a 256-bit key: `ws` holds the words so far, newest first. -/
def nextWord (ws : List (List Byte)) : List Byte :=
  let i := ws.length
  let prev := ws.headD []
  let t :=
    if i % 8 = 0 then
      match (prev.drop 1 ++ prev.take 1).map sub with
      | b :: rest => (b ^^^ ((1 : Byte) <<< (i / 8 - 1))) :: rest
      | [] => []
    else if i % 8 = 4 then prev.map sub else prev
  xorBytes t (ws.getD 7 [])

/-- `n` further words of the schedule. -/
def expandWords : Nat → List (List Byte) → List (List Byte)
  | 0, ws => ws
  | n + 1, ws => expandWords n (nextWord ws :: ws)

/-- The fifteen round keys of a 32-byte key. -/
def roundKeys (key : List Byte) : List (List Byte) :=
  chunks 16 15 (expandWords 52 (chunks 4 8 key).reverse).reverse.flatten

/-- Rows shifted: byte r + 4c comes from byte r + 4(c + r). -/
def shiftRows (s : List Byte) : List Byte :=
  (List.range 16).map fun i => s.getD (i % 4 + 4 * ((i / 4 + i % 4) % 4)) 0

/-- Rows shifted back. -/
def invShiftRows (s : List Byte) : List Byte :=
  (List.range 16).map fun i => s.getD (i % 4 + 4 * ((i / 4 + 4 - i % 4) % 4)) 0

/-- One column times a circulant row of constants. -/
def mixColumn (k : List Byte) (c : List Byte) : List Byte :=
  (List.range 4).map fun r =>
    (List.range 4).foldl (fun a j => a ^^^ amul (k.getD ((j + 4 - r) % 4) 0) (c.getD j 0)) 0

/-- Columns mixed with the given constants. -/
def mixColumns (k : List Byte) (s : List Byte) : List Byte := (chunks 4 4 s).flatMap (mixColumn k)

/-- One block encrypted under expanded round keys. -/
def aesEncRound (keys : List (List Byte)) (s : List Byte) : List Byte :=
  match keys with
  | [] => s
  | [k] => xorBytes (shiftRows (s.map sub)) k
  | k :: rest => aesEncRound rest (xorBytes (mixColumns [2, 3, 1, 1] (shiftRows (s.map sub))) k)

/-- One block decrypted under expanded round keys, last first. -/
def aesDecRound (keys : List (List Byte)) (s : List Byte) : List Byte :=
  match keys with
  | [] => s
  | [k] => xorBytes ((invShiftRows s).map invSub) k
  | k :: rest => aesDecRound rest (mixColumns [14, 11, 13, 9] (xorBytes ((invShiftRows s).map invSub) k))

/-- AES-256 of one 16-byte block. -/
def aesEnc (key block : List Byte) : List Byte :=
  match roundKeys key with
  | [] => block
  | k0 :: rest => aesEncRound rest (xorBytes block k0)

/-- The inverse of `aesEnc`. -/
def aesDec (key block : List Byte) : List Byte :=
  match (roundKeys key).reverse with
  | [] => block
  | kn :: rest => aesDecRound rest (xorBytes block kn)

/-! XTS (R192): a 64-byte data unit of four blocks, tweak string least significant byte first. -/

/-- Multiply a tweak block by x in GF(2^128), little-endian. -/
def xtsDouble (t : List Byte) : List Byte :=
  let v := ofLe t * 2
  le 16 (if v ≥ 2 ^ 128 then (v - 2 ^ 128) ^^^ 0x87 else v)

/-- XTS over the blocks of a unit, `f` being the block function under K1. -/
def xtsBlocks (f : List Byte → List Byte) : List Byte → List (List Byte) → List Byte
  | _, [] => []
  | t, b :: rest => xorBytes (f (xorBytes b t)) t ++ xtsBlocks f (xtsDouble t) rest

/-- Encrypt one slot under K1, K2 and a tweak of R197. -/
def xtsEnc (k1 k2 : List Byte) (tweak : Nat) (unit : List Byte) : List Byte :=
  xtsBlocks (aesEnc k1) (aesEnc k2 (le 16 tweak)) (chunks 16 4 unit)

/-- Decrypt one slot under K1, K2 and a tweak of R197. -/
def xtsDec (k1 k2 : List Byte) (tweak : Nat) (unit : List Byte) : List Byte :=
  xtsBlocks (aesDec k1) (aesEnc k2 (le 16 tweak)) (chunks 16 4 unit)

/-! Key wrap (R204; RFC 3394). -/

/-- One unwrap step of index `t` on the integrity register and register `i` of `r`. -/
def unwrapStep (kek : List Byte) (n : Nat) (st : List Byte × List (List Byte)) (t : Nat) : List Byte × List (List Byte) :=
  let i := (t - 1) % n
  let b := aesDec kek (xorBytes st.1 (be 8 t) ++ st.2.getD i [])
  (b.take 8, st.2.set i (b.drop 8))

/-- Unwrap; none when the integrity check fails. -/
def keyUnwrap (kek c : List Byte) : Option (List Byte) :=
  let n := c.length / 8 - 1
  let st := ((List.range (6 * n)).map (fun k => 6 * n - k)).foldl (unwrapStep kek n) (slice c 0 8, chunks 8 n (c.drop 8))
  if st.1 = List.replicate 8 0xA6 then some st.2.flatten else none

/-- One wrap step of index `t`. -/
def wrapStep (kek : List Byte) (n : Nat) (st : List Byte × List (List Byte)) (t : Nat) : List Byte × List (List Byte) :=
  let i := (t - 1) % n
  let b := aesEnc kek (st.1 ++ st.2.getD i [])
  (xorBytes (b.take 8) (be 8 t), st.2.set i (b.drop 8))

/-- Wrap (the ridge sends link keys wrapped, R222). -/
def keyWrap (kek p : List Byte) : List Byte :=
  let n := p.length / 8
  let st := ((List.range (6 * n)).map (· + 1)).foldl (wrapStep kek n) (List.replicate 8 0xA6, chunks 8 n p)
  st.1 ++ st.2.flatten

/-! GCM (R220; SP 800-38D), a 96-bit IV and a 128-bit tag. -/

/-- Product in the field of GHASH; bit 127 of a number is the first bit of its block. -/
def ghashMul : Nat → Nat → Nat → Nat
  | 0, _, _ => 0
  | k + 1, x, v =>
    (if x / 2 ^ k % 2 = 1 then v else 0) ^^^ ghashMul k x (if v % 2 = 1 then (v / 2) ^^^ (0xE1 * 2 ^ 120) else v / 2)

/-- GHASH of a padded string of blocks. -/
def ghash (h : Nat) (blocks : List (List Byte)) : Nat :=
  blocks.foldl (fun y b => ghashMul 128 (y ^^^ ofBe b) h) 0

/-- A string cut into 16-byte blocks, the last padded with 00h. -/
def gcmBlocks (bs : List Byte) : List (List Byte) := chunks 16 (ceilDiv bs.length 16) bs

/-- The key stream applied to `bs`, counters from 2. -/
def gcmCrypt (key iv bs : List Byte) : List Byte :=
  xorBytes bs ((List.range (ceilDiv bs.length 16)).flatMap fun i => aesEnc key (iv ++ be 4 (i + 2)))

/-- The tag over additional data and ciphertext. -/
def gcmTag (key iv aad ct : List Byte) : List Byte :=
  let h := ofBe (aesEnc key (zeros 16))
  let y := ghash h (gcmBlocks aad ++ gcmBlocks ct ++ [be 8 (8 * aad.length) ++ be 8 (8 * ct.length)])
  xorBytes (be 16 y) (aesEnc key (iv ++ be 4 1))

/-- Seal: ciphertext followed by the tag. -/
def gcmSeal (key iv aad pt : List Byte) : List Byte :=
  let ct := gcmCrypt key iv pt
  ct ++ gcmTag key iv aad ct

/-- Open; none when the tag fails. -/
def gcmOpen (key iv aad sealed : List Byte) : Option (List Byte) :=
  let ct := sealed.take (sealed.length - 16)
  if gcmTag key iv aad ct = sealed.drop (sealed.length - 16) then some (gcmCrypt key iv ct) else none

/-! SHA-384, HMAC and HKDF (R203). -/

/-- floor of the cube root, by bits from `2^k` down. -/
def cbrtBits (n : Nat) : Nat → Nat → Nat
  | 0, r => r
  | k + 1, r => let c := r + 2 ^ k; cbrtBits n k (if c * c * c ≤ n then c else r)

/-- floor of the square root, by bits from `2^k` down. -/
def sqrtBits (n : Nat) : Nat → Nat → Nat
  | 0, r => r
  | k + 1, r => let c := r + 2 ^ k; sqrtBits n k (if c * c ≤ n then c else r)

/-- The first eighty primes. -/
def primes80 : List Nat :=
  (((List.range 410).filter fun n => decide (2 ≤ n) && (List.range n).all fun d => decide (d < 2) || n % d != 0)).take 80

/-- The round constants: fractions of cube roots of the primes. -/
def shaK : List (BitVec 64) := primes80.map fun p => BitVec.ofNat 64 (cbrtBits (p * 2 ^ 192) 68 0)

/-- The initial hash of SHA-384: fractions of square roots of the ninth to sixteenth primes. -/
def shaInit : List (BitVec 64) :=
  ((primes80.drop 8).take 8).map fun p => BitVec.ofNat 64 (sqrtBits (p * 2 ^ 128) 68 0)

/-- The message schedule, newest first, extended by `n` words. -/
def shaExpand : Nat → List (BitVec 64) → List (BitVec 64)
  | 0, w => w
  | n + 1, w =>
    let a := w.getD 14 0
    let b := w.getD 1 0
    let s0 := a.rotateRight 1 ^^^ a.rotateRight 8 ^^^ (a >>> 7)
    let s1 := b.rotateRight 19 ^^^ b.rotateRight 61 ^^^ (b >>> 6)
    shaExpand n ((w.getD 15 0 + s0 + w.getD 6 0 + s1) :: w)

/-- One round on the eight working words. -/
def shaRound (v : List (BitVec 64)) (kw : BitVec 64 × BitVec 64) : List (BitVec 64) :=
  match v with
  | [a, b, c, d, e, f, g, h] =>
    let t1 := h + (e.rotateRight 14 ^^^ e.rotateRight 18 ^^^ e.rotateRight 41) + ((e &&& f) ^^^ (~~~e &&& g)) + kw.1 + kw.2
    let t2 := (a.rotateRight 28 ^^^ a.rotateRight 34 ^^^ a.rotateRight 39) + ((a &&& b) ^^^ (a &&& c) ^^^ (b &&& c))
    [t1 + t2, a, b, c, d + t1, e, f, g]
  | _ => v

/-- One block into the hash. -/
def shaBlock (h : List (BitVec 64)) (block : List Byte) : List (BitVec 64) :=
  let w := shaExpand 64 ((chunks 8 16 block).map fun x => BitVec.ofNat 64 (ofBe x)).reverse
  List.zipWith (· + ·) h ((List.zip shaK w.reverse).foldl shaRound h)

/-- SHA-384 of a byte string. -/
def sha384 (m : List Byte) : List Byte :=
  let padded := m ++ [0x80] ++ zeros ((239 - m.length % 128) % 128) ++ be 16 (8 * m.length)
  (((chunks 128 (padded.length / 128) padded).foldl shaBlock shaInit).take 6).flatMap fun x => be 8 x.toNat

/-- HMAC-SHA-384. -/
def hmac (key m : List Byte) : List Byte :=
  let k := slice (if key.length > 128 then sha384 key else key) 0 128
  sha384 (k.map (· ^^^ 0x5C) ++ sha384 (k.map (· ^^^ 0x36) ++ m))

/-- The first 32 bytes of HKDF-SHA-384 (R203). -/
def hkdf32 (ikm salt info : List Byte) : List Byte := (hmac (hmac salt ikm) (info ++ [1])).take 32

/-! P-384 (R203, R381), affine points; none is the point at infinity. -/

/-- The field prime. -/
def p384 : Nat := 2 ^ 384 - 2 ^ 128 - 2 ^ 96 + 2 ^ 32 - 1
/-- The group order. -/
def n384 : Nat := 0xffffffffffffffffffffffffffffffffffffffffffffffffc7634d81f4372ddf581a0db248b0a77aecec196accc52973
/-- The curve constant b. -/
def b384 : Nat := 0xb3312fa7e23ee7e4988e056be3f82d19181d9c6efe8141120314088f5013875ac656398d8a2ed19d2a85c8edd3ec2aef
/-- The base point. -/
def g384 : Nat × Nat :=
  (0xaa87ca22be8b05378eb1c71ef320ad746e1d3b628ba79b9859f741e082542a385502f25dbf55296c3a545e3872760ab7,
   0x3617de4a96262c6f5d9e98bf9292dc29f8f41dbd289a147ce9da3113b5f0b8c00a60b1ce1d7e819d7a431d7c90ea0e5f)

/-- a^e mod m, over `k` bits of e. -/
def powMod (m : Nat) : Nat → Nat → Nat → Nat
  | 0, _, _ => 1
  | k + 1, a, e => (if e % 2 = 1 then a else 1) * powMod m k (a * a % m) (e / 2) % m

/-- The inverse modulo a prime, by Fermat. -/
def invMod (m a : Nat) : Nat := powMod m 384 (a % m) (m - 2)

/-- Difference modulo m. -/
def subMod (m a b : Nat) : Nat := (a + (m - b % m)) % m

/-- Sum of two points. -/
def ecAdd (p q : Option (Nat × Nat)) : Option (Nat × Nat) :=
  match p, q with
  | none, _ => q
  | _, none => p
  | some (x1, y1), some (x2, y2) =>
    if x1 = x2 ∧ (y1 + y2) % p384 = 0 then none
    else
      let l := if x1 = x2 then (3 * x1 * x1 + (p384 - 3)) * invMod p384 (2 * y1) % p384
               else subMod p384 y2 y1 * invMod p384 (subMod p384 x2 x1) % p384
      let x3 := subMod p384 (subMod p384 (l * l) x1) x2
      some (x3, subMod p384 (l * subMod p384 x1 x3) y1)

/-- k times a point, over `n` bits of k. -/
def ecMul : Nat → Nat → Option (Nat × Nat) → Option (Nat × Nat)
  | 0, _, _ => none
  | n + 1, k, p => ecAdd (if k % 2 = 1 then p else none) (ecMul n (k / 2) (ecAdd p p))

/-- Is the point on the curve? -/
def onCurve (p : Nat × Nat) : Bool :=
  decide (p.1 < p384) && decide (p.2 < p384) && (p.2 * p.2 % p384 == (p.1 * p.1 * p.1 + (p384 - 3) * p.1 + b384) % p384)

/-- A point of 96 bytes, X then Y, big-endian. -/
def pointOf (bs : List Byte) : Nat × Nat := (ofBe (slice bs 0 48), ofBe (slice bs 48 48))

/-- The 96 bytes of a point. -/
def bytesOfPoint : Option (Nat × Nat) → List Byte
  | none => zeros 96
  | some (x, y) => be 48 x ++ be 48 y

/-- The x-coordinate of the shared point of ECDH. -/
def ecdhX (priv : Nat) (peer : Nat × Nat) : List Byte :=
  match ecMul 384 priv (some peer) with
  | none => zeros 48
  | some (x, _) => be 48 x

/-- ECDSA P-384 verification with SHA-384: the signature is r then s, 48 bytes each. -/
def ecdsaVerify (pub : Nat × Nat) (m sig : List Byte) : Bool :=
  let r := ofBe (slice sig 0 48)
  let s := ofBe (slice sig 48 48)
  if r = 0 ∨ s = 0 ∨ r ≥ n384 ∨ s ≥ n384 then false
  else
    let w := invMod n384 s
    let e := ofBe (sha384 m)
    match ecAdd (ecMul 384 (e * w % n384) (some g384)) (ecMul 384 (r * w % n384) (some pub)) with
    | none => false
    | some (x, _) => x % n384 == r

/-! The cyclic redundancy checks. -/

/-- One byte into a reflected CRC-32C register, `k` bits left. -/
def crc32cBits : Nat → BitVec 32 → BitVec 32
  | 0, r => r
  | k + 1, r => crc32cBits k (if r.getLsbD 0 then (r >>> 1) ^^^ 0x82F63B78 else r >>> 1)

/-- CRC-32C of RFC 3720 (R108). -/
def crc32c (bs : List Byte) : BitVec 32 :=
  ~~~(bs.foldl (fun r b => crc32cBits 8 (r ^^^ b.setWidth 32)) 0xFFFFFFFF)

/-- One byte into the CRC-16 register of R330, `k` bits left. -/
def crc16Bits : Nat → BitVec 16 → BitVec 16
  | 0, r => r
  | k + 1, r => crc16Bits k (if r.msb then (r <<< 1) ^^^ 0x1021 else r <<< 1)

/-- CRC-16, polynomial 1021h, initial value FFFFh, not reflected, no final XOR (R330). -/
def crc16 (bs : List Byte) : BitVec 16 :=
  bs.foldl (fun r b => crc16Bits 8 (r ^^^ ((b.setWidth 16 : BitVec 16) <<< (8 : Nat)))) 0xFFFF

end Sys2Proof.Crypto
end

