-- ==== Sys2Proof/Machine/TileCode.lean ====
section
/-! DEFINITION. The tile codes, bit for bit (spec/03_tile_coding.md R96 to R111, R122, R123): the native coded form with
its 38 candidates, and the Phioz home and pointer forms. -/

namespace Sys2Proof.TileCode

/-- The width of a word: 32 or 64 bits (header bit [4], R100). -/
def wordBits (wide : Bool) : Nat := if wide then 64 else 32
/-- Words of a tile at that width. -/
def wordCount (wide : Bool) : Nat := if wide then 32 else 64

/-- A form the header byte and parameter byte name (R100, R101). -/
structure Form where
  predictor : Nat
  wide      : Bool
  uniform   : Bool
  /-- The parameter of P6; 0 otherwise. -/
  k         : Nat
  deriving DecidableEq, Repr

/-- The header byte of R100. -/
def Form.header (f : Form) : Byte := BitVec.ofNat 8 (f.predictor * 32 + b2n f.wide * 16 + b2n f.uniform * 4)

/-- The words of a tile (R96). -/
def wordsOf (wide : Bool) (t : List Byte) : List Nat :=
  (chunks (wordBits wide / 8) (wordCount wide) t).map ofLe

/-- The bytes of a list of words (R96). -/
def bytesOf (wide : Bool) (ws : List Nat) : List Byte := ws.flatMap (le (wordBits wide / 8))

/-- The prediction p[i] of P0 to P3 and P6; `h` holds the words before i, newest first (R101). -/
def predict (predictor : Nat) (wide : Bool) (k : Nat) (h : List Nat) : Nat :=
  let n := wordCount wide
  let i := h.length
  let m := 2 ^ wordBits wide
  match predictor with
  | 1 => h.getD 0 0
  | 2 => if i = 0 then 0 else if i = 1 then h.getD 0 0 else (2 * h.getD 0 0 + m - h.getD 1 0) % m
  | 3 => if i < n / 4 then h.getD 0 0 else h.getD (n / 4 - 1) 0
  | 6 => h.getD 0 0 / 2 ^ k * 2 ^ k
  | _ => 0

/-- Zig-zag map of a residue modulo 2^E (R102). -/
def zigzag (e r : Nat) : Nat := if r < 2 ^ (e - 1) then 2 * r else 2 * (2 ^ e - r) - 1

/-- The inverse of `zigzag` (R102). -/
def unzigzag (e z : Nat) : Nat := if z % 2 = 0 then z / 2 else 2 ^ e - (z + 1) / 2

/-- Difference modulo 2^E. -/
def subE (e a b : Nat) : Nat := (a + 2 ^ e - b) % 2 ^ e

/-- How many bits a value needs; 0 for 0. -/
def bitLen (v : Nat) : Nat := if v = 0 then 0 else Nat.log2 v + 1

/-- The width in bits a width code gives (R103). -/
def codeWidth (wide : Bool) (v : Nat) : Nat :=
  if v = 31 then wordBits wide else if wide then 2 * v else v

/-- The smallest width code whose width holds `b` bits (R103). -/
def widthCode (wide : Bool) (b : Nat) : Nat :=
  if wide then (if b ≤ 60 then (b + 1) / 2 else 31) else (if b ≤ 30 then b else 31)

/-- One group: a 5-bit width code and its residues at that width (R104). -/
def putGroup (wide : Bool) (zs : List Nat) : List Bool :=
  let c := widthCode wide (zs.foldl (fun a z => max a (bitLen z)) 0)
  bitsOf 5 c ++ zs.flatMap (bitsOf (codeWidth wide c))

/-- Lists cut into eights. -/
def eights : Nat → List Nat → List (List Nat)
  | 0, _ => []
  | k + 1, zs => zs.take 8 :: eights k (zs.drop 8)

/-- A residue stream under the uniform or the grouped scheme (R104). -/
def putStream (wide uniform : Bool) (zs : List Nat) : List Bool :=
  if uniform then putGroup wide zs else (eights (zs.length / 8) zs).flatMap (putGroup wide)

/-- Zig-zag residues of the words under P0 to P3 or P6; `h` holds the words before, newest first. -/
def residues (predictor : Nat) (wide : Bool) (k : Nat) : List Nat → List Nat → List Nat
  | _, [] => []
  | h, w :: rest =>
    zigzag (wordBits wide) (subE (wordBits wide) w (predict predictor wide k h))
      :: residues predictor wide k (w :: h) rest

/-- Field width of the sign and exponent stream of P4 (R105). -/
def eS (wide : Bool) : Nat := if wide then 12 else 9
/-- Field width of the mantissa stream of P4 (R105). -/
def eM (wide : Bool) : Nat := if wide then 52 else 23

/-- Zig-zag differences of consecutive values over field width `e`. -/
def diffs (e : Nat) : Nat → List Nat → List Nat
  | _, [] => []
  | prev, v :: rest => zigzag e (subE e v prev) :: diffs e v rest

/-- Runs of equal words: value and length (R106). -/
def runs : List Nat → List (Nat × Nat)
  | [] => []
  | w :: rest =>
    match runs rest with
    | (v, n) :: more => if v = w then (v, n + 1) :: more else (w, 1) :: (v, n) :: more
    | [] => [(w, 1)]

/-- The run records of P5 (R106). -/
def putRuns (wide : Bool) : Nat → List (Nat × Nat) → List Bool
  | _, [] => []
  | prev, (v, n) :: rest =>
    let z := zigzag (wordBits wide) (subE (wordBits wide) v prev)
    let c := widthCode wide (bitLen z)
    bitsOf (if wide then 5 else 6) (n - 1) ++ bitsOf 5 c ++ bitsOf (codeWidth wide c) z ++ putRuns wide v rest

/-- The body bits of a tile in a form. -/
def putBody (f : Form) (t : List Byte) : List Bool :=
  let ws := wordsOf f.wide t
  match f.predictor with
  | 4 =>
    putStream f.wide f.uniform (diffs (eS f.wide) 0 (ws.map (· / 2 ^ eM f.wide))) ++
      putStream f.wide f.uniform (diffs (eM f.wide) 0 (ws.map (· % 2 ^ eM f.wide)))
  | 5 => putRuns f.wide 0 (runs ws)
  | p => putStream f.wide f.uniform (residues p f.wide f.k [] ws)

/-- The native coded form of a tile: check, header, parameter, body (R98). -/
def encodeAs (f : Form) (t : List Byte) : List Byte :=
  let body := putBody f t
  le 4 (Crypto.crc32c t).toNat ++ [f.header] ++ (if f.predictor = 6 then [BitVec.ofNat 8 f.k] else []) ++
    packBits (ceilDiv body.length 8) body

/-- The 38 candidates, in the tie order of R109. -/
def candidates : List Form :=
  [false, true].flatMap fun wide =>
    ([0, 1, 2, 3, 4].flatMap fun p => [⟨p, wide, false, 0⟩, ⟨p, wide, true, 0⟩]) ++ [⟨5, wide, false, 0⟩] ++
      ([false, true].flatMap fun u => (if wide then [12, 16, 24, 32] else [8, 12, 16, 20]).map fun k => ⟨6, wide, u, k⟩)

/-- The candidate with the smallest L, the earliest among equals (R109). -/
def best (t : List Byte) : Form × List Byte :=
  candidates.foldl (fun b f => let e := encodeAs f t; if e.length < b.2.length then (f, e) else b)
    (⟨0, false, false, 0⟩, encodeAs ⟨0, false, false, 0⟩ t)

/-- The coded form, or none when its L exceeds 192 bytes (R110). -/
def encode (t : List Byte) : Option (Form × List Byte) :=
  let b := best t
  if b.2.length ≤ 192 then some b else none

/-- Slots a tile needs when a new reservation is sized: an all-zero tile none, a coded form ceil(L / 64), else four
(R110). -/
def slotsNew (t : List Byte) : Nat :=
  if allZero t then 0 else match encode t with | some (_, e) => ceilDiv e.length 64 | none => 4

/-! Decoding (R107, R111). -/

/-- Take an n-bit field, least significant bit first; none at the end of the body. -/
def takeBits (n : Nat) (bs : List Bool) : Option (Nat × List Bool) :=
  if (bs.take n).length = n then some (ofBits (bs.take n), bs.drop n) else none

/-- Take a 5-bit width code for a stream of field width `e`; a wider code is a decode fault (R103). -/
def takeWidth (wide : Bool) (e : Nat) (bs : List Bool) : Option (Nat × List Bool) :=
  match takeBits 5 bs with
  | none => none
  | some (c, rest) => if codeWidth wide c ≤ e then some (codeWidth wide c, rest) else none

/-- Take `n` values of `w` bits. -/
def takeMany (w : Nat) : Nat → List Bool → Option (List Nat × List Bool)
  | 0, bs => some ([], bs)
  | n + 1, bs =>
    match takeBits w bs with
    | none => none
    | some (v, rest) =>
      match takeMany w n rest with
      | none => none
      | some (vs, rest') => some (v :: vs, rest')

/-- Take one group of `n` residues. -/
def takeGroup (wide : Bool) (e n : Nat) (bs : List Bool) : Option (List Nat × List Bool) :=
  match takeWidth wide e bs with
  | none => none
  | some (w, rest) => takeMany w n rest

/-- Take `g` groups of eight. -/
def takeGroups (wide : Bool) (e : Nat) : Nat → List Bool → Option (List Nat × List Bool)
  | 0, bs => some ([], bs)
  | g + 1, bs =>
    match takeGroup wide e 8 bs with
    | none => none
    | some (vs, rest) =>
      match takeGroups wide e g rest with
      | none => none
      | some (more, rest') => some (vs ++ more, rest')

/-- Take a stream of a tile's n residues (R104). -/
def takeStream (wide uniform : Bool) (e : Nat) (bs : List Bool) : Option (List Nat × List Bool) :=
  if uniform then takeGroup wide e (wordCount wide) bs else takeGroups wide e (wordCount wide / 8) bs

/-- Words from zig-zag residues under P0 to P3 or P6; `h` holds the words so far, newest first. -/
def undoResidues (predictor : Nat) (wide : Bool) (k : Nat) : List Nat → List Nat → List Nat
  | h, [] => h.reverse
  | h, z :: rest =>
    undoResidues predictor wide k
      ((predict predictor wide k h + unzigzag (wordBits wide) z) % 2 ^ wordBits wide :: h) rest

/-- Values from zig-zag differences. -/
def undoDiffs (e : Nat) : Nat → List Nat → List Nat
  | _, [] => []
  | prev, z :: rest => let v := (prev + unzigzag e z) % 2 ^ e; v :: undoDiffs e v rest

/-- Run records until `left` words are produced (R106, R107). -/
def takeRuns (wide : Bool) : Nat → Nat → Nat → List Bool → Option (List Nat × List Bool)
  | 0, _, left, bs => if left = 0 then some ([], bs) else none
  | fuel + 1, prev, left, bs =>
    if left = 0 then some ([], bs) else
    match takeBits (if wide then 5 else 6) bs with
    | none => none
    | some (l, r1) =>
      match takeWidth wide (wordBits wide) r1 with
      | none => none
      | some (w, r2) =>
        match takeBits w r2 with
        | none => none
        | some (z, r3) =>
          let v := (prev + unzigzag (wordBits wide) z) % 2 ^ wordBits wide
          if l + 1 > left then none else
          match takeRuns wide fuel v (left - (l + 1)) r3 with
          | none => none
          | some (ws, r4) => some (List.replicate (l + 1) v ++ ws, r4)

/-- The words of a body and the bits after it. -/
def takeBody (f : Form) (bs : List Bool) : Option (List Nat × List Bool) :=
  match f.predictor with
  | 4 =>
    match takeStream f.wide f.uniform (eS f.wide) bs with
    | none => none
    | some (zs, r1) =>
      match takeStream f.wide f.uniform (eM f.wide) r1 with
      | none => none
      | some (zm, r2) =>
        some (List.zipWith (fun s m => s * 2 ^ eM f.wide + m) (undoDiffs (eS f.wide) 0 zs) (undoDiffs (eM f.wide) 0 zm), r2)
  | 5 => takeRuns f.wide 64 0 (wordCount f.wide) bs
  | p =>
    match takeStream f.wide f.uniform (wordBits f.wide) bs with
    | none => none
    | some (zs, r) => some (undoResidues p f.wide f.k [] zs, r)

/-- The form a header and parameter byte name; none where they are reserved or out of range (R100, R101, R106). -/
def formOf (header param : Byte) : Option Form :=
  let h := header.toNat
  let f : Form := ⟨h / 32, bitAt h 4, bitAt h 2, if h / 32 = 6 then param.toNat else 0⟩
  if f.predictor > 6 ∨ h % 4 ≠ 0 ∨ bitAt h 3 = true ∨ (f.predictor = 5 ∧ f.uniform = true) ∨
      (f.predictor = 6 ∧ (f.k = 0 ∨ f.k ≥ wordBits f.wide)) then none
  else some f

/-- What reading a coded tile gives (R107, R108). -/
inductive Read where
  /-- The plaintext, the length L and the header byte. -/
  | good (tile : List Byte) (len : Nat) (header : Byte)
  /-- The tile check does not match. -/
  | mismatch
  /-- A decode fault of R107. -/
  | fault
  deriving DecidableEq, Repr

/-- Decode the bytes of a whole reservation (R99, R107, R108). -/
def decode (bs : List Byte) : Read :=
  match formOf (bs.getD 4 0) (bs.getD 5 0) with
  | none => .fault
  | some f =>
    let start := if f.predictor = 6 then 6 else 5
    let body := unpackBits (bs.drop start)
    match takeBody f body with
    | none => .fault
    | some (ws, rest) =>
      let used := body.length - rest.length
      let len := start + ceilDiv used 8
      let slots := ceilDiv len 64
      let tile := bytesOf f.wide ws
      if rest.take (8 * (64 * slots - start) - used) |>.any id then .fault
      else if ofLe (bs.take 4) = (Crypto.crc32c tile).toNat then .good tile len f.header else .mismatch

/-! The Phioz fixed-ratio format (R122, R123). -/

/-- The 63 deltas of a tile read as 32-bit words, modulo 2^32. -/
def phiozDeltas : List Nat → List Nat
  | a :: b :: rest => subE 32 b a :: phiozDeltas (b :: rest)
  | _ => []

/-- Does a delta fit `w` bits, signed? -/
def fitsSigned (w d : Nat) : Bool := decide (d < 2 ^ (w - 1)) || decide (d ≥ 2 ^ 32 - 2 ^ (w - 1))

/-- The delta width code: the narrowest of 8, 12 and 15 bits that holds every delta; none when 15 do not (R122). -/
def phiozWidth (ds : List Nat) : Option Nat :=
  if ds.all (fitsSigned 8) then some 0 else if ds.all (fitsSigned 12) then some 1
  else if ds.all (fitsSigned 15) then some 2 else none

/-- Bits of a delta under a width code. -/
def phiozBits (c : Nat) : Nat := if c = 0 then 8 else if c = 1 then 12 else 15

/-- The home form of a tile, 128 bytes; none when the deltas need more than 15 bits (R122). -/
def phiozHome (t : List Byte) : Option (List Byte) :=
  let ws := wordsOf false t
  match phiozWidth (phiozDeltas ws) with
  | none => none
  | some c =>
    let ds := (phiozDeltas ws).flatMap fun d => bitsOf (phiozBits c) d
    some ([BitVec.ofNat 8 (c * 64)] ++ le 4 (ws.getD 0 0) ++ slice (packBits (ceilDiv ds.length 8) ds) 0 119 ++
      le 4 (Crypto.crc32c t).toNat)

/-- The pointer form of a tile whose overflow run starts at slot address `a` (R123). -/
def phiozPointer (a : Nat) (t : List Byte) : List Byte :=
  [0xC0] ++ le 5 a ++ zeros 118 ++ le 4 (Crypto.crc32c t).toNat

/-- The words from the first one and the deltas, each sign-extended from `w` bits (R122). -/
def phiozWords (w : Nat) : Nat → List Nat → List Nat
  | prev, [] => [prev]
  | prev, d :: rest =>
    let x := if d < 2 ^ (w - 1) then d else d + 2 ^ 32 - 2 ^ w
    prev :: phiozWords w ((prev + x) % 2 ^ 32) rest

/-- Decode a home form of 128 bytes; nonzero padding or a check mismatch is a tile check failure (R122). -/
def phiozDecode (bs : List Byte) : Read :=
  let h := (bs.getD 0 0).toNat
  if h % 64 ≠ 0 ∨ h / 64 = 3 then .fault else
  let w := phiozBits (h / 64)
  let body := unpackBits (slice bs 5 119)
  match takeMany w 63 body with
  | none => .fault
  | some (ds, rest) =>
    let tile := bytesOf false (phiozWords w (fieldLe bs 1 4) ds)
    if rest.any id then .mismatch
    else if fieldLe bs 124 4 = (Crypto.crc32c tile).toNat then .good tile 128 (bs.getD 0 0) else .mismatch

/-- The overflow slot address of a pointer form of 128 bytes; none is a decode fault (R123). -/
def phiozOverflow (bs : List Byte) : Option Nat :=
  if bs.getD 0 0 = 0xC0 ∧ fieldLe bs 1 5 < 2 ^ 35 then some (fieldLe bs 1 5) else none

end Sys2Proof.TileCode
end

