-- ==== Sys2Proof/Machine/ThatchForm.lean ====
section
/-! DEFINITION. The thatched form of a bundle (spec/04_thatching_and_placement.md R133 to R138, R149): four course
checks, a length and 64 tile records, each value Rice-coded under eight adaptive parameters. The engine's choice among
the forms of R139 is a plan handed in; the writer takes from a plan only what R134 and R135 allow. -/

namespace Sys2Proof.Thatch

open TileCode

/-- One item of a coded tile record (R135). -/
inductive Item where
  | residue
  /-- A match of `len` words at distance `dist` in 4-byte units. -/
  | copy (len dist : Nat)
  deriving DecidableEq, Repr

/-- What the engine chooses for one tile (R134, R139). -/
inductive Plan where
  | zero
  | tileCopy (d : Nat)
  | coded (predictor : Nat) (wide : Bool) (k : Nat) (items : List Item)
  deriving DecidableEq, Repr, Inhabited

/-- The eight Rice parameters in the order of R137: kr32, kr64, ks32, ks64, km32, km64, kL, kD. -/
abbrev Params := List Nat

/-- Their values at a bundle start (R137). -/
def Params.start : Params := [0, 0, 0, 0, 0, 0, 0, 6]

/-- The field width E of each stream (R137). -/
def fieldWidth (stream : Nat) : Nat := [32, 64, 9, 12, 23, 52, 6, 12].getD stream 0

/-- The streams of a predictor's residues at a word width (R137). -/
def residueStream (wide : Bool) : Nat := if wide then 1 else 0
/-- The sign and exponent stream of P4. -/
def signStream (wide : Bool) : Nat := if wide then 3 else 2
/-- The mantissa stream of P4. -/
def mantStream (wide : Bool) : Nat := if wide then 5 else 4

/-- The parameter after a value whose quotient is `q` (R136). -/
def adapt (k q e : Nat) : Nat := if q = 0 then k - 1 else if q ≥ 2 then min (k + 1) (e - 1) else k

/-- The parameters after a value of quotient `q` on a stream. -/
def adaptAt (ps : Params) (stream q : Nat) : Params := ps.set stream (adapt (ps.getD stream 0) q (fieldWidth stream))

/-- The code of a value on a stream (R136). -/
def putRice (ps : Params) (stream v : Nat) : List Bool × Params :=
  let k := ps.getD stream 0
  let q := v / 2 ^ k
  (if q < 24 then List.replicate q true ++ [false] ++ bitsOf k v
   else List.replicate 24 true ++ bitsOf (fieldWidth stream) v, adaptAt ps stream q)

/-- The bytes copied by a match: `n` bytes from `dist` bytes back; `h` holds the bundle bytes so far, newest first. -/
def copyBytes (dist : Nat) : Nat → List Byte → List Byte
  | 0, h => h
  | n + 1, h => copyBytes dist n (h.getD (dist - 1) 0 :: h)

/-- Residue bits of the next word (R135); `h` holds the tile's words so far, newest first. -/
def putResidue (f : Form) (ps : Params) (h : List Nat) (w : Nat) : List Bool × Params :=
  if f.predictor = 4 then
    let prev := h.getD 0 0
    let a := putRice ps (signStream f.wide)
      (zigzag (eS f.wide) (subE (eS f.wide) (w / 2 ^ eM f.wide) (prev / 2 ^ eM f.wide)))
    let b := putRice a.2 (mantStream f.wide)
      (zigzag (eM f.wide) (subE (eM f.wide) (w % 2 ^ eM f.wide) (prev % 2 ^ eM f.wide)))
    (a.1 ++ b.1, b.2)
  else
    putRice ps (residueStream f.wide)
      (zigzag (wordBits f.wide) (subE (wordBits f.wide) w (predict f.predictor f.wide f.k h)))

/-- The items of a coded tile; `bh` is the bundle so far and `h` the tile's words so far, both newest first. A copy
item that R135 does not allow, or that does not give the tile's own bytes, is written as a residue. -/
def putItems (f : Form) : Nat → List Item → Params → List Byte → List Nat → List Nat → List Bool × Params
  | 0, _, ps, _, _, _ => ([], ps)
  | _, _, ps, _, _, [] => ([], ps)
  | fuel + 1, items, ps, bh, h, w :: ws =>
    let wb := wordBits f.wide / 8
    let asResidue : List Bool × Params :=
      let a := putResidue f ps h w
      let b := putItems f fuel (items.drop 1) a.2 ((le wb w).reverse ++ bh) (w :: h) ws
      (false :: a.1 ++ b.1, b.2)
    match items.head? with
    | some (.copy len dist) =>
      let src := ((w :: ws).take len)
      let bh' := copyBytes (4 * dist) (wb * len) bh
      if 2 ≤ len ∧ len ≤ ws.length + 1 ∧ 1 ≤ dist ∧ 4 * dist ≤ bh.length ∧
          bh'.take (wb * len) = (src.flatMap (le wb)).reverse then
        let a := putRice ps 6 (len - 2)
        let b := putRice a.2 7 (dist - 1)
        let c := putItems f fuel (items.drop 1) b.2 bh' (src.reverse ++ h) (ws.drop (len - 1))
        (true :: a.1 ++ b.1 ++ c.1, c.2)
      else asResidue
    | _ => asResidue

/-- A coded tile record (R134, R135). -/
def putCoded (f : Form) (items : List Item) (ps : Params) (bh t : List Byte) : List Bool × Params :=
  let r := putItems f (wordCount f.wide) items ps bh [] (wordsOf f.wide t)
  (bitsOf 2 1 ++ bitsOf 8 f.header.toNat ++ (if f.predictor = 6 then bitsOf 8 f.k else []) ++ r.1, r.2)

/-- The record of bundle tile j under a plan; `done` holds the earlier tiles, newest first (R134). -/
def putTile (plan : Plan) (ps : Params) (done : List (List Byte)) (t : List Byte) : List Bool × Params :=
  let bh := done.flatMap List.reverse
  let literal := putCoded ⟨0, false, false, 0⟩ [] ps bh t
  match plan with
  | .zero => if allZero t then (bitsOf 2 0, ps) else literal
  | .tileCopy d =>
    if 1 ≤ d ∧ d ≤ done.length ∧ done.getD (d - 1) [] = t then (bitsOf 2 2 ++ bitsOf 6 d, ps) else literal
  | .coded p wide k items =>
    if (p ≤ 4 ∨ p = 6) ∧ (p = 6 → 1 ≤ k ∧ k < wordBits wide) then
      putCoded ⟨p, wide, false, if p = 6 then k else 0⟩ items ps bh t
    else literal

/-- The bundle bytes: header and body (R133). -/
def formBytes (courses : List (List Byte)) (body : List Bool) : List Byte :=
  let bodyBytes := packBits (ceilDiv body.length 8) body
  (courses.flatMap fun c => le 4 (Crypto.crc32c c).toNat) ++ [0x10, 0] ++ le 2 (20 + bodyBytes.length) ++ bodyBytes

/-- Slots of a form whose body has `n` bits. -/
def slotsOfBits (n : Nat) : Nat := ceilDiv (20 + ceilDiv n 8) 64

/-! Decoding (R138, R149). -/

/-- A decoding step: a value, the parameters and the bits left, or a fault with the bits left where it was found. -/
inductive Dec (α : Type) where
  | ok (v : α) (ps : Params) (rest : List Bool)
  | bad (left : Nat)

/-- Read one Rice value (R136); a value that does not fit E is a decode fault. -/
def takeRice (ps : Params) (stream : Nat) (bs : List Bool) : Dec Nat :=
  let k := ps.getD stream 0
  let e := fieldWidth stream
  let q := ((bs.take 24).takeWhile id).length
  let r := if q < 24 then takeBits k (bs.drop (q + 1)) else takeBits e (bs.drop 24)
  match r with
  | none => .bad 0
  | some (low, rest) =>
    let v := if q < 24 then q * 2 ^ k + low else low
    if v < 2 ^ e then .ok v (adaptAt ps stream (v / 2 ^ k)) rest else .bad rest.length

/-- Read the items of a coded tile until `n` words stand; the bundle so far and the tile's words, newest first. -/
def takeItems (f : Form) : Nat → Params → List Byte → List Nat → List Bool → Dec (List Byte)
  | 0, ps, bh, _, bs => .ok bh ps bs
  | fuel + 1, ps, bh, h, bs =>
    let n := wordCount f.wide
    let wb := wordBits f.wide / 8
    if h.length ≥ n then .ok bh ps bs else
    match bs with
    | [] => .bad 0
    | true :: r0 =>
      match takeRice ps 6 r0 with
      | .bad x => .bad x
      | .ok l ps1 r1 =>
        match takeRice ps1 7 r1 with
        | .bad x => .bad x
        | .ok d ps2 r2 =>
          if l + 2 ≤ n - h.length ∧ 4 * (d + 1) ≤ bh.length then
            let bh' := copyBytes (4 * (d + 1)) (wb * (l + 2)) bh
            let ws := (chunks wb (l + 2) (bh'.take (wb * (l + 2))).reverse).map ofLe
            takeItems f fuel ps2 bh' (ws.reverse ++ h) r2
          else .bad r2.length
    | false :: r0 =>
      if f.predictor = 4 then
        match takeRice ps (signStream f.wide) r0 with
        | .bad x => .bad x
        | .ok zs ps1 r1 =>
          match takeRice ps1 (mantStream f.wide) r1 with
          | .bad x => .bad x
          | .ok zm ps2 r2 =>
            let prev := h.getD 0 0
            let s := (prev / 2 ^ eM f.wide + unzigzag (eS f.wide) zs) % 2 ^ eS f.wide
            let m := (prev % 2 ^ eM f.wide + unzigzag (eM f.wide) zm) % 2 ^ eM f.wide
            let w := s * 2 ^ eM f.wide + m
            takeItems f fuel ps2 ((le wb w).reverse ++ bh) (w :: h) r2
      else
        match takeRice ps (residueStream f.wide) r0 with
        | .bad x => .bad x
        | .ok z ps1 r1 =>
          let w := (predict f.predictor f.wide f.k h + unzigzag (wordBits f.wide) z) % 2 ^ wordBits f.wide
          takeItems f fuel ps1 ((le wb w).reverse ++ bh) (w :: h) r1

/-- Read one tile record; `j` is its number and `bh` the bundle so far, newest first (R134). -/
def takeTile (j : Nat) (ps : Params) (bh : List Byte) (bs : List Bool) : Dec (List Byte) :=
  match takeBits 2 bs with
  | none => .bad 0
  | some (0, r) => .ok (zeros 256 ++ bh) ps r
  | some (1, r) =>
    match takeBits 8 r with
    | none => .bad 0
    | some (h, r1) =>
      let isP6 := decide (h / 32 = 6)
      match (if isP6 then takeBits 8 r1 else some (0, r1)) with
      | none => .bad 0
      | some (k, r2) =>
        match formOf (BitVec.ofNat 8 h) (BitVec.ofNat 8 k) with
        | none => .bad r2.length
        | some f => if f.predictor = 5 ∨ f.uniform then .bad r2.length else takeItems f (wordCount f.wide) ps bh [] r2
  | some (2, r) =>
    match takeBits 6 r with
    | none => .bad 0
    | some (d, r1) => if 1 ≤ d ∧ d ≤ j then .ok (copyBytes (256 * d) 256 bh) ps r1 else .bad r1.length
  | some (_, r) => .bad r.length

/-- Read `n` tile records from record j on. -/
def takeTiles : Nat → Nat → Params → List Byte → List Bool → Dec (List Byte)
  | 0, _, ps, bh, bs => .ok bh ps bs
  | n + 1, j, ps, bh, bs =>
    match takeTile j ps bh bs with
    | .bad x => .bad x
    | .ok bh' ps' r => takeTiles n (j + 1) ps' bh' r

/-- What became of one course of a bundle: its plaintext, or the cause of event 0402h: 1 course check, 2 decode
fault, 3 uncorrectable slot (R149). -/
inductive CourseResult where
  | good (bytes : List Byte)
  | lost (cause : Nat)
  deriving DecidableEq, Repr

/-- The courses from `c` on: `bad` lists the data slots no code corrects, `total` the body's bits. -/
def takeCourses (checks : List Nat) (bad : List Nat) (total : Nat) : Nat → Nat → Params → List Byte → List Bool → List CourseResult
  | 0, _, _, _, _ => []
  | n + 1, c, ps, bh, bs =>
    let from' := 20 + (total - bs.length) / 8
    let touched (left : Nat) : Bool :=
      bad.any fun s => decide (64 * s + 63 ≥ from') && decide (64 * s ≤ 20 + (total - left - 1) / 8)
    match takeTiles 16 (16 * c) ps bh bs with
    | .bad left => List.replicate (n + 1) (.lost (if touched left then 3 else 2))
    | .ok bh' ps' r =>
      if touched r.length then List.replicate (n + 1) (.lost 3) else
      let bytes := (bh'.take 4096).reverse
      (if checks.getD c 0 = (Crypto.crc32c bytes).toNat then CourseResult.good bytes else .lost 1)
        :: takeCourses checks bad total n (c + 1) ps' bh' r

/-- After the 64th record: does the body end at L with zero padding? (R138) -/
def endFault (len : Nat) (body : List Byte) : Bool :=
  match takeTiles 64 0 Params.start [] (unpackBits body) with
  | .bad _ => false
  | .ok _ _ r =>
    let used := 8 * body.length - r.length
    decide (20 + ceilDiv used 8 ≠ len) || (r.any id)

/-- Decode a bundle run of `n` data slots: the four courses' results (R138, R149). -/
def decodeBundle (run : List Byte) (n : Nat) (bad : List Nat) : List CourseResult :=
  if bad.contains 0 then List.replicate 4 (.lost 3) else
  let len := fieldLe run 18 2
  if (run.getD 16 0).toNat ≠ 16 ∨ (run.getD 17 0).toNat ≠ 0 ∨ len > 64 * n ∨ len < 20 then List.replicate 4 (.lost 2) else
  let body := (run.drop 20).take (len - 20)
  let all := unpackBits body
  let checks := (chunks 4 4 run).map ofLe
  let cs := takeCourses checks bad all.length 4 0 Params.start [] all
  let tail := (run.drop len).take (64 * n - len)
  if (bad.isEmpty && (endFault len body || !allZero tail)) then
    match cs with
    | [a, b, c, .good _] => [a, b, c, .lost 2]
    | _ => cs
  else cs

end Sys2Proof.Thatch
end

