-- ==== Sys2Proof/Config.lean ====
section
/-! DEFINITION. What the spec leaves to the unit or to chance: values with no body, so that no proof can know them
(notes/assumptions/6.md to 8.md). Each use of a drawn value passes a counter that the step advances. -/

namespace Sys2Proof.Config

/-- The 32-byte values that the random generator of the hub die gives, in order (R195): keys, ephemeral scalars. -/
opaque drawn : Nat → BitVec 256

/-- The P-384 public key whose digest is fused in the hub die, X then Y (R381). -/
opaque fusedKey : BitVec 768

/-- The attestation signature r then s that the sled puts over a digest (R203); the nonce is the sled's own. -/
opaque attestation : BitVec 384 → BitVec 768

/-- The certificate chain that SPDM GET_CERTIFICATE reads (R203). -/
opaque chain : Nat → BitVec 8

/-- The choice of the thatch engine (R139), which the manual leaves to the engine: from the tiles of the bundle
already coded and the next tile, the record it writes. The writer of Machine/ThatchForm.lean takes only a record that
R134 and R135 allow. -/
opaque thatchPlan : List (List (BitVec 8)) → List (BitVec 8) → Thatch.Plan

/-- The bytes of an array place that was masked in self-refresh and so lost (R241): the n-th loss and the byte address. -/
opaque lostByte : Nat → Nat → BitVec 8

/-- The entry of the request store that the n-th request takes, of those that are free (R291, R292): the first free one
from this number on. -/
opaque storeEntry : Nat → BitVec 14

/-- What a field for D or B holds while every limit of R309 is unbounded. -/
opaque unbounded : BitVec 32

/-- What the limit byte of Get Regulation Status holds while no limit sets D (R309, C240h). -/
opaque noLimit : BitVec 8

/-- What the bursts-per-request field of Get Regulation Status holds while the last interval issued no request (C240h). -/
opaque noBursts : BitVec 16

/-- The head and tail fields of the record of an empty queue (R292), by queue. -/
opaque idleEntry : Nat → BitVec 14

/-- The cause byte of event 0A05h for a packet of a reserved kind, for which R349 lists none. -/
opaque reservedKind : BitVec 8

/-- Bytes 0 to 7 of a pair sync request (R342), of which the manual gives only the flags a meaning. -/
opaque syncRequest : Nat → BitVec 64

/-- The peer sled ID and peer port that Get Rafter Port Status gives for a port that has had no peer. -/
opaque noPeer : Nat → BitVec 10 × BitVec 8

/-- The deputy that Get Cascade Status gives where there is none, and the ridge that it gives on a standalone sled. -/
opaque noDeputy : BitVec 16
opaque noRidge : BitVec 16

/-- The poison handling and QoS telemetry capability bytes of Identify Memory Device, whose bits the manual does not give. -/
opaque identifyCaps : BitVec 16

/-- The effects word of an opcode in the command effects log, which the manual does not give. -/
opaque commandEffect : Nat → BitVec 16

/-- The identifier of the vendor-specific event record format, which the manual does not give (R49). -/
opaque vendorRecord : BitVec 128

/-- The opcode and return code that Get Background Result gives when it holds none (C001h). -/
opaque noResult : BitVec 32

/-- The slot that event 0C03h names as the one rolled back to when automatic roll-back is clear (R385, R392). -/
opaque noRollBackTo : BitVec 8

/-- The failing vector that event 080Fh names for a channel's codec, by channel (R278). -/
opaque failingVector : Nat → BitVec 16

/-- The cause byte of event 0E01h for a change of state that is no exit from Drowse or Watch, by old state × 4 + new state. -/
opaque stateCause : Nat → BitVec 8

/-- The region byte of Get On-chip Memory Status while no region is held on the shadow bank (C400h). -/
opaque noRegion : BitVec 8

/-- The bank conflict wait cycles of all masters, which only cycle timing gives (R458, C400h), by the time of the reading. -/
opaque conflictWaits : Nat → BitVec 64

end Sys2Proof.Config
end

