-- ==== Sys2Proof/Machine/Sparse.lean ====
section
/-! DEFINITION. Reading and writing a sparse table in canonical form: keys strictly rise, and no entry equals the
default of the table. Writing the default removes the entry, so equal tables are equal data. -/

namespace Sys2Proof

/-- The value at key `k`: the entry, or the default `d` where none is listed. -/
def Sparse.get {α : Type} (d : α) : Sparse α → Nat → α
  | [], _ => d
  | (k', v) :: rest, k => if k' = k then v else if k < k' then d else Sparse.get d rest k

/-- Take key `k` out of the table. -/
def Sparse.erase {α : Type} : Sparse α → Nat → Sparse α
  | [], _ => []
  | (k', v) :: rest, k =>
    if k' = k then rest else if k < k' then (k', v) :: rest else (k', v) :: Sparse.erase rest k

/-- Put `v` at key `k`, whatever `v` is. -/
def Sparse.insert {α : Type} : Sparse α → Nat → α → Sparse α
  | [], k, v => [(k, v)]
  | (k', v') :: rest, k, v =>
    if k' = k then (k, v) :: rest
    else if k < k' then (k, v) :: (k', v') :: rest
    else (k', v') :: Sparse.insert rest k v

/-- Write `v` at key `k`: the entry is listed unless `v` is the default `d`. -/
def Sparse.set {α : Type} [DecidableEq α] (d : α) (m : Sparse α) (k : Nat) (v : α) : Sparse α :=
  if v = d then Sparse.erase m k else Sparse.insert m k v

/-- Change the value at key `k` by `f`. -/
def Sparse.modify {α : Type} [DecidableEq α] (d : α) (m : Sparse α) (k : Nat) (f : α → α) : Sparse α :=
  Sparse.set d m k (f (Sparse.get d m k))

/-- Every key of the tail is above `k`. -/
def Sparse.above {α : Type} (k : Nat) : Sparse α → Bool
  | [] => true
  | (k', _) :: _ => decide (k < k')

/-- The canonical form: keys strictly rise and no value is the default `d`. -/
def Sparse.wf {α : Type} [DecidableEq α] (d : α) : Sparse α → Bool
  | [] => true
  | (k, v) :: rest => decide (v ≠ d) && Sparse.above k rest && Sparse.wf d rest

/-- The value listed at key `k`, if any (for tables whose entries are objects that may be absent). -/
def Sparse.find {α : Type} : Sparse α → Nat → Option α
  | [], _ => none
  | (k', v) :: rest, k => if k' = k then some v else Sparse.find rest k

/-- The keys of the table, rising. -/
def Sparse.keys {α : Type} (m : Sparse α) : List Nat := m.map (·.1)

/-- Keep the entries that `f` accepts. -/
def Sparse.keep {α : Type} (f : Nat → α → Bool) (m : Sparse α) : Sparse α := m.filter (fun kv => f kv.1 kv.2)

/-- Change every listed value by `f`; values that become the default `d` are no longer listed. -/
def Sparse.update {α : Type} [DecidableEq α] (d : α) (m : Sparse α) (f : Nat → α → α) : Sparse α :=
  (m.map fun kv => (kv.1, f kv.1 kv.2)).filter fun kv => decide (kv.2 ≠ d)

end Sys2Proof
end

