-- ==== Sys2Proof/Machine/State.lean ====
section
/-! DEFINITION. The state of the block, chapter by chapter, as plain data; the reasons a step can stop; and the state
after reset (spec/13_bring_up.md R393, spec/14_eaves_and_power_states.md R415). Sparse tables list only what differs
from the default of the table, which each table's reading operation names. Values that the spec gives no reset for are
named in notes/assumptions. -/

namespace Sys2Proof.Machine

/-! ## The host's side: chapter 01 -/

/-- One record of a CXL event log (R49): its handle, when it was raised, its vendor event code or 0000h for a
standard record, and the bytes of its data field. -/
structure EventRecord where
  handle : Nat := 0
  time : Nat := 0
  data : List Byte := []
  deriving DecidableEq, Repr, Inhabited

/-- One of the five event logs of a logical device: 256 records (R20), and what CXL keeps of an overflow. -/
structure EventLogState where
  records : List EventRecord := []
  nextHandle : Nat := 1
  overflow : Nat := 0
  firstOverflow : Nat := 0
  lastOverflow : Nat := 0
  deriving DecidableEq, Repr, Inhabited

/-- An entry of a poison list: device physical address, length in units of 64 B, and whether Inject Poison made it
(R46, R48). -/
structure PoisonEntry where
  dpa : Nat := 0
  len : Nat := 1
  injected : Bool := false
  deriving DecidableEq, Repr, Inhabited

/-- Whether a logical device takes requests, and the counts of a disable in progress (R43, R44). -/
structure DrainState where
  discarded : Nat := 0
  finished : Nat := 0
  jobs : Nat := 0
  deriving DecidableEq, Repr, Inhabited

/-- What the sled keeps for one logical device (R27, R46, R49, R52, R53). -/
structure LdState where
  groupChg : Bool := false
  pressureChg : Bool := false
  groupChgIe : Bool := false
  pressureChgIe : Bool := false
  info : EventLogState := {}
  warn : EventLogState := {}
  fail : EventLogState := {}
  fatal : EventLogState := {}
  dcd : EventLogState := {}
  policy : BitVec 40 := 0
  poison : List PoisonEntry := []
  poisonOverflow : Option Nat := none
  drain : Option DrainState := none
  deriving DecidableEq, Repr, Inhabited

/-- A rate-limited event in its period (R519): the occurrences that fell in it, the log, data and logical devices of the
latest, the places (offset, length) of its counts or amounts in the data, and their sums. -/
structure RatePeriod where
  code : Nat := 0
  subject : Nat := 0
  occurrences : Nat := 0
  requestor : Nat := 0
  log : EventLog := .warning
  data : List Byte := []
  fields : List (Nat × Nat) := []
  sums : List Nat := []
  lds : List LdId := []
  deriving DecidableEq, Repr, Inhabited

/-- The state of a host port (R22, R23, R26): in reset, up, its rate, its mode. -/
structure PortState where
  inReset : Bool := true
  up : Bool := false
  rate : LinkRate := .g64
  l1 : Bool := false
  l2 : Bool := false
  mld : Bool := false
  failed : Bool := false
  deriving DecidableEq, Repr, Inhabited

/-- A release wait in progress (R37, R38): the extents named and still outstanding, and its length. -/
structure ReleaseWait where
  ms : Nat := 2000
  named : List (LdId × Nat) := []
  deriving DecidableEq, Repr, Inhabited

/-- Capacity (R30 to R38, R526): the overcommit ratio in hundredths, the release wait, the growth device, the device
that holds static capacity, the groups joined and withheld, the total offered, and the blocks offered and not yet
accepted (by local block: the logical device and the DPA block of the offer), those of them whose offer has not gone out, the
group joins (group, blocks added) whose event waits for them, and the region of each extent block (by
logical device × 16,384 + DPA block; 0 where not listed). -/
structure Capacity where
  ratio : Nat := 100
  releaseWaitMs : Nat := 2000
  wait : Option ReleaseWait := none
  growth : LdId := 0
  staticLd : LdId := 0
  memActive : Bool := false
  joined : BitVec 16 := 0
  withheld : BitVec 16 := 0
  total : Nat := 0
  offered : Sparse (LdId × Nat) := []
  unannounced : List Nat := []
  joinEvents : List (Nat × Nat) := []
  regions : Sparse Nat := []
  deriving DecidableEq, Repr, Inhabited

/-- The state of chapter 01 beside the capacity: the ports, the logical devices by number, the default contexts by
requestor (R29), the strap and mode settings, the rate-limited events in their periods. -/
structure HostSide where
  hp0 : PortState := {}
  hp1 : PortState := {}
  x16 : Bool := false
  gfam : Bool := false
  lds : Sparse LdState := []
  defaultContext : Sparse (BitVec 13) := []
  periods : List RatePeriod := []
  protocolErrors : Nat := 0
  timestamp : Nat := 0
  timestampSet : Bool := false
  timestampAt : Nat := 0
  deriving DecidableEq, Repr, Inhabited
/-! ## Battens, slots and tiers: chapter 02 -/

/-- The state of a block in its directory entry (R59 [63:62]). -/
inductive BlockState where
  | unassigned | filling | ready | bound
  deriving DecidableEq, Repr, Inhabited

/-- A block directory entry (R59). -/
structure DirEntry where
  st : BlockState := .unassigned
  epoch : BitVec 2 := 0
  walks : BitVec 2 := 0
  strong : Bool := false
  rebuild : Bool := false
  owner : BitVec 5 := 0
  extent : BitVec 14 := 0
  base : BitVec 35 := 0
  deriving DecidableEq, Repr, Inhabited

/-- The tier of a course (R61 [127:126]). -/
inductive Tier where
  | absent | raw | tiled | thatched
  deriving DecidableEq, Repr, Inhabited

/-- A batten (R61). -/
structure Batten where
  tier : Tier := .absent
  strong : Bool := false
  ctx : BitVec 13 := 0
  gen : Bool := false
  early : Bool := false
  phioz : Bool := false
  heat : BitVec 7 := 0
  cls : BitVec 6 := 0
  sizes : List (BitVec 3) := [0, 0, 0, 0, 0, 0, 0, 0, 0, 0, 0, 0, 0, 0, 0, 0]
  base : BitVec 35 := 0
  epoch : BitVec 2 := 0
  poison : Bool := false
  move : Bool := false
  len : BitVec 8 := 0
  deriving DecidableEq, Repr, Inhabited

/-- A batten held in the batten cache (R74): its way in its set, whether it is newer than the table, and whether its
way is locked (R76). -/
structure CachedBatten where
  way : Nat := 0
  dirty : Bool := false
  locked : Bool := false
  batten : Batten := {}
  deriving DecidableEq, Repr, Inhabited

/-- The state of a lath (R81). -/
inductive LathState where
  | empty | opened | closed
  deriving DecidableEq, Repr, Inhabited

/-- A lath of the lath table (R84): its state, its count of live data slots, and its next free data index. -/
structure Lath where
  st : LathState := .empty
  live : Nat := 0
  fill : Nat := 0
  deriving DecidableEq, Repr, Inhabited

/-- A run of slots: its slot base, its data slots, and its code (R67, R68). -/
structure Run where
  base : Nat := 0
  len : Nat := 0
  strong : Bool := false
  deriving DecidableEq, Repr, Inhabited

/-- A freed run that waits for its drain markers (R86): the marker number, and the channels whose marker has not
executed. -/
structure PendingFree where
  marker : Nat := 0
  run : Run := {}
  channels : List Nat := []
  deriving DecidableEq, Repr, Inhabited

/-- A move of R85 in flight: the course of record, why it runs (compaction or retirement), the old run, the new run. -/
structure Move where
  course : Nat := 0
  retirement : Bool := false
  old : Run := {}
  new : Run := {}
  deriving DecidableEq, Repr, Inhabited

/-- Why a table rebuild runs (the reasons of event 0203h, R95). -/
inductive RebuildReason where
  | command | retirement | lightToStrong | compaction
  deriving DecidableEq, Repr, Inhabited

/-- A table rebuild (R91): the block, why, the path of the command that started it, the watermark, the new table
base and code, the walks pending at its start, and its counts. -/
structure Rebuild where
  block : Nat := 0
  reason : RebuildReason := .command
  path : Option Path := none
  begun : Bool := false
  w : Nat := 0
  base : Nat := 0
  strong : Bool := false
  recorded : Nat := 0
  copied : Nat := 0
  freed : Nat := 0
  deriving DecidableEq, Repr, Inhabited

/-- A clearing walk (R89): the block, its watermark, the walks pending when it began, the runs it has freed. -/
structure Clearing where
  block : Nat := 0
  w : Nat := 0
  recorded : Nat := 0
  freed : Nat := 0
  deriving DecidableEq, Repr, Inhabited

/-- A table swap (R90): the block, whether it is still bound, its new table run if placed, the fill's watermark (none
when the fill has ended), the old table's battens (cached battens put in place of the table's copies), the old table
run, the drain's watermark (none when the drain has ended), the runs freed. -/
structure Swap where
  block : Nat := 0
  bound : Bool := false
  placed : Bool := false
  fill : Option Nat := some 0
  old : Sparse Batten := []
  oldBase : Nat := 0
  oldStrong : Bool := false
  drain : Option Nat := some 0
  freed : Nat := 0
  deriving DecidableEq, Repr, Inhabited

/-- A Discard Course Range in progress (R93): its path, the first course of the rest, the courses left to walk, and
its counts. -/
structure Discard where
  path : Option Path := none
  ld : LdId := 0
  dpa : Nat := 0
  courses : Nat := 0
  total : Nat := 0
  whole : Nat := 0
  discarded : Nat := 0
  already : Nat := 0
  freed : Nat := 0
  deriving DecidableEq, Repr, Inhabited

/-- The translation unit: block directory (R59), table contents (R72), the error patterns put on table slots, batten
cache (R74), home sled ID (R57), abandoned moves by course (R85), moves in flight, walks. -/
structure Translation where
  dir : Sparse DirEntry := []
  table : Sparse Batten := []
  tableErrors : Sparse (List Byte) := []
  cache : Sparse CachedBatten := []
  homeId : BitVec 10 := 0
  abandons : Sparse Nat := []
  moves : List Move := []
  rebuild : Option Rebuild := none
  rebuildsWaiting : List Rebuild := []
  clearing : Option Clearing := none
  swaps : List Swap := []
  discards : List Discard := []
  fills : List Nat := []
  hits : Nat := 0
  misses : Nat := 0
  runsMoved : Nat := 0
  movesAbandoned : Nat := 0
  repacks : Nat := 0
  deriving DecidableEq, Repr, Inhabited

/-- The slot allocator (R81 to R87): the lath table, the open lath of a channel, the open stripe lath set of an
anchor, the channel and anchor chosen last, the freed runs, the compaction policy. -/
structure Allocator where
  laths : Sparse Lath := []
  openLath : Sparse Nat := []
  openSet : Sparse Nat := []
  lastChannel : Nat := 127
  lastAnchor : Nat := 127
  frees : List PendingFree := []
  nextMarker : Nat := 0
  lowMark : Nat := 64
  victim : Nat := 50
  share : Nat := 10
  starved : BitVec 128 := 0
  deriving DecidableEq, Repr, Inhabited
/-! ## Tile coding: chapter 03 -/

/-- A host request in the sled, or a request that arrived over the rafter link: kind, origin, context, class,
address, data (R292). -/
inductive ReqKind where
  | read | write | partialWrite
  deriving DecidableEq, Repr, Inhabited

/-- Where a request came from, and so where its answer goes; the sled's own writes (Clear Poison, copies of a mirrored
range) have no answer. -/
inductive Origin where
  | host (port : HostPort) (tag : BitVec 16)
  | rafter (peer : SledId) (seq : BitVec 32) (tag : BitVec 16)
  | sled
  deriving DecidableEq, Repr, Inhabited

/-- A request past the classifier: its number, its store entry, kind, origin, logical device, requestor, context, effective class,
its DPA, the line within its course and the local course that serves it; `remote` and `global` for a course of another
sled; `poisoned`: a write whose packet failed its tag (R223); `flags` is byte 23 and `chan` byte 24 of its trace record (R477). -/
structure Request where
  id : Nat := 0
  kind : ReqKind := .read
  origin : Origin := .host .hp0 0
  ld : LdId := 0
  rid : BitVec 16 := 0
  ctx : BitVec 13 := 0
  cls : BitVec 6 := 0
  base : BitVec 6 := 0
  dpa : Nat := 0
  line : Nat := 0
  course : Nat := 0
  data : List Byte := []
  enables : BitVec 64 := 0
  outOfProfile : Bool := false
  entry : Nat := 0
  arrived : Nat := 0
  urgency : Nat := 0
  remote : Bool := false
  global : Nat := 0
  cascade : Bool := false
  poisoned : Bool := false
  flags : BitVec 8 := 0
  chan : Nat := 255
  deriving DecidableEq, Repr, Inhabited

/-- A gather buffer (R113, R114): its tile, its byte mask and data, the order in which it was opened and its window,
the requests whose bytes it holds (requestor, line, bytes enabled), the reads that wait for its close, and whether
it waits for a run (R522). -/
structure Gather where
  course : Nat := 0
  tile : Nat := 0
  ld : LdId := 0
  mask : BitVec 256 := 0
  data : List Byte := []
  order : Nat := 0
  window : Nat := 64
  writers : List (BitVec 16 × Nat × Nat) := []
  reads : List Request := []
  stuck : Bool := false
  deriving DecidableEq, Repr, Inhabited

/-- A Phioz range entry (R126). -/
structure PhiozRange where
  dpa : Nat := 0
  courses : Nat := 0
  deriving DecidableEq, Repr, Inhabited

/-- The tile engine: gather buffers, the window in force, Phioz ranges by logical device × 8 + entry, and the counts
of Get Tile Coding Status (C0C0h). -/
structure TileEngine where
  gathers : Sparse Gather := []
  nextOrder : Nat := 0
  window : Nat := 64
  ranges : Sparse PhiozRange := []
  encoded : Nat := 0
  decoded : Nat := 0
  over192 : Nat := 0
  whole : Nat := 0
  partials : Nat := 0
  merged : Nat := 0
  mismatches : Nat := 0
  faults : Nat := 0
  poisonedPartials : Nat := 0
  overflowRuns : Nat := 0
  converted : Nat := 0
  perPredictor : List Nat := [0, 0, 0, 0, 0, 0, 0]
  deriving DecidableEq, Repr, Inhabited
/-! ## Thatching and placement: chapter 04 -/

/-- State of a job entry (R144 byte 2). -/
inductive JobState where
  | free | running | paused | stopped | finished
  deriving DecidableEq, Repr, Inhabited

/-- A thatching job entry: the context of R144, its history (the plaintext of the tiles taken) and whether its watch
entry's dirty bit is set (R142). A job of address kind 1 has no owner; a job over DPA keeps its logical device
and DPA order (R161). -/
structure Job where
  st : JobState := .free
  reason : Nat := 0
  next : Nat := 0
  last : Nat := 0
  taken : Nat := 0
  historyValid : Bool := false
  owner : Option LdId := none
  dpaStart : Option Nat := none
  bundlesLeft : Nat := 0
  heat : Nat := 0
  input : Nat := 0
  output : Nat := 0
  budget : Nat := 0
  committed : Nat := 0
  failed : Nat := 0
  skipped : Nat := 0
  cap : Nat := 75
  requestor : Nat := 65535
  history : List (List Byte) := []
  dirty : Bool := false
  controller : Bool := false
  deriving DecidableEq, Repr, Inhabited

/-- What a thatch engine holds (R140, R141, R147). A job's bundle taken, with its plaintext and whether a request or
the sled's own work has touched it; or a promotion, with the course that was touched first and the requests that wait
for its commit. -/
inductive EngineWork where
  | idle
  | job (entry bundle : Nat) (tiles : List (List Byte)) (touched : Bool)
  | promotion (bundle course : Nat) (heat : Bool) (waiting : List Request)
  deriving DecidableEq, Repr, Inhabited

/-- Class placement settings (R155). -/
structure ClassPlacement where
  raw : Bool := false
  pin : Nat := 0
  strong : Bool := false
  deriving DecidableEq, Repr, Inhabited

/-- The placement policy (C101h). -/
structure PlacementSettings where
  occupancy : Nat := 85
  coldMax : Nat := 8
  rawMin : Nat := 64
  tile : Nat := 24
  ftTarget : Nat := 20000
  scanRate : Nat := 16000
  share : Nat := 10
  cap : Nat := 75
  ceiling : Nat := 15
  deriving DecidableEq, Repr, Inhabited

/-- A re-code the scan has queued (R153): the action of the first row that applies. -/
inductive RecodeKind where
  | toRaw | toTiled | toCode
  deriving DecidableEq, Repr, Inhabited

/-- The placement controller and the thatch engines. `promotions` are first touches that wait for an engine. -/
structure Placement where
  jobs : Sparse Job := []
  engines : List EngineWork := [.idle, .idle, .idle, .idle]
  pausedJobs : List Nat := []
  promotionsWaiting : List EngineWork := []
  nextJob : Nat := 0
  classes : Sparse ClassPlacement := []
  policy : PlacementSettings := {}
  cold : Nat := 2
  rawMark : Nat := 96
  stage : Nat := 0
  stageByExpiry : Bool := false
  scan : Nat := 0
  lapMs : Nat := 0
  lapStart : Nat := 0
  recodes : Sparse RecodeKind := []
  touches : Nat := 0
  lastTouches : Nat := 0
  overTarget : Nat := 0
  thatched : Nat := 0
  firstTouches : Nat := 0
  overCap : Nat := 0
  lost : Nat := 0
  divisor : Nat := 0
  lastFree : Nat := 0
  adjustDue : Bool := false
  deriving DecidableEq, Repr, Inhabited
/-! ## The tile cache: chapter 05 -/

/-- A way of a set (R165): the fields of its tag entry, an error in it that parity will find, and its plaintext. -/
structure Way where
  valid : Bool := false
  evicting : Bool := false
  sectors : BitVec 4 := 0
  epoch : BitVec 2 := 0
  tag : BitVec 22 := 0
  badParity : Bool := false
  data : List Byte := []
  deriving DecidableEq, Repr, Inhabited

/-- A fill tracker (R170, R171): its tile, the sectors it has read or is reading, its way (none: no way claimed), the
epoch of its lookup, the stale flag, and whether its way was taken from it, so that it chooses again at install
(R177, R186). -/
structure Tracker where
  tile : Nat := 0
  mask : BitVec 4 := 0
  way : Option Nat := none
  epoch : BitVec 2 := 0
  stale : Bool := false
  again : Bool := false
  deriving DecidableEq, Repr, Inhabited

/-- The tile cache: ways by (set × 16 + way), replacement field by set, fence mask by set, trackers by number,
times of dropped entries by way (R187), the copy of the fence list in the log store, the policy (C142h), and the
counts of C140h. -/
structure TileCache where
  ways : Sparse Way := []
  trees : Sparse (BitVec 15) := []
  fences : Sparse (BitVec 16) := []
  trackers : Sparse Tracker := []
  drops : Sparse Nat := []
  fenceCopy : Sparse (BitVec 16) := []
  enable : Bool := true
  noFill : BitVec 64 := 0
  hits : Nat := 0
  rescues : Nat := 0
  sectorMisses : Nat := 0
  tagMisses : Nat := 0
  joins : Nat := 0
  installed : Nat := 0
  staleFills : Nat := 0
  noWay : Nat := 0
  updates : Nat := 0
  invalidated : Nat := 0
  dropped : Nat := 0
  deriving DecidableEq, Repr, Inhabited
/-! ## The flashing engine: chapter 06 -/

/-- The state of a key generation (R200). -/
inductive GenState where
  | empty | loaded | retiring | destroyed
  deriving DecidableEq, Repr, Inhabited

/-- One generation of a context: its state, its key (K1 then K2, no bytes where none is held), its write counter,
whether event 0606h has been raised for it, and the owner key tag it was loaded with. -/
structure Generation where
  st : GenState := .empty
  key : List Byte := []
  counter : Nat := 0
  limitRaised : Bool := false
  tag : BitVec 32 := 0
  deriving DecidableEq, Repr, Inhabited

/-- A context (R200, R202): the fields of its table entry, its generations, its limit, and its owned-course count. -/
structure Context where
  cur : Bool := false
  g0 : Generation := {}
  g1 : Generation := {}
  rekey : Bool := false
  cls : BitVec 6 := 0
  phiozConv : Bool := false
  owned : Bool := false
  owner : BitVec 5 := 0
  limit : Nat := 2 ^ 40
  courses : Nat := 0
  deferred : Bool := false
  deriving DecidableEq, Repr, Inhabited

/-- Where a wrapping key belongs: a path (R203), a relayed path (R379), or a member's join (R222, R355). -/
inductive KeyPath where
  | ld (ld : LdId)
  | fabric
  | sideband
  | session (ld : LdId) (session : BitVec 16)
  | relay (origin : SledId) (path : BitVec 8)
  | member (peer : SledId)
  deriving DecidableEq, Repr, Inhabited

/-- A rekey pass (R216): its context, watermark and counts. -/
structure RekeyPass where
  ctx : Nat := 0
  w : Nat := 0
  done : Nat := 0
  skipped : Nat := 0
  waiting : Bool := false
  deriving DecidableEq, Repr, Inhabited

/-- A destroy-and-discard walk (R218): its context, path, watermark and counts. -/
structure DestroyWalk where
  ctx : Nat := 0
  path : Option Path := none
  w : Nat := 0
  owned : Nat := 0
  discarded : Nat := 0
  deriving DecidableEq, Repr, Inhabited

/-- IDE of a host port (R219): the keys programmed over DOE for CXL.mem and for CXL.io, by the message that set them,
and whether each stream runs. -/
structure IdePort where
  cxlKeys : List (List Byte) := []
  pcieKeys : List (List Byte) := []
  cxlRunning : Bool := false
  pcieRunning : Bool := false
  failures : Nat := 0
  deriving DecidableEq, Repr, Inhabited

/-- A link key rotation in progress (R222): the new ID, the members that have confirmed it and those that report
having stopped using the old key. -/
structure Rotation where
  newId : BitVec 2 := 0
  path : Option Path := none
  confirmed : List (BitVec 10) := []
  stopped : List (BitVec 10) := []
  deriving DecidableEq, Repr, Inhabited

/-- The flashing engine. `draws` counts the values taken from the random generator. -/
structure Flashing where
  sledKey : List Byte := []
  contexts : Sparse Context := []
  wrapping : List (KeyPath × List Byte) := []
  draws : Nat := 0
  queue : List Nat := []
  pass : Option RekeyPass := none
  destroys : List DestroyWalk := []
  linkKeys : Sparse (List Byte) := []
  linkId : BitVec 2 := 0
  rotation : Option Rotation := none
  ide0 : IdePort := {}
  ide1 : IdePort := {}
  encrypted : Nat := 0
  decrypted : Nat := 0
  wrongReads : Nat := 0
  wrongWrites : Nat := 0
  noKeyWrites : Nat := 0
  early : Nat := 0
  tagFailures : Nat := 0
  deriving DecidableEq, Repr, Inhabited
/-! ## LPDDR4X channels: chapter 07 -/

/-- What the codes on stored data make of a slot: its 64 bytes, or a failure (uncorrectable). -/
inductive SlotResult where
  | pending
  | good (bytes : List Byte)
  | bad
  deriving DecidableEq, Repr, Inhabited

/-- A slot that a fetch waits for: its address, its ordinal, and what has come back. -/
structure FetchSlot where
  slot : Nat := 0
  ordinal : Nat := 0
  result : SlotResult := .pending
  deriving DecidableEq, Repr, Inhabited

/-- The stored form that a fetch reads (R97, R170). -/
inductive FetchForm where
  | line (l : Nat) | coded | phiozHome | phiozOverflow
  deriving DecidableEq, Repr, Inhabited

/-- A read of a tile's slots under way for host reads (R170, R171): its tile, the batten and the key it was looked up with, its
form, its slots, its tracker (none: all trackers in use, or a class that does not fill), and the reads it answers. -/
structure Fetch where
  course : Nat := 0
  tile : Nat := 0
  batten : Batten := {}
  key : List Byte := []
  form : FetchForm := .coded
  slots : List FetchSlot := []
  tracker : Option Nat := none
  reads : List Request := []
  deriving DecidableEq, Repr, Inhabited

/-- What happens in the step that posts a write (R77, R179, R266): the write completes to its requester, a cached line
takes the bytes, a stripe lock counts down. -/
inductive PostAction where
  | complete (r : Request)
  | cacheLine (tile line : Nat) (mask : BitVec 64) (data : List Byte)
  | stripe (lock : Nat)
  deriving DecidableEq, Repr, Inhabited

/-- Why a slot is read, by the source codes of R279 byte 12. -/
abbrev ReadSource := Nat

/-- An entry of a channel's command queue (R233): a poll, a calibration and a check carry what the dies will answer. A re-read of R271 carries the byte position corrected and what the
write-back stored. -/
inductive QueueEntry where
  | read (slot : Nat) (fetch index : Nat)
  | write (slot : Nat) (data : List Byte) (actions : List PostAction)
  | marker (n : Nat)
  | refresh
  | modeRead (codes : BitVec 12)
  | zq (rank : Nat) (passed : Bool) (ns : Nat)
  | dqsCheck (drift : BitVec 16)
  | reread (slot : Nat) (first : Nat) (data : List Byte) (source : ReadSource)
  deriving DecidableEq, Repr, Inhabited

/-- An entry of the posted-write buffer (R234): slot, ciphertext, check bytes. -/
structure Posted where
  slot : Nat := 0
  data : List Byte := []
  check : List Byte := []
  deriving DecidableEq, Repr, Inhabited

/-- A slot read issued to DRAM whose data has not come back (R234): the codeword the array gave. -/
structure InFlight where
  slot : Nat := 0
  data : List Byte := []
  check : List Byte := []
  fetch : Nat := 0
  index : Nat := 0
  deriving DecidableEq, Repr, Inhabited

/-- A slot that a fetch needs from its stripe (R267): channel, slot, fetch and index, cause of event 0804h. -/
structure PendingRebuild where
  slot : Nat := 0
  fetch : Nat := 0
  index : Nat := 0
  cause : Nat := 1
  deriving DecidableEq, Repr, Inhabited

/-- A repair hold entry (R272): slot, corrected bytes and check bytes. -/
structure Hold where
  slot : Nat := 0
  data : List Byte := []
  check : List Byte := []
  deriving DecidableEq, Repr, Inhabited

/-- A channel (R233 to R254). `asleep`: in self-refresh; `waking`: a wake is under way; `deferred`: maintenance that
fell due while it slept (R249); `wantsTurn`: a commanded retraining waits for its turn; `zqWanted`: commanded
calibrations to come; `since`: the clock of the last start or end of a retraining; `fast`: the 0.25x refresh of R240 until the first poll. -/
structure Channel where
  trained : Bool := false
  fenced : Bool := false
  outOfService : Bool := false
  asleep : Bool := false
  waking : Bool := false
  retraining : Bool := false
  retried : Bool := false
  queue : List QueueEntry := []
  buffer : List Posted := []
  inFlight : List InFlight := []
  rebuilds : List PendingRebuild := []
  holds : List Hold := []
  codes : BitVec 12 := 0
  drift : BitVec 16 := 0
  longestStall : Nat := 0
  masks : BitVec 16 := 0
  maskInForce : Bool := false
  fast : Bool := false
  refreshAt : Nat := 0
  nextZq : Nat := 0
  zqFails : Nat := 0
  zqWanted : Nat := 0
  zqStall : Nat := 0
  since : Nat := 0
  deferred : List QueueEntry := []
  wantsTurn : Bool := false
  reads : Nat := 0
  drained : Nat := 0
  hazards : Nat := 0
  srEntries : Nat := 0
  zqs : Nat := 0
  retrainings : Nat := 0
  deriving DecidableEq, Repr, Inhabited

/-- The state of a group (C1C1h byte 2). -/
inductive GroupState where
  | untrained | live | poweredDown | withheld
  deriving DecidableEq, Repr, Inhabited

/-- A channel group (R243, R252, R253). -/
structure Group where
  st : GroupState := .untrained
  waking : Bool := false
  speed : Nat := 0
  sensor : BitVec 16 := 0
  sensorValid : Bool := false
  wakes : Nat := 0
  abandoned : Nat := 0
  since : Nat := 0
  downCycles : Nat := 0
  lastWake : Nat := 0
  longestWake : Nat := 0
  enable : Bool := true
  groupUs : Nat := 10
  chan100ns : Nat := 20
  deriving DecidableEq, Repr, Inhabited

/-- The channel dies: DRAM contents (canonical list of cells; the byte address is slot address × 64 + offset), the
channels, the groups, the fetches under way, speeds, bank masks, training policy, the turns of R247, the Retrain Channel
commands under way (channel, kind, path), the count of bytes lost to masks. -/
structure Dram where
  cells : List Host.Cell := []
  channels : Sparse Channel := []
  groups : Sparse Group := []
  fetches : Sparse Fetch := []
  nextFetch : Nat := 0
  speed : Nat := 0
  speedPending : Nat := 0
  masks : List Nat := [0x10004220, 0x20010440, 0x40040880]
  masksPending : List Nat := [0x10004220, 0x20010440, 0x40040880]
  zqMs : Nat := 256
  checkMs : Nat := 4
  driftPs : Nat := 12
  pollMs : Nat := 4
  turns : List Nat := []
  commands : List (Nat × Nat × Path) := []
  losses : Nat := 0
  deriving DecidableEq, Repr, Inhabited
/-! ## Codes, scrubbing and sparing: chapter 08 -/

/-- A stripe lock (R266): the stripe (its anchor slot), the writes not yet posted, and what follows the last. -/
structure StripeLock where
  anchor : Nat := 0
  left : Nat := 0
  onDone : List PostAction := []
  deriving DecidableEq, Repr, Inhabited

/-- A fault record (R279). -/
structure FaultRecord where
  slot : Nat := 0
  cls : Nat := 0
  first : Nat := 255
  count : Nat := 0
  oneDie : Bool := false
  seconds : Nat := 0
  source : Nat := 0
  repeats : Nat := 0
  deriving DecidableEq, Repr, Inhabited

/-- A retirement decision (R280, R284): row, rank or channel, with its cause code. -/
inductive Retirement where
  | row (ch rank bank row : Nat)
  | rank (ch rank cause : Nat)
  | channel (ch cause : Nat)
  deriving DecidableEq, Repr, Inhabited

/-- A range scrub of a logical device (R277). -/
structure RangeScrub where
  path : Option Path := none
  dpa : Nat := 0
  courses : Nat := 0
  total : Nat := 0
  deep : Bool := false
  share : Nat := 10
  slots : Nat := 0
  corrected : Nat := 0
  bad : Nat := 0
  rows : Nat := 0
  failures : Nat := 0
  absent : Nat := 0
  deriving DecidableEq, Repr, Inhabited

/-- Codes, scrubbing and sparing. `duringPause` holds decisions made in an activation pause (R384), with whether the
storage still corrects. Rows are keyed by (channel, rank, bank, row) as one number; ranks by
channel × 2 + rank. -/
structure Sparing where
  strongOk : Bool := false
  locks : List StripeLock := []
  ring : List FaultRecord := []
  ringBase : Nat := 0
  rowFaults : Sparse Nat := []
  dieFaults : List (Nat × Nat × Nat) := []
  fencedRows : Sparse Bool := []
  fencedSince : Sparse Nat := []
  rowsAwaiting : Sparse Bool := []
  repairs : Sparse Nat := []
  ranks : Sparse Bool := []
  channels : Sparse Bool := []
  clears : List Retirement := []
  pending : List Retirement := []
  deferred : List Retirement := []
  duringPause : List (Retirement × Bool) := []
  moving : List (Retirement × Option Path × Nat × Nat) := []
  urgent : List Nat := []
  reserveMark : Nat := 4
  rowThreshold : Nat := 1
  dieBanks : Nat := 4
  rankRows : Nat := 256
  share : Nat := 25
  hold : Bool := false
  patrol : Bool := true
  targetMin : Nat := 1440
  position : Nat := 0
  skipped : List Nat := []
  lapStart : Nat := 0
  lastLap : Nat := 0
  overdue : Bool := false
  patrolSlots : Nat := 0
  lapCorrected : Nat := 0
  lapBad : Nat := 0
  scrubs : Sparse RangeScrub := []
  corrections : Nat := 0
  transients : Nat := 0
  hardSingle : Nat := 0
  hardMulti : Nat := 0
  uncorrectable : Nat := 0
  rebuilt : Nat := 0
  mismatches : Nat := 0
  unclassified : Nat := 0
  deriving DecidableEq, Repr, Inhabited
/-! ## Queues and regulation: chapter 09 -/

/-- A token bucket (R298, R299): rate in units of 1/256 request per µs, burst in requests, tokens in units of
1/409,600 request (a rate of 1 adds one unit per hub cycle), and the clock at which the tokens were counted. -/
structure Bucket where
  on : Bool := false
  rate : Nat := 0
  burst : Nat := 1
  tokens : Int := 0
  since : Nat := 0
  deriving DecidableEq, Repr, Inhabited

/-- A queue (R292): its requests, head first, its buckets, the throttle-set shaper of R302, the
shaper settings that take effect on exit from stage 3 (C241h), and its write counts. -/
structure Queue where
  requests : List Request := []
  shaper : Bucket := {}
  policer : Bucket := {}
  throttleShaper : Option Bucket := none
  later : Option Bucket := none
  writesNow : Nat := 0
  writesBefore : Nat := 0
  deriving DecidableEq, Repr, Inhabited

/-- A row of the class table (R296, R298, R299, R313): weight, shaper, nominal and effective guarantee (units of 1/256
request per µs), policer, the urgency map (none: the default of R306). -/
structure ClassRow where
  weight : Nat := 8
  shaper : Bucket := {}
  guarantee : Nat := 0
  effective : Nat := 0
  policer : Bucket := {}
  map : Option (Nat × Nat × Nat) := none
  deriving DecidableEq, Repr, Inhabited

/-- A service round with its active list (R296) and, by class, its deficits and the requestor served last (R297). -/
structure Round where
  active : List Nat := []
  deficit : Sparse Int := []
  last : Sparse Nat := []
  deriving DecidableEq, Repr, Inhabited

/-- A doorbell page (R304): level, hold time, and the clock of the last write to URGENCY. -/
structure Doorbell where
  urgency : BitVec 2 := 0
  hold : BitVec 16 := 0
  deriving DecidableEq, Repr, Inhabited

/-- A pair of histograms (R308). -/
structure Histogram where
  depth : List Nat := [0, 0, 0, 0, 0, 0, 0, 0, 0, 0, 0, 0, 0, 0, 0, 0]
  delay : List Nat := [0, 0, 0, 0, 0, 0, 0, 0, 0, 0, 0, 0, 0, 0, 0, 0]
  deriving DecidableEq, Repr, Inhabited

/-- A monitor slot (R308, C246h): the queue it is bound to, who bound it, its histograms. -/
structure Monitor where
  queue : Nat := 0
  owner : Option LdId := none
  hist : Histogram := {}
  deriving DecidableEq, Repr, Inhabited

/-- Why an issued request waits at the translation unit. -/
inductive WaitReason where
  | placement | walk | fill | absentSoon | course | lock | remote
  deriving DecidableEq, Repr, Inhabited

/-- An issued request that waits, in issue order. -/
structure Waiting where
  request : Request := {}
  reason : WaitReason := .lock
  deriving DecidableEq, Repr, Inhabited

/-- The counts of the running 100 ms interval (R309, R311). -/
structure Interval where
  reads : Nat := 0
  writes : Nat := 0
  bursts : Nat := 0
  encodes : Nat := 0
  decodes : Nat := 0
  touches : Nat := 0
  deriving DecidableEq, Repr, Inhabited

/-- The deliverable rate (R309 to R315): D in units of 1/256 request per µs (none: every limit is unbounded), the limit that
sets it, B in requests per µs, s as a fraction in lowest terms, the over-budget flag, the value and limit of the last
interval, and its counts (none where it issued no request). -/
structure Rates where
  d : Option Nat := none
  limit : Nat := 0
  b : Option Nat := none
  sNum : Nat := 1
  sDen : Nat := 1
  excess : Bool := false
  prev : Option Nat := none
  prevLimit : Nat := 0
  terms : Option Interval := none
  deriving DecidableEq, Repr, Inhabited

/-- The queue manager and the regulator. -/
structure Regulator where
  queues : Sparse Queue := []
  classes : Sparse ClassRow := []
  strictIn : Sparse Nat := []
  strictOut : Sparse Nat := []
  weightedIn : Round := {}
  weightedOut : Round := {}
  usedHp0 : Nat := 0
  usedHp1 : Nat := 0
  usedRafter : Nat := 0
  entries : Sparse Bool := []
  withheldSince0 : Option Nat := none
  withheldSince1 : Option Nat := none
  withheldSince2 : Option Nat := none
  rwdWithheld : Bool := false
  landed : List Request := []
  waiting : List Waiting := []
  inFlight : List (Nat × Option LdId × Bool) := []
  nextId : Nat := 0
  doorbells : Sparse Doorbell := []
  pins : Sparse (BitVec 2) := []
  pinBound : Sparse Nat := []
  ceilings : Sparse Nat := []
  histograms : Sparse Histogram := []
  monitors : Sparse Monitor := []
  sampleUs : Nat := 1000
  interval : Interval := {}
  rates : Rates := {}
  lastIssue : Option Nat := none
  issued : Nat := 0
  outOfProfile : Nat := 0
  deriving DecidableEq, Repr, Inhabited
/-! ## The rafter link: chapter 10 -/

/-- The state of a rafter port (C280h byte 2). -/
inductive PortPhase where
  | disabled | down | training | up
  deriving DecidableEq, Repr, Inhabited

/-- A packet queued for forwarding, with the clock of its landing and whether it lies in the gutter (R328). -/
structure Forwarded where
  bytes : List Byte := []
  since : Nat := 0
  spilled : Bool := false
  deriving DecidableEq, Repr, Inhabited

/-- A rafter port (R318 to R329, C280h). -/
structure RafterLink where
  phase : PortPhase := .disabled
  enabled : Bool := true
  lanes : BitVec 8 := 0
  fencedOwn : BitVec 8 := 0
  fencedPeer : BitVec 8 := 0
  parity : List Nat := [0, 0, 0, 0, 0, 0, 0, 0]
  lossTimes : List (Nat × Nat) := []
  peer : Option (SledId × Nat) := none
  lastPeer : Option (SledId × Nat) := none
  peerEpoch : Nat := 0
  foreign : Bool := false
  losses : Nat := 0
  rejoins : Nat := 0
  longestDown : Nat := 0
  forwarded : Nat := 0
  forwardedNow : Nat := 0
  forwardedLast : Nat := 0
  dropped : Nat := 0
  egress : List Forwarded := []
  own : List (List Byte) := []
  acks : List (List Byte) := []
  ownNext : Bool := false
  deriving DecidableEq, Repr, Inhabited

/-- What a sequenced packet in the replay buffer was sent for. -/
inductive SentFor where
  | read (r : Request)
  | write (r : Request)
  | response (seq : Nat)
  | control (kind : Nat)
  | mirror (range : Nat)
  deriving DecidableEq, Repr, Inhabited

/-- An entry of the replay buffer (R339): the header and payload it will be sealed from, whether it takes a request
credit, and, once it has been sent, its sequence and its packet bit for bit; whether it has been acknowledged. -/
structure Held where
  seq : Nat := 0
  head : List Byte := []
  payload : List Byte := []
  credit : Bool := false
  packet : List Byte := []
  what : SentFor := .control 0
  sent : Bool := false
  acked : Bool := false
  deriving DecidableEq, Repr, Inhabited

/-- The sending side of a pair (R335 to R343). -/
inductive PairState where
  | none | syncing | live | unreachable
  deriving DecidableEq, Repr, Inhabited

/-- The state of a sequence below E in the receiver's window (R336). -/
inductive SeqState where
  | accepted | held | closed
  deriving DecidableEq, Repr, Inhabited

/-- A peer of the transport: the pair it sends (`returning`: new packets wait for the return to the primary hop, R344), the pair
it receives (E, the window, the peer's epoch and the wraps of its counters, R332, R336), and the counts of C281h. -/
structure Peer where
  st : PairState := .none
  nextSeq : Nat := 0
  wraps : Nat := 0
  unseq : Nat := 0
  unseqWraps : Nat := 0
  lastAck : Nat := 4294967295
  taken : Nat := 0
  held : List Held := []
  viaAlternate : Bool := false
  hasRecv : Bool := false
  expect : Nat := 0
  recvEpoch : Nat := 0
  window : Sparse SeqState := []
  recvWraps : Nat := 0
  recvUnseq : Nat := 0
  recvUnseqWraps : Nat := 0
  unseqEpoch : Nat := 0
  returning : Bool := false
  ackDue : Bool := false
  drops : Nat := 0
  replays : Nat := 0
  duplicates : Nat := 0
  resent : Nat := 0
  lost : Nat := 0
  deriving DecidableEq, Repr, Inhabited

/-- The rafter link as a whole: the ports, the transport epoch, the pairs by peer, the
policy (C282h), packets sent under the current link key. -/
structure Rafter where
  ports : Sparse RafterLink := []
  epoch : BitVec 21 := 0
  epochPending : Bool := false
  peers : Sparse Peer := []
  credits : Nat := 64
  replayUs : Nat := 100
  unreachableUs : Nat := 2000
  sealedCount : Nat := 0
  deriving DecidableEq, Repr, Inhabited
/-! ## Cascade: chapter 11 -/

/-- The role of a sled in its cascade (C2C0h byte 2). -/
inductive Role where
  | standalone | member | deputy | ridge
  deriving DecidableEq, Repr, Inhabited

/-- An entry of the member table (R351). -/
structure Member where
  serial : BitVec 64 := 0
  role : Role := .member
  lost : Bool := false
  neighbours : List (RaftPort × SledId) := []
  deriving DecidableEq, Repr, Inhabited

/-- The kind of a cascade range (R356 byte 7). -/
inductive RangeKind where
  | free | concatenated | interleaved | mirrored
  deriving DecidableEq, Repr, Inhabited

/-- A segment entry (R356). -/
structure Segment where
  sled : SledId := 0
  base : BitVec 14 := 0
  lost : Bool := false
  deriving DecidableEq, Repr, Inhabited

/-- A cascade range entry (R356). -/
structure Range where
  base : Nat := 0
  length : Nat := 0
  kind : RangeKind := .free
  n : Nat := 0
  degraded : Bool := false
  resilvering : Bool := false
  leadIsOne : Bool := false
  first : Nat := 0
  watermark : Nat := 0
  deriving DecidableEq, Repr, Inhabited

/-- The copy of the cascade map and tables that a sled holds (R351, R356, R361): version, ranges, segments, members,
routes. -/
structure CascadeMap where
  version : Nat := 0
  ranges : Sparse Range := []
  segments : Sparse Segment := []
  members : Sparse Member := []
  routes : Sparse (BitVec 16) := []
  deriving DecidableEq, Repr, Inhabited

/-- A change that the ridge has sent to its deputy and that is in force nowhere (R354): the map it would make; for a range
command its path, range, action and opcode result; the grant of a join that waits for it; the member it declares lost. -/
structure PendingChange where
  map : CascadeMap := {}
  path : Option Path := none
  range : Option (Nat × Nat) := none
  grant : Option JoinGrant := none
  lost : Option Nat := none
  deriving DecidableEq, Repr, Inhabited

/-- A cascade extent of a logical device (R359): DPA block, region, cascade base block, blocks, accepted or offered. -/
structure CascadeExtent where
  ld : LdId := 0
  dpaBlock : Nat := 0
  region : Nat := 1
  base : Nat := 0
  blocks : Nat := 0
  accepted : Bool := false
  deriving DecidableEq, Repr, Inhabited

/-- A write of a mirrored range that this sled leads and whose copy its follower has not credited (R362): the range,
the follower, the sequence of the copy, the origin and its sequence, the response the origin waits for. -/
structure MirrorWait where
  range : Nat := 0
  follower : SledId := 0
  copySeq : Nat := 0
  origin : SledId := 0
  originSeq : Nat := 0
  response : List Byte := []
  deriving DecidableEq, Repr, Inhabited

/-- What a re-silver has done (R365). -/
structure Resilver where
  copied : Nat := 0
  skipped : Nat := 0
  deriving DecidableEq, Repr, Inhabited

/-- The cascade state of the sled: its role and what it knows of the ridge, the best claim and the claimants, its copy of the map,
the changes that wait for the deputy, the members probed, its cascade extents, the copies that wait for a follower, for each origin
the copies executed (R362), the sequence of its own copies, the re-silvers it leads, and its segment blocks with their range. -/
structure Cascade where
  role : Role := .standalone
  joined : Bool := false
  sledId : SledId := 0
  ridge : SledId := 0
  deputy : Option SledId := none
  term : Nat := 0
  highest : Nat := 0
  best : Option Claim := none
  claims : List Claim := []
  map : CascadeMap := {}
  changes : List PendingChange := []
  serials : List (BitVec 64 × SledId) := []
  probes : List SledId := []
  extents : List CascadeExtent := []
  mirrors : List MirrorWait := []
  mirrorSeen : Sparse (List Nat) := []
  ownSeq : Nat := 0
  resilver : Sparse Resilver := []
  lastSkipped : Sparse Nat := []
  blocks : Sparse Nat := []
  joinDraw : Option Nat := none
  timeout : Nat := 12
  rate : Nat := 8
  eligible : Bool := true
  deriving DecidableEq, Repr, Inhabited
/-! ## Purlin and the mailboxes: chapter 12 -/

/-- A CXL return code, as the manual names the ones it uses. -/
inductive ReturnCode where
  | success | backgroundStarted | invalidInput | unsupported | busy | retryRequired | aborted | invalidSlot
  | invalidPayloadLength | invalidHandle | poisonLimit | transferOutOfOrder | transferInProgress | authFailed
  | invalidLog
  deriving DecidableEq, Repr, Inhabited

/-- A background command of a path (R376): its opcode, percentage complete, whether it still runs, whether its
work has ended, and its result. -/
structure Background where
  opcode : Nat := 0
  running : Bool := false
  percent : Nat := 0
  abort : Bool := false
  done : Bool := false
  rc : ReturnCode := .success
  output : List Byte := []
  data : List Nat := []
  deriving DecidableEq, Repr, Inhabited

/-- The carrier of a command, by which background commands, results and replies are kept (R370). -/
inductive Carrier where
  | primary (ld : LdId)
  | secondary (ld : LdId)
  | fabric
  | sideband
  | rafter (origin : SledId)
  deriving DecidableEq, Repr, Inhabited

/-- A relayed command that waits for its reply (R391 Relay Command): the carrier, target, tag. -/
structure RelayWait where
  path : Path
  target : SledId
  tag : Nat
  deriving DecidableEq, Repr

/-- The state of a firmware slot (C301h byte 11). -/
inductive SlotState where
  | empty | valid | invalid | failedTrial
  deriving DecidableEq, Repr, Inhabited

/-- A transfer of an image (R383): slot, next offset. -/
structure Transfer where
  slot : Nat := 1
  next : Nat := 0
  deriving DecidableEq, Repr, Inhabited

/-- Trial state of the running image (R385, C301h byte 3). -/
inductive Trial where
  | none | inTrial | rolledBack
  deriving DecidableEq, Repr, Inhabited

/-- Why a live activation runs: a command, the roll-back of a failed trial (R385), the restart of the cluster (R369). -/
inductive ActivationKind where
  | command | rollBack | restart
  deriving DecidableEq, Repr, Inhabited

/-- A live activation under way (R384): slot, the path of its command, its kind, whether the pause has begun. -/
structure Activation where
  slot : Nat := 1
  path : Option Path := none
  kind : ActivationKind := .command
  paused : Bool := false
  deriving DecidableEq, Repr, Inhabited

/-- The firmware store and its state (R380 to R386). `nor` holds the bytes of the SPI NOR that are not FFh; `trialMinutes`,
`trialRollBack` and `trialSvn` are the policy under which the trial in progress began. -/
structure Firmware where
  nor : Sparse Byte := []
  slot1 : SlotState := .empty
  slot2 : SlotState := .empty
  transfer : Option Transfer := none
  running : Nat := 1
  boot : Nat := 1
  trial : Trial := .none
  trialStart : Nat := 0
  trialMinutes : Nat := 60
  trialRollBack : Bool := true
  trialSvn : Bool := true
  fused : Nat := 0
  lastReason : Nat := 0
  minutes : Nat := 60
  rollBack : Bool := true
  svn : Bool := true
  activation : Option Activation := none
  deriving DecidableEq, Repr, Inhabited

/-- The log store (R387 to R390): blocks retired, words written, writes of the most written word, areas given up,
read-only, the format count, and the updates of each
logical block. -/
structure LogStore where
  retired : Nat := 0
  words : Nat := 0
  highest : Nat := 0
  journalGone : Bool := false
  privateGone : Bool := false
  ringGone : Bool := false
  readOnly : Bool := false
  blockWrites : Sparse Nat := []
  deriving DecidableEq, Repr, Inhabited

/-- Purlin (R368 to R391). `expiries` holds the clock of each watchdog expiry by core; `held` the commands that wait
on their paths through a pause; `serving` the relayed requests being served, by origin, tag and sequence (R378); `heldEvents` the vendor events queued through it. -/
structure Purlin where
  running : BitVec 4 := 0
  expiries : List (Nat × Nat) := []
  totals : List Nat := [0, 0, 0, 0]
  pauses : Nat := 0
  longestPause : Nat := 0
  served : Nat := 0
  paused : Bool := false
  held : List Instr := []
  heldEvents : List (Nat × Nat × Nat × List Byte × List LdId) := []
  background : List (Carrier × Background) := []
  relays : List RelayWait := []
  nextTag : Nat := 0
  relayKeys : List (SledId × BitVec 8) := []
  serving : List (SledId × BitVec 16 × Nat) := []
  fw : Firmware := {}
  log : LogStore := {}
  deriving DecidableEq, Repr
/-! ## Bring-up and readiness: chapter 13 -/

/-- How far bring-up has come (R394): main rails off, the hub released from reset, the march test passed, firmware running. -/
inductive BringUpStep where
  | off | hubReleased | sramTested | running
  deriving DecidableEq, Repr, Inhabited

/-- An admission under way (R402, R404): its group, whether training has passed, the speed of the attempt, a retry of R404 or of
Retry Group Admission, that command's path, and the channels that passed training. -/
structure Admission where
  group : Nat := 0
  trained : Bool := false
  speed : Nat := 0
  retry : Bool := false
  path : Option Path := none
  passed : BitVec 8 := 0
  deriving DecidableEq, Repr, Inhabited

/-- Bring-up (R394 to R404, C340h): the clock of insertion, milliseconds since insertion at each milestone, the admission under way,
the groups retried, the reasons of the groups withheld, the groups held out from the next bring-up and in this one, whether event 0D03h
left the sled without memory, and whether the rafter ports have been enabled. -/
structure BringUp where
  step : BringUpStep := .off
  readiness : BitVec 32 := 0
  inserted : Nat := 0
  msPower : Option Nat := none
  msFw : Option Nat := none
  msStatic : Option Nat := none
  msSettled : Option Nat := none
  msCascade : Option Nat := none
  admission : Option Admission := none
  retried : BitVec 16 := 0
  reasons : Sparse Nat := []
  heldOut : BitVec 16 := 0
  heldOutNow : BitVec 16 := 0
  noMemory : Bool := false
  rafterEnabled : Bool := false
  deriving DecidableEq, Repr, Inhabited
/-! ## Eaves and power states: chapter 14 -/

/-- The sled states (R415). -/
inductive SledState where
  | active | drowse | watch | offAux
  deriving DecidableEq, Repr, Inhabited

/-- A state entry in its handshake (R429): the target, the place in the order of the block asked next, whether a wake is
pending. -/
structure Entry where
  target : SledState := .drowse
  next : Nat := 0
  wake : Bool := false
  deriving DecidableEq, Repr, Inhabited

/-- Refusal accounting of a block (R430). -/
structure Refusals where
  counts : List Nat := [0, 0, 0, 0, 0, 0]
  lastReason : Nat := 0
  seconds : Nat := 0
  deriving DecidableEq, Repr, Inhabited

/-- A sampled quantity (R425, C383h, C384h): its window, its last, lowest and highest sample, and whether it has been
sampled since bring-up. -/
structure Sampled where
  lowOn : Bool := true
  highOn : Bool := true
  low : BitVec 16 := 0
  high : BitVec 16 := 0
  last : BitVec 16 := 0
  seen : Bool := false
  min : BitVec 16 := 0
  max : BitVec 16 := 0
  deriving DecidableEq, Repr, Inhabited

/-- The factory windows of R425: group sensors, controller sensors, main voltage, aux voltage, main current. -/
def factoryWindows : List Sampled :=
  List.replicate 16 { low := 0xFFEC, high := 170 } ++ List.replicate 3 { low := 0xFFEC, high := 200 }
    ++ [{ low := 10800, high := 13200 }, { low := 3135, high := 3465 }, { lowOn := false, high := 400 }]

/-- The eaves domain (R411 to R437). `period` and the other policy values are those of C382h; `since` is when the
present state was entered; `unreported` counts entries for the next event 0E01h (R416); `arrival` is the
state in which the command being served arrived (C380h byte 2); `late` that of a command that waited and is served now; `retry` is the target of an entry that waits for its back-off,
`stopped` the jobs that a Watch entry stopped with reason 5 and
`saveAreas` the runs it holds (R421, R429). -/
structure Eaves where
  st : SledState := .offAux
  entry : Option Entry := none
  backoffUs : Nat := 1000
  retry : Option SledState := none
  stopped : List Nat := []
  exiting : Bool := false
  exitCause : Nat := 0
  refusals : Sparse Refusals := []
  consent : BitVec 32 := 0
  wholeConsent : Bool := false
  drowses : Nat := 0
  watches : Nat := 0
  drowseCycles : Nat := 0
  watchCycles : Nat := 0
  lastExitUs : Nat := 0
  since : Nat := 0
  lastEntry : Nat := 0
  lastKind : Option SledState := none
  unreported : Nat := 0
  drowseOn : Bool := true
  watchOn : Bool := true
  idleUs : Nat := 50
  period : Nat := 100
  ceilingMs : Nat := 1000
  sampled : List Sampled := factoryWindows
  cycles : Nat := 0
  saveAreas : List Run := []
  waiting : List Instr := []
  crystal : Bool := true
  crystalEvent : Option Nat := none
  seconds : Nat := 0
  secondsAt : Nat := 0
  savedSeconds : Nat := 0
  retention : Bool := false
  heldEvents : List (Nat × Nat × Nat × List Byte × List LdId) := []
  alertDue : Bool := false
  gated : List Nat := []
  arrival : SledState := .active
  late : Option SledState := none
  deriving DecidableEq, Repr
/-! ## Power path: chapter 15 -/

/-- The switch (C3C0h byte 2). -/
inductive Switch where
  | off | delay | ramp | rails | on | retryWait | latched
  deriving DecidableEq, Repr, Inhabited

/-- A trip record (R448). -/
structure TripRecord where
  seconds : Nat := 0
  cause : Nat := 0
  phase : Nat := 0
  count : Nat := 0
  latched : Bool := false
  mainMv : Nat := 0
  busMv : Nat := 0
  peakMa : Nat := 0
  soaUs : Nat := 0
  deriving DecidableEq, Repr, Inhabited

/-- The power path (R438 to R455). `tripWait`: less than 1 s has passed since the last trip; `railsGoodAt`: the clock at
which the main rails were good; `soa8` the safe-operating-area timer in 1/8 µs at the clock `foldSince`; energy is in units of 0.1 pJ; `held`: events raised while no firmware runs (R455). -/
structure PowerPath where
  sw : Switch := .off
  present : Bool := false
  mainIn : Bool := false
  auxIn : Bool := false
  count : Nat := 0
  latched : Bool := false
  tripWait : Bool := false
  lastTripSeconds : Nat := 0
  lastCause : Nat := 0
  railsGoodAt : Option Nat := none
  trips : Nat := 0
  excursions : Nat := 0
  records : List TripRecord := []
  limit : Nat := 40
  retry : Nat := 3
  soa : Nat := 20
  delay : Nat := 200
  foldback : Bool := false
  foldSince : Nat := 0
  soa8 : Nat := 0
  removedAt : Option Nat := none
  mainMv : BitVec 16 := 0
  mainMa : BitVec 16 := 0
  auxMv : BitVec 16 := 0
  aux100uA : BitVec 16 := 0
  powerMw : BitVec 32 := 0
  energy : Nat := 0
  peakMa : BitVec 16 := 0
  peakMw : BitVec 32 := 0
  conversionSeconds : Nat := 0
  held : List (Nat × Nat × Nat × List Byte × List LdId) := []
  deriving DecidableEq, Repr, Inhabited
/-! ## On-chip memory: chapter 16 -/

/-- A bit error lying in an SRAM word (R460): one bit, or two. -/
inductive SramError where
  | single | double
  deriving DecidableEq, Repr, Inhabited

/-- On-chip memory. The contents of each area are the state of the unit that owns it (R456); here are the errors lying
in words, by SRAM address, and in keys (R464), the counts by bank (R460) and the banks of the present period of
event 1001h (R466), the region test (R461, R462), whether a region is in test
and where it stopped, and C400h's counts. -/
structure OnChip where
  errors : Sparse SramError := []
  keyErrors : Sparse Bool := []
  corrected : Sparse Nat := []
  lately : List Nat := []
  uncorrectable : Nat := 0
  fencedRecords : Nat := 0
  enable : Bool := true
  intervalUs : Nat := 1000
  bank : Nat := 0
  region : Nat := 0
  inTest : Bool := false
  stopped : Option (Nat × Nat) := none
  lapStart : Nat := 0
  lastLap : Nat := 0
  done : Nat := 0
  skipped : Nat := 0
  deriving DecidableEq, Repr, Inhabited
/-! ## Counters and trace: chapter 17 -/

/-- A port block of page 0 (R469), with the bytes of the window in progress. -/
structure PortBlock where
  inNow : Nat := 0
  outNow : Nat := 0
  inLast : Nat := 0
  outLast : Nat := 0
  inPeak : Nat := 0
  outPeak : Nat := 0
  inTotal : Nat := 0
  outTotal : Nat := 0
  deriving DecidableEq, Repr, Inhabited

/-- A general counter (R472): value and configuration; `was` is the condition's last value, for edge mode. -/
structure GeneralCounter where
  value : BitVec 48 := 0
  enable : Bool := false
  level : Bool := false
  overflow : Bool := false
  event : BitVec 8 := 0
  qualifier : BitVec 16 := 0
  was : Bool := false
  deriving DecidableEq, Repr, Inhabited

/-- Counters and trace. The ring holds records of 32 bytes by slot (sequence mod 32,768). -/
structure Counters where
  epoch : BitVec 32 := 0
  window : Nat := 1000
  seq : BitVec 32 := 0
  ports : Sparse PortBlock := []
  head : BitVec 32 := 0
  traceDropped : BitVec 32 := 0
  sample : BitVec 4 := 10
  kinds : BitVec 4 := 0
  filterRid : BitVec 16 := 0xFFFF
  filterClass : BitVec 8 := 0xFF
  sampled : Nat := 0
  lastRecord : Option Nat := none
  ring : Sparse (List Byte) := []
  general : Sparse GeneralCounter := []
  access : Sparse (BitVec 2) := []
  bringUpAt : Nat := 0
  deriving DecidableEq, Repr, Inhabited
/-! ## Sled and connector: chapter 18 -/

/-- The locate indicator (C481h). -/
inductive Locate where
  | off | on | timed
  deriving DecidableEq, Repr, Inhabited

/-- The connector (R485 to R504): straps in force and read now, the input signals, the outputs (WAKE# held for HP0 and for HP1), the sideband
addresses. -/
structure Connector where
  inForce : Straps := {}
  now : Straps := {}
  sampledAt : Nat := 0
  perst0 : Bool := true
  perst1 : Bool := true
  refclk0 : Bool := false
  refclk1 : Bool := false
  oscillator0 : Bool := false
  oscillator1 : Bool := false
  wake0 : Bool := false
  wake1 : Bool := false
  alert : Bool := false
  locate : Locate := .off
  dynamic : Option (BitVec 7) := none
  deriving DecidableEq, Repr, Inhabited
/-! ## Electrical and thermal limits: chapter 19 -/

/-- Thermal stages, sensors and shutdowns (R514, R515, C4C0h). Sensors are signed, 0.5 degree units. -/
structure Thermal where
  dram : Sparse Nat := []
  controller : Nat := 0
  sensors : List (BitVec 16) := [0, 0, 0]
  shutdowns : Nat := 0
  lastShutdown : Option Nat := none
  coolDown : Bool := false
  pendingEvent : List (Nat × Nat × Bool) := []
  hotSince : Option Nat := none
  hotCycles : Nat := 0
  c1Since : Option Nat := none
  c1Cycles : Nat := 0
  deriving DecidableEq, Repr, Inhabited
/-! ## What the block sends -/

/-- Control messages of classes 10h to FFh between sleds (R378); their fields, without a byte layout. -/
inductive ControlMessage where
  | claim (c : Claim)
  | heartbeat (term : Nat)
  | termAnnounce (term : Nat) (deputy : Option SledId)
  | handRole (term : Nat)
  | mapUpdate (term : Nat) (map : CascadeMap)
  | mapAck (version : Nat)
  | joinRequest (j : JoinReq)
  | joinGrant (g : JoinGrant)
  | linkKey (keyId : BitVec 2) (wrapped : List Byte)
  | linkKeyConfirm (keyId : BitVec 2) (stopped : Bool)
  | probe
  | neighbours (list : List (RaftPort × SledId))
  | unreachable (member : SledId)
  | resilverEnded (range skipped : Nat)
  | newDeputyWanted
  deriving DecidableEq, Repr

/-- What the block sends, oldest first in `State.out`. -/
inductive Out where
  /-- A data response of CXL.mem (S2M DRS), with its poison bit (R46) and DevLoad (R291). -/
  | data (port : HostPort) (tag : BitVec 16) (bytes : List Byte) (poison : Bool) (devLoad : Nat)
  /-- A completion of a write (S2M NDR), with DevLoad. -/
  | done (port : HostPort) (tag : BitVec 16) (devLoad : Nat)
  /-- A request that no HDM decoder accepts (R58), answered as CXL defines for such an address. -/
  | decodeError (port : HostPort) (tag : BitVec 16)
  /-- A protocol error on a port (R21). -/
  | protocolError (port : HostPort)
  /-- The value of an MMIO read. -/
  | mmio (port : HostPort) (value : Nat)
  /-- The answer to a command: path, opcode, return code, output payload. -/
  | reply (path : Path) (opcode : Nat) (rc : ReturnCode) (output : List Byte)
  /-- The completion of a background command: its Background Command Status register takes the return code and the status word
  (R376). -/
  | backgroundDone (path : Path) (opcode : Nat) (rc : ReturnCode) (status : Nat)
  /-- An event interrupt of a logical device (R49, R52). -/
  | interrupt (ld : LdId) (log : EventLog)
  /-- A DOE answer on a port: IDE_KM, SPDM or TSP (R203, R205, R219). -/
  | doe (port : HostPort) (bytes : List Byte)
  /-- TSP unsupported-request error (R205). -/
  | tspError (ld : LdId) (session : BitVec 16)
  /-- A TSP answer. -/
  | tsp (ld : LdId) (session : BitVec 16) (rc : ReturnCode) (output : List Byte)
  /-- A transport packet sent on a rafter port (R329, R330). -/
  | packet (port : RaftPort) (bytes : List Byte)
  /-- A control block sent on every lane of a rafter port (R321): its type and bytes 1 to 15. -/
  | block (port : RaftPort) (type : Nat) (bytes : List Byte)
  /-- A control message to a sled, or flooded over the hops. -/
  | control (dest : Option SledId) (m : ControlMessage)
  /-- A rafter-borne mailbox request or reply (R378). -/
  | mailbox (dest : SledId) (isReply : Bool) (m : MailboxMsg)
  /-- A sideband transaction not acknowledged (R427). -/
  | nack (address : BitVec 7)
  /-- The own address, answered to the SMBus alert response address (R494). -/
  | alertAddress (address : BitVec 7)
  /-- An in-band interrupt on I3C (R427, R494). -/
  | inBandInterrupt
  /-- A Purlin access to a gated block ends with a bus error (R434), as does view 11b (R459). -/
  | busError
  deriving DecidableEq, Repr

/-! ## What the log store keeps -/

/-- The settings and records that the log store keeps (R388): the boot state, the identity area, the settings of every chapter, the
cascade map, the fenced-row and retirement lists, and the fault ring. -/
structure LogImage where
  boot : Nat := 1
  slot1 : SlotState := .empty
  slot2 : SlotState := .empty
  firmware : Nat × Bool × Bool := (60, true, true)
  homeId : BitVec 10 := 0
  epoch : BitVec 21 := 0
  seconds : Nat := 0
  ratio : Nat := 100
  growth : LdId := 0
  phioz : List Nat := []
  cacheEnable : Bool := true
  noFill : BitVec 64 := 0
  speed : Nat := 0
  masks : List Nat := []
  training : Nat × Nat × Nat × Nat := (256, 4, 12, 4)
  groups : Sparse (Bool × Nat × Nat) := []
  patrol : Bool × Nat := (true, 1440)
  retirement : Nat × Nat × Nat × Nat × Bool := (1, 4, 256, 25, false)
  classes : Sparse ClassRow := []
  pinBound : Sparse Nat := []
  ceilings : Sparse Nat := []
  transport : Nat × Nat × Nat := (64, 100, 2000)
  disabled : List Nat := []
  cascade : Nat × Nat × Bool := (12, 8, true)
  map : CascadeMap := {}
  term : Nat := 0
  serials : List (BitVec 64 × SledId) := []
  heldOut : BitVec 16 := 0
  states : Bool × Bool × Nat × Nat × Nat := (true, true, 50, 100, 1000)
  windows : List Sampled := []
  power : Nat × Nat × Nat × Nat := (40, 3, 20, 200)
  memoryTest : Bool × Nat := (true, 1000)
  trace : BitVec 4 × BitVec 4 × BitVec 16 × BitVec 8 := (0, 10, 0xFFFF, 0xFF)
  access : Sparse (BitVec 2) := []
  fencedRows : Sparse Bool := []
  rowsAwaiting : Sparse Bool := []
  ranks : Sparse Bool := []
  channels : Sparse Bool := []
  clears : List Retirement := []
  ring : List FaultRecord := []
  ringBase : Nat := 0
  deriving DecidableEq, Repr

/-! ## The block -/

/-- Why a step stops the machine. No command of the spec stops it, so the one constructor is raised by no meaning. -/
inductive Fault where
  /-- Raised by no command: the spec describes nothing that stops the block as a whole. Safe. -/
  | none
  deriving DecidableEq, Repr

/-- Why a command has no meaning in the model. -/
inductive Refusal where
  /-- Raised by exec for a command that has no meaning yet. Safe: it stops where the sled goes on. -/
  | notModelled (mnemonic : String)
  deriving DecidableEq, Repr

/-- The state of the sled. `clock` counts hub cycles of 1.6 GHz (R128); `small` is HM4-1024; `serial` is the unit's
serial number (R52); `frozen` is what the log store holds once it is read-only (R390); `pending` the commands that wait, first in first out; `out` what the sled has sent. -/
structure State where
  pending : List Instr := []
  clock : Nat := 0
  small : Bool := false
  serial : BitVec 64 := 0
  host : HostSide := {}
  cap : Capacity := {}
  xlat : Translation := {}
  alloc : Allocator := {}
  tile : TileEngine := {}
  place : Placement := {}
  cache : TileCache := {}
  flash : Flashing := {}
  dram : Dram := {}
  spare : Sparing := {}
  reg : Regulator := {}
  link : Rafter := {}
  casc : Cascade := {}
  purlin : Purlin := {}
  boot : BringUp := {}
  eaves : Eaves := {}
  power : PowerPath := {}
  sram : OnChip := {}
  ctr : Counters := {}
  conn : Connector := {}
  therm : Thermal := {}
  frozen : Option LogImage := none
  out : List Out := []
  deriving DecidableEq, Repr

/-- The sled before aux power: Off-aux, no input in its window, every course absent, every register at its reset value
(R393, R411, R415); context 0000h's generation 0 reads loaded (R200). -/
def State.reset : State :=
  let flash : Flashing := { contexts := [(0, { g0 := { st := .loaded } })] }
  { flash := flash }

end Sys2Proof.Machine
end

