-- ==== Sys2Proof/Machine/Layout.lean ====
section
/-! DEFINITION. Bit layouts and address arithmetic: directory entry (R59), batten (R61), context entry (R200), tag entry
(R165), slot addresses and runs (R66 to R69), stripes (R262, R263), DRAM addresses (R230, R231), tweaks (R197), tile
cache sets (R164). -/

namespace Sys2Proof.Machine

/-! ## Parts -/

/-- Local blocks of the part (R56). -/
def State.blocks (s : State) : Nat := if s.small then 8192 else 16384
/-- Laths of a channel (R66). -/
def State.laths (s : State) : Nat := if s.small then 8192 else 16384
/-- Usable physical capacity in GiB (R30). -/
def State.usableGiB (s : State) : Nat := if s.small then 891 else 1783
/-- Usable physical capacity in blocks of 256 MiB (R30). -/
def State.usableBlocks (s : State) : Nat := s.usableGiB * 4
/-- Usable physical capacity in slots of 64 B. -/
def State.usableSlots (s : State) : Nat := s.usableGiB * 2 ^ 24
/-- Maximum provisioned capacity in blocks: 4 TiB or 2 TiB (R1, R31). -/
def State.maxBlocks (s : State) : Nat := s.blocks
/-- The spare reserve in MiB (R285). -/
def State.reserveMiB (s : State) : Nat := if s.small then 61440 else 122880
/-- PART_CODE (R52). -/
def State.partCode (s : State) : Nat := if s.small then 0x0400 else 0x0800
/-- Data slots of a lath (R81). -/
abbrev lathData : Nat := 15360

/-! ## The block directory and the batten -/

/-- R59 [63:62]. -/
def BlockState.code : BlockState → Nat
  | .unassigned => 0 | .filling => 1 | .ready => 2 | .bound => 3

/-- A directory entry as 64 bits (R59). -/
def DirEntry.toBits (e : DirEntry) : Nat :=
  e.st.code * 2 ^ 62 + e.epoch.toNat * 2 ^ 60 + e.walks.toNat * 2 ^ 58 + b2n e.strong * 2 ^ 57 + b2n e.rebuild * 2 ^ 56
    + e.owner.toNat * 2 ^ 51 + e.extent.toNat * 2 ^ 35 + e.base.toNat

/-- R61 [127:126]. -/
def Tier.code : Tier → Nat
  | .absent => 0 | .raw => 1 | .tiled => 2 | .thatched => 3

/-- The size field of tile `t` (R62). -/
def Batten.size (b : Batten) (t : Nat) : Nat := (b.sizes.getD t 0).toNat

/-- A batten with the size field of tile `t` replaced. -/
def Batten.setSize (b : Batten) (t n : Nat) : Batten := { b with sizes := b.sizes.set t (BitVec.ofNat 3 n) }

/-- The sum of the sizes of the tiles below `t`; with `t` = 16 the run length of a native tiled course (R63). -/
def Batten.sumSizes (b : Batten) (t : Nat) : Nat := ((b.sizes.take t).map (·.toNat)).sum

/-- A batten as 128 bits (R61). -/
def Batten.toBits (b : Batten) : Nat :=
  b.tier.code * 2 ^ 126 + b2n b.strong * 2 ^ 125 + b.ctx.toNat * 2 ^ 112 + b2n b.gen * 2 ^ 111 + b2n b.early * 2 ^ 110
    + b2n b.phioz * 2 ^ 109 + b.heat.toNat * 2 ^ 102 + b.cls.toNat * 2 ^ 96
    + ((List.range 16).map fun t => b.size t * 2 ^ (93 - 3 * t)).sum
    + b.base.toNat * 2 ^ 13 + b.epoch.toNat * 2 ^ 11 + b2n b.poison * 2 ^ 10 + b2n b.move * 2 ^ 9 + b.len.toNat

/-- The sizes fields all at one value. -/
def sizesAll (n : Nat) : List (BitVec 3) := List.replicate 16 (BitVec.ofNat 3 n)

/-- R63: does the batten obey the table of contents by tier? -/
def Batten.valid (b : Batten) : Bool :=
  match b.tier with
  | .absent => true
  | .raw => b.sizes.all (· == 4) && b.len == 64
  | .tiled =>
    if b.phioz then b.sizes.all (fun z => z == 2 || z == 5) && b.len == 32
    else b.sizes.all (fun z => z.toNat ≤ 4) && b.len.toNat == b.sumSizes 16
  | .thatched => b.strong && b.sizes.all (· == 7) && b.len != 0

/-- An absent batten; `lost` keeps poison present (R65). -/
def Batten.none (lost : Bool) : Batten := { poison := lost }

/-- The offset of tile `t` in the run (R63). -/
def Batten.offset (b : Batten) (t : Nat) : Nat :=
  match b.tier with
  | .raw => 4 * t
  | _ => if b.phioz then 2 * t else b.sumSizes t

/-- The run that a batten names. -/
def Batten.run (b : Batten) : Run := { base := b.base.toNat, len := b.len.toNat, strong := b.strong }

/-- A batten that names a run. -/
def Batten.withRun (b : Batten) (r : Run) : Batten :=
  { b with base := BitVec.ofNat 35 r.base, len := BitVec.ofNat 8 r.len, strong := r.strong }

/-! ## The context table and the tile cache tag -/

/-- R200: the code of a generation's state. -/
def GenState.code : GenState → Nat
  | .empty => 0 | .loaded => 1 | .retiring => 2 | .destroyed => 3

/-- A context table entry as 32 bits (R200). -/
def Context.toBits (c : Context) : Nat :=
  b2n c.cur * 2 ^ 31 + c.g1.st.code * 2 ^ 29 + c.g0.st.code * 2 ^ 27 + b2n c.rekey * 2 ^ 26 + c.cls.toNat * 2 ^ 20
    + b2n c.phiozConv * 2 ^ 19 + b2n c.owned * 2 ^ 18 + c.owner.toNat * 2 ^ 13

/-- The generation a batten or CUR_GEN names. -/
def Context.gen (c : Context) (g : Bool) : Generation := if g then c.g1 else c.g0
/-- The context with a generation replaced. -/
def Context.setGen (c : Context) (g : Bool) (x : Generation) : Context := if g then { c with g1 := x } else { c with g0 := x }
/-- A generation usable for reads and writes of stored courses (R208). -/
def Generation.usable (g : Generation) : Bool := g.st == .loaded || g.st == .retiring

/-- A tag entry as 32 bits, parity bit included (R165). -/
def Way.toBits (w : Way) : Nat :=
  let v := b2n w.valid * 2 ^ 30 + b2n w.evicting * 2 ^ 29 + w.sectors.toNat * 2 ^ 25 + w.epoch.toNat * 2 ^ 23 + w.tag.toNat
  v + (popcount 31 v + b2n w.badParity) % 2 * 2 ^ 31

/-- The tile number (R164). -/
def tileNumber (course t : Nat) : Nat := course * 16 + t
/-- The set of a tile (R164). -/
def tileSet (tile : Nat) : Nat := tile % 6144
/-- The tag of a tile (R164). -/
def tileTag (tile : Nat) : Nat := tile / 6144

/-! ## Slot addresses and runs -/

/-- A slot address from channel, lath and slot (R66). -/
def slotAddress (ch lath slot : Nat) : Nat := ch * 2 ^ 28 + lath * 2 ^ 14 + slot
/-- R66 [34:28]. -/
def slotChannel (a : Nat) : Nat := bits a 34 28
/-- R66 [27:14]. -/
def slotLath (a : Nat) : Nat := bits a 27 14
/-- The data index of a data slot in its lath (R67). -/
def dataIndex (a : Nat) : Nat := bits a 13 4 * 15 + bits a 3 0
/-- The lath slot of data index `i` (R67). -/
def lathSlot (i : Nat) : Nat := i / 15 * 16 + i % 15
/-- Is it a check slot (R66)? -/
def isCheckSlot (a : Nat) : Bool := a % 16 == 15
/-- The lath a slot lies in, by channel × 16,384 + lath. -/
def lathKey (ch lath : Nat) : Nat := ch * 16384 + lath

/-- Data slot `k` of a light-coded run (R67). -/
def lightSlot (base k : Nat) : Nat := slotAddress (slotChannel base) (slotLath base) (lathSlot (dataIndex base + k))

/-- The group that a stripe lath number names (R262). -/
def stripeGroup (lath : Nat) : Nat := lath % 16

/-- The channel of member `m` of the stripes anchored at `base` (R262). -/
def memberChannel (base m : Nat) : Nat :=
  let g := bits base 34 31
  let o := bits base 30 28
  let h := bits base 17 14
  if m < 5 then 8 * g + (o + m) % 8
  else 8 * h + (o + m - 5) % 8

/-- The slot of member `m` of stripe `n` of a strong-coded run (R262, R263). -/
def memberSlot (base n m : Nat) : Nat := slotAddress (memberChannel base m) (slotLath base) (lathSlot (dataIndex base + n))

/-- Data slot `k` of a strong-coded run (R263). -/
def strongSlot (base k : Nat) : Nat := memberSlot base (k / 8) (k % 8)

/-- Data slot `k` of a run (R67, R263). -/
def Run.slot (r : Run) (k : Nat) : Nat := if r.strong then strongSlot r.base k else lightSlot r.base k
/-- The stripes of a strong-coded run (R68). -/
def Run.stripes (r : Run) : Nat := ceilDiv r.len 8
/-- The channels that hold a run. -/
def Run.channels (r : Run) : List Nat :=
  if r.len = 0 then [] else if r.strong then (List.range 10).map (memberChannel r.base) else [slotChannel r.base]
/-- The laths that a run lies in. -/
def Run.laths (r : Run) : List Nat := r.channels.map fun ch => lathKey ch (slotLath r.base)
/-- Data indices of its lath that a run takes. -/
def Run.width (r : Run) : Nat := if r.strong then r.stripes else r.len
/-- Physical slots in use for a run, stripe check slots included (R156). -/
def Run.physical (r : Run) : Nat := if r.strong then 10 * r.stripes else r.len

/-- The table run slots of course `c` of a block (R72, R73): the slot of its batten. -/
def tableSlot (e : DirEntry) (c : Nat) : Nat :=
  if e.strong then strongSlot e.base.toNat (c / 4)
  else
    let first := e.base.toNat
    let base := if c < 32768 then first else first + 2 ^ 28
    lightSlot base (c % 32768 / 4)

/-- The runs that hold a block's table (R72, R73). -/
def tableRuns (base : Nat) (strong : Bool) : List Run :=
  if strong then [{ base, len := 16384, strong := true }]
  else [{ base, len := 8192 }, { base := base + 2 ^ 28, len := 8192 }]

/-! ## DRAM addresses -/

/-- R230: the row of a slot. -/
def slotRow (a : Nat) : Nat := bits a 27 9
/-- R230: the rank of a slot. -/
def slotRank (a : Nat) : Nat := bits a 8 8
/-- R231: a mask is valid for bank bit `b`. -/
def maskValid (b m : Nat) : Bool :=
  bitAt m (5 + b) && (List.range 3).all (fun j => j == b || !bitAt m (5 + j)) && m % 32 == 0 && decide (m < 2 ^ 35)
/-- R231: bank bit from a mask. -/
def bankBit (a m : Nat) : Nat := popcount 35 (a &&& m) % 2
/-- The bank of a slot under the masks in force (R231). -/
def slotBank (masks : List Nat) (a : Nat) : Nat :=
  bankBit a (masks.getD 0 0) + 2 * bankBit a (masks.getD 1 0) + 4 * bankBit a (masks.getD 2 0)
/-- The check slot of a data slot (R261). -/
def checkSlot (a : Nat) : Nat := a / 16 * 16 + 15
/-- A row as one key: channel, rank, bank, row. -/
def rowKey (ch rank bank row : Nat) : Nat := ((ch * 2 + rank) * 8 + bank) * 2 ^ 19 + row
/-- The row of a slot as a key. -/
def slotRowKey (masks : List Nat) (a : Nat) : Nat := rowKey (slotChannel a) (slotRank a) (slotBank masks a) (slotRow a)
/-- The refresh segment of a lath (R241). -/
def lathSegment (small : Bool) (lath : Nat) : Nat := lath / (if small then 1024 else 2048)

/-! ## Ordinals and tweaks -/

/-- A course tweak (R197): the generation and tier in which the slot is stored, its ordinal, the global course address. -/
def courseTweak (gen : Bool) (tier : Tier) (ordinal homeId course : Nat) : Nat :=
  b2n gen * 2 ^ 50 + tier.code * 2 ^ 48 + ordinal * 2 ^ 40 + homeId * 2 ^ 30 + course

/-- An internal tweak (R197). -/
def internalTweak (a : Nat) : Nat := a % 2 ^ 35

end Sys2Proof.Machine
end

