-- ==== Sys2Proof/Machine/Ops.lean ====
section
/-! DEFINITION. The named operations over the state that every chapter uses: parts of the state, logical devices and
requestors (R25 to R27), events and their rates (R49, R519), trace records (R476, R477), general counters (R473),
poison lists (R46), the random generator (R195). -/

namespace Sys2Proof.Machine

/-! ## Parts of the state -/

/-- Change the `host` part of the state. -/
def State.onHost (s : State) (f : HostSide → HostSide) : State := { s with host := f s.host }
/-- Change the `cap` part of the state. -/
def State.onCap (s : State) (f : Capacity → Capacity) : State := { s with cap := f s.cap }
/-- Change the `xlat` part of the state. -/
def State.onXlat (s : State) (f : Translation → Translation) : State := { s with xlat := f s.xlat }
/-- Change the `alloc` part of the state. -/
def State.onAlloc (s : State) (f : Allocator → Allocator) : State := { s with alloc := f s.alloc }
/-- Change the `tile` part of the state. -/
def State.onTile (s : State) (f : TileEngine → TileEngine) : State := { s with tile := f s.tile }
/-- Change the `place` part of the state. -/
def State.onPlace (s : State) (f : Placement → Placement) : State := { s with place := f s.place }
/-- Change the `cache` part of the state. -/
def State.onCache (s : State) (f : TileCache → TileCache) : State := { s with cache := f s.cache }
/-- Change the `flash` part of the state. -/
def State.onFlash (s : State) (f : Flashing → Flashing) : State := { s with flash := f s.flash }
/-- Change the `dram` part of the state. -/
def State.onDram (s : State) (f : Dram → Dram) : State := { s with dram := f s.dram }
/-- Change the `spare` part of the state. -/
def State.onSpare (s : State) (f : Sparing → Sparing) : State := { s with spare := f s.spare }
/-- Change the `reg` part of the state. -/
def State.onReg (s : State) (f : Regulator → Regulator) : State := { s with reg := f s.reg }
/-- Change the `link` part of the state. -/
def State.onLink (s : State) (f : Rafter → Rafter) : State := { s with link := f s.link }
/-- Change the `casc` part of the state. -/
def State.onCasc (s : State) (f : Cascade → Cascade) : State := { s with casc := f s.casc }
/-- Change the `purlin` part of the state. -/
def State.onPurlin (s : State) (f : Purlin → Purlin) : State := { s with purlin := f s.purlin }
/-- Change the `boot` part of the state. -/
def State.onBoot (s : State) (f : BringUp → BringUp) : State := { s with boot := f s.boot }
/-- Change the `eaves` part of the state. -/
def State.onEaves (s : State) (f : Eaves → Eaves) : State := { s with eaves := f s.eaves }
/-- Change the `power` part of the state. -/
def State.onPower (s : State) (f : PowerPath → PowerPath) : State := { s with power := f s.power }
/-- Change the `sram` part of the state. -/
def State.onSram (s : State) (f : OnChip → OnChip) : State := { s with sram := f s.sram }
/-- Change the `ctr` part of the state. -/
def State.onCtr (s : State) (f : Counters → Counters) : State := { s with ctr := f s.ctr }
/-- Change the `conn` part of the state. -/
def State.onConn (s : State) (f : Connector → Connector) : State := { s with conn := f s.conn }
/-- Change the `therm` part of the state. -/
def State.onTherm (s : State) (f : Thermal → Thermal) : State := { s with therm := f s.therm }

/-- Send something. -/
def State.emit (s : State) (o : Out) : State := { s with out := s.out ++ [o] }

/-- Apply an operation to every element of a list, in order. -/
def foldState {α : Type} (f : State → α → State) (s : State) (l : List α) : State := l.foldl f s

/-! ## Ports, logical devices and requestors -/

/-- The state of a port. -/
def State.port (s : State) (p : HostPort) : PortState := match p with | .hp0 => s.host.hp0 | .hp1 => s.host.hp1
/-- Change a port. -/
def State.onPort (s : State) (p : HostPort) (f : PortState → PortState) : State :=
  match p with
  | .hp0 => s.onHost fun h => { h with hp0 := f h.hp0 }
  | .hp1 => s.onHost fun h => { h with hp1 := f h.hp1 }
/-- The number of a port. -/
def portNat (p : HostPort) : Nat := match p with | .hp0 => 0 | .hp1 => 1
/-- The port of a logical device. -/
def ldPort (l : LdId) : HostPort := if bitAt l.toNat 4 then .hp1 else .hp0

/-- The logical device of a source: the sled's one device in global fabric-attached memory mode, the port's single
device, or the LD-ID's (R25 to R27). -/
def State.ldOf (s : State) (p : HostPort) (ldid : BitVec 4) : LdId :=
  if s.host.gfam then 0
  else BitVec.ofNat 5 (16 * portNat p + (if (s.port p).mld then ldid.toNat else 0))

/-- The requestor ID of a source (R25). -/
def State.ridOf (s : State) (p : HostPort) (ldid : BitVec 4) (pbr : BitVec 12) : BitVec 12 :=
  if s.host.gfam then pbr
  else if (s.port p).mld then BitVec.ofNat 12 (16 * portNat p + ldid.toNat)
  else BitVec.ofNat 12 (portNat p)

/-- The one requestor ID of a logical device in single or multi-logical-device mode (R525). -/
def State.ridOfLd (s : State) (l : LdId) : BitVec 12 := s.ridOf (ldPort l) (BitVec.ofNat 4 l.toNat) 0

/-- The logical devices of the present port modes (R22, R26): under the x16 strap HP1 is not enumerated. -/
def State.lds (s : State) : List LdId :=
  if s.host.gfam then [0]
  else
    let of (p : HostPort) : List LdId :=
      if (s.port p).mld then (List.range 16).map fun i => BitVec.ofNat 5 (16 * portNat p + i)
      else [BitVec.ofNat 5 (16 * portNat p)]
    of .hp0 ++ (if s.host.x16 then [] else of .hp1)

/-- Does the number name a logical device in the port's mode (R59, C045h)? -/
def State.ldExists (s : State) (l : LdId) : Bool := s.lds.contains l

/-- The logical device that a requestor ID belongs to (R27, R525). -/
def State.ldOfRid (s : State) (rid : Nat) : Option LdId :=
  if s.host.gfam then some 0 else s.lds.find? fun l => (s.ridOfLd l).toNat == rid

/-- The state of a logical device. -/
def State.ld (s : State) (l : Nat) : LdState := Sparse.get {} s.host.lds l
/-- Change a logical device. -/
def State.onLd (s : State) (l : Nat) (f : LdState → LdState) : State :=
  s.onHost fun h => { h with lds := Sparse.modify {} h.lds l f }

/-! ## Time -/

/-- Nanoseconds of a clock count at 1.6 GHz. -/
def nsOf (cycles : Nat) : Nat := cycles * 5 / 8
/-- Microseconds of a clock count. -/
def usOf (cycles : Nat) : Nat := cycles / 1600
/-- Milliseconds of a clock count. -/
def msOf (cycles : Nat) : Nat := cycles / 1600000
/-- Seconds of a clock count. -/
def secOf (cycles : Nat) : Nat := cycles / 1600000000

/-- The seconds count of the time base (R521). -/
def State.seconds (s : State) : Nat := s.eaves.seconds + secOf (s.clock - s.eaves.secondsAt)

/-- The CXL timestamp: the value set, counted on in nanoseconds; 0 while none has been set. -/
def State.timestamp (s : State) : Nat :=
  if s.host.timestampSet then s.host.timestamp + nsOf (s.clock - s.host.timestampAt) else 0

/-! ## Trace -/

/-- Do the hub clocks run (R393, R418)? -/
def State.hubRuns (s : State) : Bool := s.eaves.st == .active && s.boot.step != .off

/-- Is a bit of READINESS set (R397)? -/
def State.ready (s : State) (i : Nat) : Bool := bitAt s.boot.readiness.toNat i
/-- Set or clear a bit of READINESS. -/
def State.setReady (s : State) (i : Nat) (v : Bool) : State :=
  s.onBoot fun b => { b with readiness := BitVec.ofNat 32 (setBits b.readiness.toNat i i (b2n v)) }

/-- Readiness bits by name (R397). -/
abbrev rdyHp0 : Nat := 0
abbrev rdyHp1 : Nat := 1
abbrev rdyStrong : Nat := 2
abbrev rdySettled : Nat := 3
abbrev rdyMailbox : Nat := 4
abbrev rdyFw : Nat := 5
abbrev rdyRecovery : Nat := 6
abbrev rdySram : Nat := 7
abbrev rdyStatic : Nat := 8
abbrev rdyFlashing : Nat := 9
abbrev rdyRafter : Nat := 10
abbrev rdyCascade : Nat := 14
abbrev rdyPatrol : Nat := 15
abbrev rdyGroup : Nat := 16

/-- A trace record (R477), from its kind, subtype, requestor, context and kind-specific bytes. -/
def traceBytes (seq time kind sub rid ctx : Nat) (special : List Byte) : List Byte :=
  le 4 seq ++ le 8 time ++ le 1 kind ++ le 1 sub ++ le 2 rid ++ le 2 ctx ++ slice special 0 14

/-- Does the ring take a record now (R476)? It accepts one every 4 hub cycles. -/
def State.ringFree (s : State) : Bool :=
  match s.ctr.lastRecord with
  | some t => decide (t + 4 ≤ s.clock)
  | none => true

/-- Is a kind of trace record enabled (R469 TRACE_KINDS)? -/
def State.traceOn (s : State) (kind : Nat) : Bool := bitAt s.ctr.kinds.toNat (kind - 1)

/-- Write a record to the ring, which is free. -/
def State.putRecord (s : State) (kind sub rid ctx : Nat) (special : List Byte) : State :=
  s.onCtr fun c =>
    { c with
      ring := Sparse.set [] c.ring (c.head.toNat % 32768)
        (traceBytes c.head.toNat (nsOf (s.clock - c.bringUpAt)) kind sub rid ctx special)
      head := c.head + 1
      lastRecord := some s.clock }

/-- Count a dropped record, saturating (R469). -/
def State.dropRecord (s : State) : State :=
  s.onCtr fun c => { c with traceDropped := if c.traceDropped = 0xFFFFFFFF then c.traceDropped else c.traceDropped + 1 }

/-! ## Events -/

/-- The code of a log's severity for its logical device's interrupt policy. -/
def logIndex : EventLog → Nat
  | .informational => 0 | .warning => 1 | .failure => 2 | .fatal => 3 | .dynamicCapacity => 4

/-- The log of a logical device. -/
def LdState.log (d : LdState) : EventLog → EventLogState
  | .informational => d.info | .warning => d.warn | .failure => d.fail | .fatal => d.fatal | .dynamicCapacity => d.dcd
/-- A logical device with a log replaced. -/
def LdState.setLog (d : LdState) (l : EventLog) (x : EventLogState) : LdState :=
  match l with
  | .informational => { d with info := x }
  | .warning => { d with warn := x }
  | .failure => { d with fail := x }
  | .fatal => { d with fatal := x }
  | .dynamicCapacity => { d with dcd := x }

/-- Put a record into a log of 256 (R20); a full log counts an overflow, as CXL defines. -/
def EventLogState.add (l : EventLogState) (time : Nat) (data : List Byte) : EventLogState :=
  if l.records.length ≥ 256 then
    { l with overflow := min (l.overflow + 1) 65535, lastOverflow := time,
             firstOverflow := if l.overflow = 0 then time else l.firstOverflow }
  else
    { l with records := l.records ++ [{ handle := l.nextHandle, time, data }], nextHandle := l.nextHandle % 65535 + 1 }

/-- Does the interrupt policy of a logical device signal a log (R49)? One byte of settings per log; [1:0] is the mode,
0 none. -/
def LdState.signals (d : LdState) (l : EventLog) : Bool := bits d.policy.toNat (8 * logIndex l + 1) (8 * logIndex l) != 0

/-- Put a record in a log of a logical device, with its interrupt. -/
def State.logTo (s : State) (l : LdId) (log : EventLog) (data : List Byte) : State :=
  let d := s.ld l.toNat
  let s := s.onLd l.toNat fun d => d.setLog log ((d.log log).add s.timestamp data)
  if d.signals log then s.emit (.interrupt l log) else s

/-- The bits of the event status register that an event sets (R52): GROUP_CHG, PRESSURE_CHG. -/
def State.statusBits (s : State) (code : Nat) (l : LdId) (log : EventLog) : State :=
  if code = 0x0101 ∨ code = 0x0102 then
    let ie := (s.ld l.toNat).groupChgIe
    let s := s.onLd l.toNat fun d => { d with groupChg := true }
    if ie then s.emit (.interrupt l log) else s
  else if code = 0x0103 then
    let ie := (s.ld l.toNat).pressureChgIe
    let s := s.onLd l.toNat fun d => { d with pressureChg := true }
    if ie then s.emit (.interrupt l log) else s
  else s

/-- The data field of a vendor record: code and requestor ID, then the bytes of the event (R49). -/
def eventData (code rid : Nat) (data : List Byte) : List Byte := le 2 code ++ le 2 rid ++ data

/-- Deliver an event to logical devices. -/
def State.deliver (s : State) (code : Nat) (log : EventLog) (rid : Nat) (data : List Byte) (lds : List LdId) : State :=
  foldState (fun s l => (s.statusBits code l log).logTo l log (eventData code rid data)) s lds

/-- Can events be delivered: firmware serves the mailboxes, the sled is Active, no activation pause runs (R384, R410,
R437)? -/
def State.delivers (s : State) : Bool := s.ready rdyMailbox && s.eaves.st == .active && !s.purlin.paused

/-- The number of a log and back, for events that are held. -/
def logOf : Nat → EventLog
  | 0 => .informational | 1 => .warning | 2 => .failure | 3 => .fatal | _ => .dynamicCapacity

/-- Deliver an event, or hold it until firmware runs or the pause ends (R384, R410, R437). -/
def State.send (s : State) (code : Nat) (log : EventLog) (rid : Nat) (data : List Byte) (lds : List LdId) : State :=
  if s.delivers then s.deliver code log rid data lds
  else if s.purlin.paused then
    s.onPurlin fun p => { p with heldEvents := p.heldEvents ++ [(code, logIndex log, rid, data, lds)] }
  else s.onEaves fun e => { e with heldEvents := e.heldEvents ++ [(code, logIndex log, rid, data, lds)] }

/-- An occurrence of a rate-limited event (R519): raised at once where its subject has no period, else counted. The
counts or amounts of the occurrence are written into the data at the places given. -/
def putFields (data : List Byte) (fields : List (Nat × Nat)) (sums : List Nat) : List Byte :=
  (fields.zip sums).foldl (fun d x => splice d x.1.1 (le x.1.2 (min x.2 (256 ^ x.1.2 - 1)))) data

/-- Count an occurrence in its period. -/
def RatePeriod.count (p : RatePeriod) (q : RatePeriod) : RatePeriod :=
  { q with occurrences := p.occurrences + 1, sums := if p.occurrences = 0 then q.sums else List.zipWith (· + ·) p.sums q.sums }

/-- Is a period running for an event and subject? -/
def State.inPeriod (s : State) (code subject : Nat) : Bool :=
  s.host.periods.any fun p => p.code == code && p.subject == subject

/-- A rate-limited event without its trace record. -/
def State.limitedQuiet (s : State) (q : RatePeriod) : State :=
  if s.inPeriod q.code q.subject then
    s.onHost fun h => { h with periods := h.periods.map fun p => if p.code == q.code && p.subject == q.subject then p.count q else p }
  else
    let s := s.send q.code q.log q.requestor (putFields q.data q.fields q.sums) q.lds
    s.onHost fun h => { h with periods := h.periods ++ [{ q with occurrences := 0 }] }

/-- A trace record arriving at the ring (R476): written, or dropped and reported in event 1102h. The error record of that
event meets the busy ring too. -/
def State.trace (s : State) (kind sub rid ctx : Nat) (special : List Byte) : State :=
  if !s.traceOn kind then s
  else if s.ringFree then s.putRecord kind sub rid ctx special
  else
    let q : RatePeriod := { code := 0x1102, requestor := 0xFFFF, data := zeros 4, fields := [(0, 4)], sums := [1], lds := s.lds }
    let first := !s.inPeriod 0x1102 0
    let s := (s.dropRecord).limitedQuiet q
    if first && s.traceOn 4 then (s.dropRecord).limitedQuiet q else s

/-- The error record of an event in a Warning or Failure log (R477). -/
def State.traceError (s : State) (code : Nat) (log : EventLog) (rid : Nat) (data : List Byte) : State :=
  if log = .warning ∨ log = .failure then s.trace 4 1 rid 0xFFFF (le 2 code ++ slice data 0 12) else s

/-- Raise an event that has no rate limit. -/
def State.raise (s : State) (code : Nat) (log : EventLog) (rid : Nat) (data : List Byte) (lds : List LdId) : State :=
  (s.traceError code log rid data).send code log rid data lds

/-- Raise an event of the sled's own work to every logical device. -/
def State.raiseAll (s : State) (code : Nat) (log : EventLog) (data : List Byte) : State := s.raise code log 0xFFFF data s.lds

/-- Raise a rate-limited event (R519) of a subject: `data` holds zeros at the counted places. -/
def State.raiseLimited (s : State) (code subject : Nat) (log : EventLog) (rid : Nat) (data : List Byte)
    (fields : List (Nat × Nat)) (sums : List Nat) (lds : List LdId) : State :=
  (s.traceError code log rid (putFields data fields sums)).limitedQuiet
    { code, subject, requestor := rid, log, data, fields, sums, lds }

/-- The end of an event's period (R519): raised once more if anything occurred, and a new period starts. -/
def State.endPeriod (s : State) (code subject : Nat) : State :=
  match s.host.periods.find? fun p => p.code == code && p.subject == subject with
  | none => s
  | some p =>
    if p.occurrences = 0 then
      s.onHost fun h => { h with periods := h.periods.filter fun p => !(p.code == code && p.subject == subject) }
    else
      let s := s.send code p.log p.requestor (putFields p.data p.fields p.sums) p.lds
      s.onHost fun h => { h with periods := h.periods.map fun p =>
        if p.code == code && p.subject == subject then { p with occurrences := 0 } else p }

/-- Deliver held events, oldest first. -/
def State.flushEvents (s : State) (held : List (Nat × Nat × Nat × List Byte × List LdId)) : State :=
  foldState (fun s e => s.deliver e.1 (logOf e.2.1) e.2.2.1 e.2.2.2.1 (if e.2.2.2.2.isEmpty then s.lds else e.2.2.2.2)) s held

/-! ## General counters -/

/-- Add occurrences to a counter; a wrap sets OVERFLOW (R473). -/
def GeneralCounter.add (c : GeneralCounter) (n : Nat) : GeneralCounter :=
  { c with value := c.value + BitVec.ofNat 48 n, overflow := c.overflow || decide (c.value.toNat + n ≥ 2 ^ 48) }

/-- Does a counter count an occurrence event's instance (R472)? -/
def GeneralCounter.counts (c : GeneralCounter) (event inst : Nat) : Bool :=
  c.enable && c.event.toNat == event && (c.qualifier == 0xFFFF || c.qualifier.toNat == inst || inst == 0xFFFF)

/-- Count on one counter, raising event 1101h at a wrap. -/
def State.bumpOne (s : State) (i n : Nat) : State :=
  let c := Sparse.get {} s.ctr.general i
  let s := s.onCtr fun t => { t with general := Sparse.set {} t.general i (c.add n) }
  if c.value.toNat + n ≥ 2 ^ 48 then
    s.raiseLimited 0x1101 i .informational 0xFFFF (le 1 i ++ le 1 c.event.toNat ++ zeros 4) [(2, 4)] [1] s.lds
  else s

/-- `n` occurrences of an event at an instance (R473). -/
def State.bumps (s : State) (event inst n : Nat) : State :=
  if n = 0 then s
  else foldState (fun s i => if (Sparse.get {} s.ctr.general i).counts event inst then s.bumpOne i n else s) s
    (Sparse.keys s.ctr.general)

/-- One occurrence of an event. -/
def State.bump (s : State) (event inst : Nat) : State := s.bumps event inst 1

/-! ## Costs of the deliverable rate -/

/-- Count the costs of an event (R311). -/
def State.cost (s : State) (bursts encodes decodes : Nat) : State :=
  s.onReg fun r => { r with interval := { r.interval with
    bursts := r.interval.bursts + bursts, encodes := r.interval.encodes + encodes, decodes := r.interval.decodes + decodes } }

/-! ## The random generator -/

/-- The next 32 bytes of the generator (R195): a free value, and the generator moves on. -/
def State.draw (s : State) : List Byte × State :=
  (le 32 (Config.drawn s.flash.draws).toNat, s.onFlash fun f => { f with draws := f.draws + 1 })

/-- A key of 64 bytes, K1 then K2. -/
def State.drawKey (s : State) : List Byte × State :=
  let (a, s) := s.draw
  let (b, s) := s.draw
  (a ++ b, s)

/-! ## Blocks, courses and their owners -/

/-- A block's directory entry. -/
def State.dirOf (s : State) (block : Nat) : DirEntry := Sparse.get {} s.xlat.dir block
/-- Change a directory entry. -/
def State.onDir (s : State) (block : Nat) (f : DirEntry → DirEntry) : State :=
  s.onXlat fun x => { x with dir := Sparse.modify {} x.dir block f }

/-- Is a block bound as a segment of the cascade map (R358)? -/
def State.isSegment (s : State) (block : Nat) : Bool := (Sparse.find s.casc.blocks block).isSome

/-- The logical device that owns a block, if one does (R59, R358). -/
def State.ownerOf (s : State) (block : Nat) : Option LdId :=
  let e := s.dirOf block
  if e.st = .bound ∧ !s.isSegment block then some (if s.host.gfam then 0 else e.owner) else none

/-- The logs that an event of a block goes to (R95): its owner's, or every logical device's. -/
def State.blockLogs (s : State) (block : Nat) : List LdId :=
  match s.ownerOf block with
  | some l => [l]
  | none => s.lds

/-- The key of the poison list that holds a course's lines, and the course's address in it: the owner and its DPA, or
for a segment block (which no logical device's DPA names) list 32 and the local address (notes/assumptions/20.md). -/
def State.poisonHome (s : State) (course : Nat) : Nat × Nat :=
  match s.ownerOf (course / blockCourses) with
  | some l => (l.toNat, (s.dirOf (course / blockCourses)).extent.toNat * blockBytes + course % blockCourses * courseBytes)
  | none => (32, course * courseBytes)

/-- The local course that serves a DPA of a logical device (R58, R59), if a block is bound there. -/
def State.courseOf (s : State) (l : LdId) (dpa : Nat) : Option Nat :=
  let ext := dpa / blockBytes
  match s.xlat.dir.find? fun e =>
      e.2.st == .bound && e.2.extent.toNat == ext && s.ownerOf e.1 == some l with
  | some e => some (e.1 * blockCourses + dpa / courseBytes % blockCourses)
  | none => none

/-! ## Poison lists -/

/-- Does an entry cover a line? -/
def PoisonEntry.covers (e : PoisonEntry) (dpa : Nat) : Bool := decide (e.dpa ≤ dpa) && decide (dpa < e.dpa + 64 * e.len)

/-- Is a line of a list poisoned (R46)? -/
def State.listedAt (s : State) (home : Nat) (dpa : Nat) : Bool := (s.ld home).poison.any (·.covers dpa)

/-- Is a line of a local course listed? -/
def State.lineListed (s : State) (course tile line : Nat) : Bool :=
  let (h, base) := s.poisonHome course
  s.listedAt h (base + 256 * tile + 64 * line)

/-- The listed lines of a tile, as a mask (R115 `listed_lines`). -/
def State.tileListed (s : State) (course tile : Nat) : Nat := maskOf 4 (s.lineListed course tile)

/-- What is left of an entry when `n` lines from `dpa` are taken out. -/
def PoisonEntry.without (e : PoisonEntry) (dpa n : Nat) : List PoisonEntry :=
  let last := dpa + 64 * n
  let stop := e.dpa + 64 * e.len
  if last ≤ e.dpa ∨ stop ≤ dpa then [e]
  else
    (if e.dpa < dpa then [{ e with len := (dpa - e.dpa) / 64 }] else [])
      ++ (if last < stop then [{ e with dpa := last, len := (stop - last) / 64 }] else [])

/-- Take lines off a list. -/
def State.unlist (s : State) (home dpa n : Nat) : State :=
  s.onLd home fun d => { d with poison := d.poison.flatMap (·.without dpa n) }

/-- Put an entry on a list of 8,192; a full list sets the overflow flag and its timestamp (R46). -/
def State.enlist (s : State) (home : Nat) (e : PoisonEntry) : State :=
  if (s.ld home).poison.length < 8192 then s.onLd home fun d => { d with poison := d.poison ++ [e] }
  else s.onLd home fun d => { d with poisonOverflow := some (d.poisonOverflow.getD s.timestamp) }

/-- The maximal runs of set bits below 4: first and length. -/
def maskRuns (m : Nat) : List (Nat × Nat) :=
  (List.range 4).filterMap fun i =>
    if bitAt m i && (i == 0 || !bitAt m (i - 1)) then
      some (i, ((List.range (4 - i)).takeWhile fun k => bitAt m (i + k)).length)
    else none

/-- The list of a tile rewritten to a mask: its lines in maximal runs (R121). -/
def State.setTilePoison (s : State) (course tile mask : Nat) : State :=
  if s.tileListed course tile = mask then s
  else
    let (h, base) := s.poisonHome course
    let s := s.unlist h (base + 256 * tile) 4
    foldState (fun s r => s.enlist h { dpa := base + 256 * tile + 64 * r.1, len := r.2 }) s (maskRuns mask)

/-- Does any line of a course remain listed (R121)? -/
def State.courseListed (s : State) (course : Nat) : Bool :=
  let (h, base) := s.poisonHome course
  (s.ld h).poison.any fun e => decide (e.dpa < base + 4096) && decide (base < e.dpa + 64 * e.len)

/-! ## Contexts -/

/-- A context. -/
def State.ctx (s : State) (c : Nat) : Context := Sparse.get {} s.flash.contexts c
/-- Change a context. -/
def State.onCtx (s : State) (c : Nat) (f : Context → Context) : State :=
  s.onFlash fun x => { x with contexts := Sparse.modify {} x.contexts c f }

/-- Is a context owned by a logical device other than `l` (R208)? Context 0000h is never owned. -/
def State.foreignCtx (s : State) (c : Nat) (l : LdId) : Bool :=
  let x := s.ctx c
  decide (c ≠ 0) && x.owned && x.owner != l

/-- The logs of a context's events (R225): its owner's, or every logical device's. -/
def State.ctxLogs (s : State) (c : Nat) : List LdId :=
  let x := s.ctx c
  if x.owned then [x.owner] else s.lds

/-- The sled ID that course tweaks and global course addresses carry (R57). -/
def State.homeId (s : State) : Nat := s.xlat.homeId.toNat

/-- Strong code available: STRONG_CODE set (R278, R401). -/
def State.strongReady (s : State) : Bool := s.ready rdyStrong && s.spare.strongOk

/-- Groups that have joined. -/
def State.groupJoined (s : State) (g : Nat) : Bool := bitAt s.cap.joined.toNat g

end Sys2Proof.Machine
end

