-- ==== Sys2Proof/Machine/Memory.lean ====
section
/-! DEFINITION. DRAM contents: bytes by address, in canonical form (rising addresses, no entry equal to what an unlisted
address reads as). The byte address of byte i of a slot is slot address × 64 + i (R66, R261). -/

namespace Sys2Proof.Machine

/-- What an unlisted byte reads as (notes/assumptions/3.md). -/
abbrev emptyByte : Byte := 0

/-- The canonical form: addresses strictly rise and no entry is the empty byte. -/
def Memory.wf (m : List Host.Cell) : Bool := Sparse.wf emptyByte m

/-- The byte at an address. -/
def Memory.read (m : List Host.Cell) (a : Nat) : Byte := Sparse.get emptyByte m a

/-- Write one byte. -/
def Memory.write (m : List Host.Cell) (a : Nat) (b : Byte) : List Host.Cell := Sparse.set emptyByte m a b

/-- Write bytes from an address upward. -/
def Memory.writes (m : List Host.Cell) (a : Nat) : List Byte → List Host.Cell
  | [] => m
  | b :: rest => Memory.writes (Memory.write m a b) (a + 1) rest

/-- `n` bytes from an address upward. -/
def Memory.reads (m : List Host.Cell) (a n : Nat) : List Byte := (List.range n).map fun i => Memory.read m (a + i)

/-- The 64 bytes of a slot as the array holds them. -/
def State.slotRaw (s : State) (slot : Nat) : List Byte := Memory.reads s.dram.cells (slot * 64) 64
/-- The place of a data slot's check bytes (R261). -/
def checkAddress (slot : Nat) : Nat := checkSlot slot * 64 + 4 * (slot % 16)
/-- The four check bytes of a slot as the array holds them (R261). -/
def State.checkRaw (s : State) (slot : Nat) : List Byte := Memory.reads s.dram.cells (checkAddress slot) 4

/-- Store a slot and its check bytes in the array: a BL32 write and a masked write (R234). -/
def State.storeSlot (s : State) (slot : Nat) (data check : List Byte) : State :=
  s.onDram fun d => { d with cells := Memory.writes (Memory.writes d.cells (slot * 64) data) (checkAddress slot) check }

end Sys2Proof.Machine
end

