-- ==== Sys2Proof/Machine/TransportOps.lean ====
section
/-! DEFINITION. Sending over the rafter link (spec/10_rafter_link.md): the transport header (R330), sealing (R220, R332),
routes (R361), the send queue of a pair (R335, R338, R339) and the port that carries it (R344). -/

namespace Sys2Proof.Machine

/-! ## The transport header -/

/-- The fields of a transport header (R330). -/
structure Header where
  kind : Nat := 0
  poison : Bool := false
  enables : Bool := false
  keyId : Nat := 0
  hops : Nat := 63
  urgency : Nat := 0
  src : Nat := 0
  dst : Nat := 0
  fabric : Bool := false
  ackValid : Bool := false
  creditValid : Bool := false
  rid : Nat := 0
  seq : Nat := 0
  ack : Nat := 0
  credit : Nat := 0
  ctx : Nat := 0
  line : Nat := 0
  len : Nat := 0
  deriving DecidableEq, Repr, Inhabited

/-- Bytes 0 to 29 of a header (R330). -/
def Header.front (h : Header) : List Byte :=
  le 1 (h.kind * 16 + b2n h.poison * 8 + b2n h.enables * 4) ++ le 1 (h.keyId * 64 + h.hops)
    ++ le 2 (h.urgency * 2 ^ 14 + h.src) ++ le 2 h.dst
    ++ le 2 (b2n h.fabric * 2 ^ 15 + b2n h.ackValid * 2 ^ 14 + b2n h.creditValid * 2 ^ 13 + h.rid)
    ++ le 4 h.seq ++ le 4 h.ack ++ le 4 h.credit ++ le 2 h.ctx ++ le 6 h.line ++ le 1 h.len ++ [0]

/-- A header as 32 bytes, with its header check (R330). -/
def Header.toBytes (h : Header) : List Byte := h.front ++ le 2 (Crypto.crc16 h.front).toNat

/-- The fields of 32 header bytes (R330). -/
def Header.ofBytes (b : List Byte) : Header :=
  let n (o l : Nat) := fieldLe b o l
  { kind := bits (n 0 1) 7 4, poison := bitAt (n 0 1) 3, enables := bitAt (n 0 1) 2,
    keyId := bits (n 1 1) 7 6, hops := bits (n 1 1) 5 0, urgency := bits (n 2 2) 15 14, src := bits (n 2 2) 9 0,
    dst := bits (n 4 2) 9 0, fabric := bitAt (n 6 2) 15, ackValid := bitAt (n 6 2) 14, creditValid := bitAt (n 6 2) 13,
    rid := bits (n 6 2) 11 0, seq := n 8 4, ack := n 12 4, credit := n 16 4, ctx := bits (n 20 2) 12 0,
    line := bits (n 22 6) 45 0, len := n 28 1 }

/-- Does the header check of 32 bytes hold (R330)? -/
def headerOk (b : List Byte) : Bool := fieldLe b 30 2 == (Crypto.crc16 (slice b 0 30)).toNat

/-- The additional authenticated data: the header with hops left and the header check taken as 0 (R332). -/
def headerAad (b : List Byte) : List Byte :=
  splice (splice (slice b 0 32) 1 [BitVec.ofNat 8 (setBits (fieldLe b 1 1) 5 0 0)]) 30 [0, 0]

/-- The IV of R220, most significant byte first (notes/assumptions/21.md). -/
def packetIv (src dst keyId wrap seq : Nat) : List Byte :=
  be 12 (src * 2 ^ 86 + dst * 2 ^ 76 + keyId * 2 ^ 74 + wrap * 2 ^ 32 + seq)

/-- The wrap count field of R332. -/
def wrapField (unsequenced : Bool) (epoch wraps : Nat) : Nat :=
  b2n unsequenced * 2 ^ 41 + epoch * 2 ^ 20 + wraps % 2 ^ 20

/-- A link key (R222). -/
def State.linkKey (s : State) (k : Nat) : List Byte := Sparse.get [] s.flash.linkKeys k

/-- The payload of a packet sealed behind its header (R332). -/
def State.seal (s : State) (h : Header) (unsequenced : Bool) (wraps : Nat) (payload : List Byte) : List Byte :=
  let b := h.toBytes
  b ++ Crypto.gcmSeal (s.linkKey h.keyId) (packetIv h.src h.dst h.keyId (wrapField unsequenced s.link.epoch.toNat wraps) h.seq)
    (headerAad b) payload

/-! ## Routes and ports -/

/-- A rafter port. -/
def State.rport (s : State) (p : Nat) : RafterLink := Sparse.get {} s.link.ports p
/-- Change a rafter port. -/
def State.onRport (s : State) (p : Nat) (f : RafterLink → RafterLink) : State :=
  s.onLink fun l => { l with ports := Sparse.modify {} l.ports p f }
/-- Is a hop up? -/
def State.hopUp (s : State) (p : Nat) : Bool := (s.rport p).phase == .up

/-- The route entry of a sled (R361). -/
def State.route (s : State) (d : Nat) : Nat := (Sparse.get 0 s.casc.map.routes d).toNat
/-- R361 [15:14]. -/
def routePrimary (r : Nat) : Nat := bits r 15 14
/-- R361 [13:12]. -/
def routeAlternate (r : Nat) : Nat := bits r 13 12
/-- R361 [5:0]. -/
def routeHops (r : Nat) : Nat := bits r 5 0

/-- The port of a forwarded packet: the primary when its hop is up, else the alternate when that is, else the primary's
queue (R326). -/
def State.forwardPort (s : State) (d : Nat) : Nat :=
  let r := s.route d
  if s.hopUp (routePrimary r) then routePrimary r
  else if s.hopUp (routeAlternate r) then routeAlternate r
  else routePrimary r

/-- A peer of the transport. -/
def State.peer (s : State) (d : Nat) : Peer := Sparse.get {} s.link.peers d
/-- Change a peer. -/
def State.onPeer (s : State) (d : Nat) (f : Peer → Peer) : State :=
  s.onLink fun l => { l with peers := Sparse.modify {} l.peers d f }

/-- The port that a pair uses (R344). -/
def State.pairPort (s : State) (d : Nat) : Nat :=
  if (s.peer d).viaAlternate then routeAlternate (s.route d) else routePrimary (s.route d)

/-- The sled's own ID (R350). -/
def State.me (s : State) : Nat := s.casc.sledId.toNat

/-! ## Sending -/

/-- The ack fields of a header to a peer: E − 1 of the reverse pair where the receiver has state (R337). -/
def State.withAck (s : State) (d : Nat) (h : Header) : Header :=
  let p := s.peer d
  if p.hasRecv then { h with ackValid := true, ack := (p.expect + 2 ^ 32 - 1) % 2 ^ 32 } else h

/-- Put a packet in the sled's own transmit queue of the pair's port. -/
def State.transmit (s : State) (d : Nat) (packet : List Byte) : State :=
  s.onRport (s.pairPort d) fun p => { p with own := p.own ++ [packet] }

/-- Send an unsequenced packet (ack or pair sync): its counter advances (R332). Acks go first at the port (R329). -/
def State.sendUnsequenced (s : State) (d kind : Nat) (payload : List Byte) : State :=
  let p := s.peer d
  let h := s.withAck d { kind, keyId := s.flash.linkId.toNat, src := s.me, dst := d, seq := p.unseq, len := payload.length / 16 }
  let packet := s.seal h true p.unseqWraps payload
  let s := s.onPeer d fun p =>
    { p with unseq := (p.unseq + 1) % 2 ^ 32, unseqWraps := p.unseqWraps + (p.unseq + 1) / 2 ^ 32, ackDue := false }
  let s := s.onLink fun l =>
    { l with sealedCount := l.sealedCount + 1,
             epochPending := l.epochPending || (decide (p.unseq + 1 = 2 ^ 32) && decide (p.unseqWraps + 1 = 2 ^ 20)) }
  if kind = 5 then s.onRport (s.pairPort d) fun p => { p with acks := p.acks ++ [packet] } else s.transmit d packet

/-- The payload of a pair sync packet (R342): flags announce 1, confirm 2, request 4. -/
def syncPayload (epoch first flags : Nat) : List Byte := le 4 epoch ++ le 4 first ++ le 1 flags ++ zeros 7

/-- The lowest unretired sequence of a pair, or the first it will send (C281h, R342). -/
def Peer.lowest (p : Peer) : Nat :=
  match p.held.find? (·.sent) with
  | some h => h.seq
  | none => p.nextSeq

/-- Announce the pair to its destination (R342). An unreachable pair stays so until the sync completes (R343). -/
def State.announce (s : State) (d : Nat) : State :=
  let s := s.onPeer d fun p => { p with st := if p.st = .unreachable then .unreachable else .syncing }
  s.sendUnsequenced d 7 (syncPayload s.link.epoch.toNat (s.peer d).lowest 1)

/-- Send the first time an entry of the pair's send queue: it takes the next sequence, and a request a credit (R335,
R338). The last sequence before the wrap count would reach 2^20 starts an epoch change (R335). -/
def State.sendEntry (s : State) (d : Nat) (h : Held) : State × Held :=
  let p := s.peer d
  let hd := s.withAck d { Header.ofBytes h.head with seq := p.nextSeq, keyId := s.flash.linkId.toNat }
  let packet := s.seal hd false p.wraps h.payload
  let last := p.nextSeq + 1 = 2 ^ 32
  let s := s.onPeer d fun p =>
    { p with nextSeq := (p.nextSeq + 1) % 2 ^ 32, wraps := if last then p.wraps + 1 else p.wraps,
             taken := if h.credit then p.taken + 1 else p.taken, ackDue := false }
  let s := s.onLink fun l =>
    { l with sealedCount := l.sealedCount + 1, epochPending := l.epochPending || (last && decide (p.wraps + 1 = 2 ^ 20)) }
  (s.transmit d packet, { h with seq := p.nextSeq, packet, sent := true })

/-- The entries of a pair that may go now, in order: with the pair live, no epoch change pending and no return to the primary
hop awaited, every response, and requests while credits last (R335, R338, R342, R344). -/
def State.sendHeld (s : State) (d : Nat) : List Held → State × List Held
  | [] => (s, [])
  | h :: rest =>
    let p := s.peer d
    if h.sent || p.st != .live || p.returning || s.link.epochPending || (h.credit && decide (s.link.credits ≤ p.taken)) then
      let (s, rest) := s.sendHeld d rest
      (s, h :: rest)
    else
      let (s, h) := s.sendEntry d h
      let (s, rest) := s.sendHeld d rest
      (s, h :: rest)

/-- Send what the pair's queue allows. -/
def State.pump (s : State) (d : Nat) : State :=
  let held := (s.peer d).held
  let (s, held) := s.sendHeld d held
  s.onPeer d fun p => { p with held }

/-- Bytes of the replay buffer that lie in the gutter's replay part (R328, R339): what exceeds the 4 MiB of the replay
banks' share is not modelled apart; the account counts held packets. -/
def State.replayBytes (s : State) : Nat :=
  (s.link.peers.map fun p => (p.2.held.map fun h => 48 + h.payload.length).sum).sum

/-- Is the replay part of the gutter, 256 MiB, full (R340)? -/
def State.replayFull (s : State) : Bool := decide (256 * 2 ^ 20 ≤ s.replayBytes)

/-- Enter a sequenced packet into the pair's send queue; a pair with no state announces first (R339, R342). -/
def State.enqueueSend (s : State) (d : Nat) (h : Header) (payload : List Byte) (credit : Bool) (what : SentFor) : State :=
  let h := { h with src := s.me, dst := d, len := payload.length / 16 }
  let s := s.onPeer d fun p => { p with held := p.held ++ [{ head := h.toBytes, payload, credit, what }] }
  let s := if (s.peer d).st = .none then s.announce d else s
  s.pump d

end Sys2Proof.Machine
end

