-- ==== Sys2Proof/Machine/Answers.lean ====
section
/-! DEFINITION. How a request ends: its response or completion, DevLoad (R291), its trace record (R477), its place among
the issued requests (R294), and for a request of the rafter link its response packet (R336, R338, R362). -/

namespace Sys2Proof.Machine

/-! ## Request store and bandwidth -/

/-- Entries of the request store in use (R291). -/
def State.storeUsed (s : State) : Nat := s.reg.usedHp0 + s.reg.usedHp1 + s.reg.usedRafter
/-- Shared entries in use: what each port holds beyond its reservation of 2,048 (R291). -/
def State.sharedUsed (s : State) : Nat :=
  (s.reg.usedHp0 - 2048) + (s.reg.usedHp1 - 2048) + (s.reg.usedRafter - 2048)
/-- Can a source with `used` entries take one more (R291)? -/
def State.storeRoom (s : State) (used : Nat) : Bool := decide (used < 2048) || decide (s.sharedUsed < 10240)

/-- Is a host port withholding credits under R291? -/
def State.withholding (s : State) (p : HostPort) : Bool :=
  match p with
  | .hp0 => s.reg.withheldSince0.isSome
  | .hp1 => s.reg.withheldSince1.isSome

/-- DevLoad by occupancy (R291): 0 light, 1 optimal, 2 moderate, 3 severe. -/
def State.devLoad (s : State) (p : HostPort) : Nat :=
  if s.withholding p ∨ 12288 ≤ s.storeUsed then 3
  else if 8192 ≤ s.storeUsed then 2
  else if 4096 ≤ s.storeUsed then 1
  else 0

/-- Count bytes in or out of port block `q` (R469, R470). -/
def State.countBytes (s : State) (q inn out : Nat) : State :=
  s.onCtr fun c => { c with ports := Sparse.modify {} c.ports q fun b => { b with inNow := b.inNow + inn, outNow := b.outNow + out } }

/-! ## Trace of requests -/

/-- Set a bit of byte 23 of a request's trace record: 0-1 tier, 2 hit, 3 group woken, 4 poison, 5 remote, 6 first touch,
7 watermark stall (R477). -/
def Request.flag (r : Request) (i : Nat) : Request := { r with flags := r.flags ||| BitVec.ofNat 8 (2 ^ i) }

/-- Subtype of a request record (R477). -/
def Request.subtype (r : Request) : Nat :=
  match r.kind with
  | .read => 1 | .write => 2 | .partialWrite => 3

/-- Does a request pass the filter of Set Trace Policy? -/
def State.traceFilter (s : State) (r : Request) : Bool :=
  (s.ctr.filterRid == 0xFFFF || s.ctr.filterRid.toNat == r.rid.toNat)
    && (s.ctr.filterClass == 0xFF || s.ctr.filterClass.toNat == r.cls.toNat)

/-- The trace record of a finished request: one in 2^k of those that pass the filter (R476, R477). -/
def State.traceRequest (s : State) (r : Request) : State :=
  if !s.traceOn 1 || !s.traceFilter r then s
  else
    let n := s.ctr.sampled
    let s := s.onCtr fun c => { c with sampled := c.sampled + 1 }
    if n % 2 ^ s.ctr.sample.toNat ≠ 0 then s
    else
      s.trace 1 r.subtype r.rid.toNat r.ctx.toNat
        (le 4 (if r.remote then 0xFFFFFFFF else r.course) ++ le 1 r.line ++ [r.flags] ++ le 1 r.chan ++ le 1 r.cls.toNat
          ++ le 4 (nsOf (s.clock - r.arrived)) ++ [0, 0])

/-! ## The issued requests -/

/-- Is the response of an issued request to be discarded (R43)? -/
def State.discarded (s : State) (id : Nat) : Bool := s.reg.inFlight.any fun x => x.1 == id && x.2.2

/-- An issued request is in flight no longer (R294); one of a draining device counts as finished (R44). -/
def State.landed (s : State) (r : Request) : State :=
  let gone := s.discarded r.id
  let s := s.onReg fun g => { g with inFlight := g.inFlight.filter fun x => x.1 != r.id }
  if gone then
    s.onLd r.ld.toNat fun d => { d with drain := d.drain.map fun x => { x with finished := x.finished + 1 } }
  else s

/-- The state of a sequence in a peer's window (R336); every sequence starts closed. -/
def Peer.seqState (p : Peer) (n : Nat) : SeqState := Sparse.get .closed p.window n
/-- Change the state of a sequence. -/
def Peer.setSeq (p : Peer) (n : Nat) (x : SeqState) : Peer := { p with window := Sparse.set .closed p.window n x }

/-- The header of a response to a request of the rafter link: its credit names the request (R338). -/
def responseHeader (kind : Nat) (poison : Bool) (r : Request) (seq : Nat) : Header :=
  { kind, poison, creditValid := true, credit := seq, rid := r.rid.toNat, ctx := r.ctx.toNat }

/-- Send the response of a request of the rafter link; its sequence becomes held (R336). -/
def State.respond (s : State) (peer seq kind : Nat) (poison : Bool) (r : Request) (payload : List Byte) : State :=
  let h := responseHeader kind poison r seq
  let s := s.onPeer peer fun p => p.setSeq seq .held
  s.enqueueSend peer h payload false (.response seq)

/-- The mirrored range that this sled leads and a local block belongs to, with its healthy follower's segment (R362):
range index, range, segment. A block above the re-silver watermark is not copied (R365). -/
def State.leads (s : State) (block offset : Nat) : Option (Nat × Range × Segment) :=
  match Sparse.find s.casc.blocks block with
  | none => none
  | some i =>
    let r := Sparse.get {} s.casc.map.ranges i
    let lead := if r.leadIsOne then 1 else 0
    let l := Sparse.get {} s.casc.map.segments (r.first + lead)
    let f := Sparse.get {} s.casc.map.segments (r.first + (1 - lead))
    if r.kind == .mirrored && l.sled == s.casc.sledId && !f.lost && (!r.degraded || r.resilvering)
        && (!r.resilvering || decide ((block - l.base.toNat) * blockCourses + offset < r.watermark)) then some (i, r, f)
    else none

/-- The follower's line address of a line of a led block (R362). -/
def followerLine (s : State) (i : Nat) (f : Segment) (block offset line : Nat) : Nat :=
  let r := Sparse.get {} s.casc.map.ranges i
  let lead := if r.leadIsOne then 1 else 0
  let l := Sparse.get {} s.casc.map.segments (r.first + lead)
  let k := (block - l.base.toNat) * blockCourses + offset
  (f.sled.toNat * 2 ^ 30 + f.base.toNat * blockCourses + k) * 64 + line

/-- The payload of a mirror copy (R362): a mailbox header of class 10h, then the fields in the order R362 gives
(notes/assumptions/22.md). Flags: 1 byte enables, 2 the course is absent (R365). -/
def mirrorPayload (origin originSeq line ctx flags : Nat) (enables : Nat) (data : List Byte) : List Byte :=
  [0x10, 3] ++ le 2 0 ++ le 2 origin ++ le 2 0 ++ le 2 0 ++ le 2 96 ++ zeros 4
    ++ le 4 originSeq ++ le 6 line ++ le 2 ctx ++ le 1 flags ++ zeros 3 ++ slice data 0 64 ++ le 8 enables ++ zeros 8

/-- Send a mirror copy of an executed write to the follower; the origin's credit waits for the follower's (R362). -/
def State.mirror (s : State) (i : Nat) (f : Segment) (r : Request) (origin originSeq : Nat) : State :=
  let line := followerLine s i f (r.course / blockCourses) (r.course % blockCourses) r.line
  let part := r.kind == .partialWrite
  let d := f.sled.toNat
  let n := s.reg.nextId
  let s := s.onReg fun g => { g with nextId := g.nextId + 1 }
  let s := s.onCasc fun c => { c with mirrors := c.mirrors ++
    [{ range := i, follower := f.sled, copySeq := n, origin := BitVec.ofNat 10 origin, originSeq,
       response := (responseHeader 4 false r originSeq).toBytes }] }
  s.enqueueSend d { kind := 6, ctx := r.ctx.toNat } 
    (mirrorPayload origin originSeq line r.ctx.toNat (b2n part) (if part then r.enables.toNat else 0) r.data) true (.mirror n)

/-! ## Responses and completions -/

/-- Answer a read: data with its poison bit (R46), or the response packet (R331). -/
def State.answer (s : State) (r : Request) (data : List Byte) (poison : Bool) : State :=
  let r := if poison then r.flag 4 else r
  let bytes := if poison then zeros 64 else data
  let gone := s.discarded r.id
  let s := s.landed r
  let s := s.traceRequest r
  match r.origin with
  | .host p tag =>
    if gone then s
    else (s.countBytes (portNat p) 0 64).emit (.data p tag bytes poison (s.devLoad p))
  | .sled => s
  | .rafter peer seq _ => s.respond peer.toNat seq.toNat 3 poison r bytes

/-- Complete a write (R113, R209, R234, R340); a write of the rafter link to a range that this sled leads answers when the
follower's copy has executed (R362). A write whose packet failed its tag completes poisoned (R223) and is not copied. -/
def State.complete (s : State) (r : Request) (bad : Bool) : State :=
  let poison := bad || r.poisoned
  let gone := s.discarded r.id
  let s := s.landed r
  let s := s.traceRequest r
  match r.origin with
  | .host p tag => if gone then s else s.emit (.done p tag (s.devLoad p))
  | .sled => s
  | .rafter peer seq _ =>
    match if poison then none else s.leads (r.course / blockCourses) (r.course % blockCourses) with
    | some (i, _, f) => s.mirror i f r peer.toNat seq.toNat
    | none => s.respond peer.toNat seq.toNat 4 poison r []

/-- The follower has executed a copy, or the range has lost it (R362, R364): the origin's response goes. -/
def State.settleMirror (s : State) (n : Nat) : State :=
  match s.casc.mirrors.find? fun m => m.copySeq == n with
  | none => s
  | some m =>
    let s := s.onCasc fun c => { c with mirrors := c.mirrors.filter fun m => m.copySeq != n }
    if m.origin = s.casc.sledId then s
    else
      let s := s.onPeer m.origin.toNat fun p => p.setSeq m.originSeq .held
      s.enqueueSend m.origin.toNat (Header.ofBytes m.response) [] false (.response m.originSeq)

/-- Complete a write of this sled's own host to a range that it leads: the host's completion does not wait, the copy goes
to the follower (R340, R362). -/
def State.completeHost (s : State) (r : Request) : State :=
  let s := s.complete r false
  match r.origin, s.leads (r.course / blockCourses) (r.course % blockCourses) with
  | .rafter _ _ _, _ => s
  | _, some (i, _, f) =>
    let n := s.casc.ownSeq
    (s.onCasc fun c => { c with ownSeq := (c.ownSeq + 1) % 2 ^ 32 }).mirror i f r s.me n
  | _, _ => s

/-- Several reads answered from one tile's plaintext: each line, poison where the mask has its bit. -/
def State.answerAll (s : State) (reads : List Request) (tile : List Byte) (bad : Nat) : State :=
  foldState (fun s r => s.answer r (slice tile (64 * (r.line % 4)) 64) (bitAt bad (r.line % 4))) s reads

end Sys2Proof.Machine
end

