-- ==== Sys2Proof/Machine/AllocOps.lean ====
section
/-! DEFINITION. The slot allocator (spec/02_battens_and_tiers.md R81 to R87, R522), physical pressure
(spec/04_thatching_and_placement.md R156 to R160), release requests (spec/01_host_view.md R37, R38), charges against the
spare reserve (spec/08_codes_scrub_sparing.md R285). -/

namespace Sys2Proof.Machine

/-! ## Channels and groups -/

/-- A channel. -/
def State.channel (s : State) (ch : Nat) : Channel := Sparse.get {} s.dram.channels ch
/-- Change a channel. -/
def State.onChannel (s : State) (ch : Nat) (f : Channel → Channel) : State :=
  s.onDram fun d => { d with channels := Sparse.modify {} d.channels ch f }
/-- A group. -/
def State.group (s : State) (g : Nat) : Group := Sparse.get {} s.dram.groups g
/-- Change a group. -/
def State.onGroup (s : State) (g : Nat) (f : Group → Group) : State :=
  s.onDram fun d => { d with groups := Sparse.modify {} d.groups g f }

/-- Groups joined (R33). -/
def State.joinedCount (s : State) : Nat := popcount 16 s.cap.joined.toNat

/-- Is a channel retired: its own entry, or both ranks (R280)? -/
def State.chRetired (s : State) (ch : Nat) : Bool := Sparse.get false s.spare.channels ch
/-- Is a rank retired, or its channel (R280)? -/
def State.rankRetired (s : State) (ch rank : Nat) : Bool := Sparse.get false s.spare.ranks (ch * 2 + rank)
/-- Does a slot lie in a fenced row or on a retired rank (R282)? -/
def State.slotFenced (s : State) (a : Nat) : Bool :=
  s.rankRetired (slotChannel a) (slotRank a) || Sparse.get false s.spare.fencedRows (slotRowKey s.dram.masks a)
/-- Does the allocator use a channel: of a joined group, trained, not fenced, in service, not retired (R82, R250, R282)? -/
def State.channelServes (s : State) (ch : Nat) : Bool :=
  let c := s.channel ch
  s.groupJoined (ch / 8) && c.trained && !c.fenced && !c.outOfService && !s.chRetired ch

/-! ## Laths -/

/-- A lath. -/
def State.lath (s : State) (ch l : Nat) : Lath := Sparse.get {} s.alloc.laths (lathKey ch l)
/-- Change a lath. -/
def State.onLath (s : State) (key : Nat) (f : Lath → Lath) : State :=
  s.onAlloc fun a => { a with laths := Sparse.modify {} a.laths key f }
/-- Laths of a channel that are not empty. -/
def State.usedLaths (s : State) (ch : Nat) : Nat :=
  (s.alloc.laths.filter fun e => e.1 / 16384 == ch && e.2.st != .empty).length
/-- Empty laths of a channel. -/
def State.emptyLaths (s : State) (ch : Nat) : Nat := s.laths - s.usedLaths ch

/-- The first number from `i` on, of at most `fuel`, that `p` accepts. -/
def firstFrom (p : Nat → Bool) : Nat → Nat → Option Nat
  | 0, _ => none
  | fuel + 1, i => if p i then some i else firstFrom p fuel (i + 1)

/-- Where `n` free places in a row start, from place `i` on, when `bad` marks the places that must not be used and
`start` is where the present row of good places began (R282). -/
def fitFrom (bad : Nat → Bool) (n : Nat) : Nat → Nat → Nat → Option Nat
  | 0, i, start => if i - start ≥ n then some start else none
  | fuel + 1, i, start =>
    if i - start ≥ n then some start
    else if bad i then fitFrom bad n fuel (i + 1) (i + 1)
    else fitFrom bad n fuel (i + 1) start

/-- Does a channel hold any storage that R282 keeps runs off? -/
def State.anyFence (s : State) (ch : Nat) : Bool :=
  s.spare.ranks.any (fun e => e.1 / 2 == ch) || s.spare.fencedRows.any (fun e => e.1 / 2 ^ 23 == ch)

/-- The data index where a light-coded run of `n` slots goes in a lath filled to `fill` (R67, R81, R282). -/
def State.lightFit (s : State) (ch l n fill : Nat) : Option Nat :=
  if s.anyFence ch then
    fitFrom (fun i => s.slotFenced (slotAddress ch l (lathSlot i))) n (lathData - fill) fill fill
  else if fill + n ≤ lathData then some fill else none

/-- The first slot of data member 0 of an anchor's set in lath `l` (R262, R83). -/
def anchorBase (anchor l : Nat) : Nat := slotAddress anchor l 0
/-- The ten member channels of an anchor and a lath number (R262). -/
def anchorMembers (anchor l : Nat) : List Nat := (List.range 10).map (memberChannel (anchorBase anchor l))

/-- The stripe index where a strong-coded run of `n` stripes goes in an anchor's set (R83, R263). -/
def State.strongFit (s : State) (anchor l n fill : Nat) : Option Nat :=
  let ms := anchorMembers anchor l
  if ms.any s.anyFence then
    fitFrom (fun i => ms.any fun ch => s.slotFenced (slotAddress ch l (lathSlot i))) n (lathData - fill) fill fill
  else if fill + n ≤ lathData then some fill else none

/-- Is a group asleep (R82, R252)? -/
def State.groupAsleep (s : State) (g : Nat) : Bool := (s.group g).st == .poweredDown

/-- Does the allocator hold back a channel of a sleeping group: some awake joined group still has 2 empty laths per
channel (R82)? -/
def State.sleepSkip (s : State) (ch : Nat) : Bool :=
  s.groupAsleep (ch / 8) &&
    (List.range 16).any fun g =>
      s.groupJoined g && !s.groupAsleep g &&
        let chs := (List.range 8).map (fun i => 8 * g + i) |>.filter s.channelServes
        decide (2 * chs.length ≤ (chs.map s.emptyLaths).sum) && !chs.isEmpty

/-- The channels, in turn after `last`. -/
def inTurn (last : Nat) : List Nat := (List.range 128).map fun i => (last + 1 + i) % 128

/-- Slots placed in a lath: it opens or stays open, its live count and fill rise. -/
def Lath.take (x : Lath) (n i : Nat) : Lath := { x with st := .opened, live := x.live + n, fill := i + n }
/-- A lath closed. -/
def Lath.close (x : Lath) : Lath := { x with st := .closed }

/-- Does the group's thermal stage, D1 or above, keep laths from being opened on a channel (R514)? -/
def State.noOpen (s : State) (ch : Nat) : Bool := decide (1 ≤ Sparse.get 0 s.therm.dram (ch / 8))

/-- The lowest empty lath of a channel that holds `n` slots, and where (R242, R282). -/
def State.openFor (s : State) (ch n : Nat) : Option (Nat × Nat) :=
  if s.noOpen ch then none
  else match firstFrom (fun l => (s.lath ch l).st == .empty && (s.lightFit ch l n 0).isSome) s.laths 0 with
  | some l => (s.lightFit ch l n 0).map fun i => (l, i)
  | none => none

/-- The place a channel has for a light-coded run: its open lath, or an empty one (R81): lath, index, whether new. -/
def State.lightPlace (s : State) (ch n : Nat) : Option (Nat × Nat × Bool) :=
  let inOpen := match Sparse.find s.alloc.openLath ch with
    | some l => (s.lightFit ch l n (s.lath ch l).fill).map fun i => (l, i)
    | none => none
  match inOpen with
  | some (l, i) => some (l, i, false)
  | none => (s.openFor ch n).map fun x => (x.1, x.2, true)

/-- A closed lath with no live slot is empty at once while compaction runs on its channel, whose empty laths are below
the low mark (R85). -/
def State.reap (s : State) (ch : Nat) : State :=
  if s.emptyLaths ch < s.alloc.lowMark then
    s.onAlloc fun a => { a with laths := a.laths.filter fun e => !(e.1 / 16384 == ch && e.2.st == .closed && e.2.live == 0) }
  else s

/-- Place a light-coded run on a channel. -/
def State.placeLight (s : State) (ch n : Nat) (x : Nat × Nat × Bool) : Run × State :=
  let (l, i, isNew) := x
  let s := if isNew then
      let s := match Sparse.find s.alloc.openLath ch with
        | some old => s.onLath (lathKey ch old) Lath.close
        | none => s
      s.onAlloc fun a => { a with openLath := Sparse.insert a.openLath ch l }
    else s
  let s := s.onLath (lathKey ch l) fun x => x.take n i
  let s := s.onAlloc fun a => { a with lastChannel := ch }
  ({ base := slotAddress ch l (lathSlot i), len := n, strong := false }, if isNew then s.reap ch else s)

/-- The channels that may take a light-coded run now, in turn (R82, R87). -/
def State.lightChannels (s : State) : List Nat :=
  (inTurn s.alloc.lastChannel).filter fun ch => s.channelServes ch && !s.sleepSkip ch

/-- A light-coded run of `n` data slots, or none where no channel holds it (R82, R522). -/
def State.allocLight (s : State) (n : Nat) : Option (Run × State) :=
  match (s.lightChannels.find? fun ch => (s.lightPlace ch n).isSome).bind fun ch => (s.lightPlace ch n).map fun x => (ch, x) with
  | some (ch, x) => some (s.placeLight ch n x)
  | none => none

/-! ## Stripe lath sets -/

/-- Close an anchor's open set (R83). -/
def State.closeSet (s : State) (anchor : Nat) : State :=
  match Sparse.find s.alloc.openSet anchor with
  | none => s
  | some l =>
    let s := foldState (fun s ch => s.onLath (lathKey ch l) Lath.close) s (anchorMembers anchor l)
    s.onAlloc fun a => { a with openSet := Sparse.erase a.openSet anchor }

/-- Can lath `l` form a set for an anchor (R83)? -/
def State.setQualifies (s : State) (anchor l n : Nat) : Bool :=
  let h := stripeGroup l
  h != anchor / 8 && s.groupJoined h
    && (anchorMembers anchor l).all (fun ch => s.channelServes ch && !s.noOpen ch && (s.lath ch l).st == .empty)
    && (s.strongFit anchor l n 0).isSome

/-- The set and index where an anchor places a run of `n` stripes; its open set is closed when it cannot hold the run. -/
def State.anchorPlace (s : State) (anchor n : Nat) : State × Option (Nat × Nat) :=
  let inOpen := match Sparse.find s.alloc.openSet anchor with
    | some l => (s.strongFit anchor l n (s.lath anchor l).fill).map fun i => (l, i)
    | none => none
  match inOpen with
  | some x => (s, some x)
  | none =>
    let s := s.closeSet anchor
    match firstFrom (fun l => s.setQualifies anchor l n) s.laths 0 with
    | none => (s, none)
    | some l =>
      let s := s.onAlloc fun a => { a with openSet := Sparse.insert a.openSet anchor l }
      (s, (s.strongFit anchor l n 0).map fun i => (l, i))

/-- The first anchor of a list that places the run. -/
def State.anchorsPlace (s : State) (n : Nat) : List Nat → State × Option (Nat × Nat × Nat)
  | [] => (s, none)
  | a :: rest =>
    let (s, x) := s.anchorPlace a n
    match x with
    | some (l, i) => (s, some (a, l, i))
    | none => s.anchorsPlace n rest

/-- A strong-coded run of `len` data slots; none, with event 0204h, where no anchor holds it (R83). -/
def State.allocStrong (s : State) (len : Nat) : State × Option Run :=
  let n := ceilDiv len 8
  let anchors := (inTurn s.alloc.lastAnchor).filter fun ch => s.channelServes ch && !s.sleepSkip ch
  let (s, x) := s.anchorsPlace n anchors
  match x with
  | none => (s.raiseLimited 0x0204 255 .warning 0xFFFF (le 1 255 ++ le 2 0) [] [] s.lds, none)
  | some (a, l, i) =>
    let ms := anchorMembers a l
    let s := foldState (fun s ch => s.onLath (lathKey ch l) fun x => x.take n i) s ms
    let s := s.onAlloc fun x => { x with lastAnchor := a }
    (foldState State.reap s ms, some { base := slotAddress a l (lathSlot i), len, strong := true })

/-- Can a stripe lath set hold a run of one stripe (the condition of R153's code row)? -/
def State.canStripe (s : State) : Bool :=
  let anchors := (inTurn s.alloc.lastAnchor).filter fun ch => s.channelServes ch && !s.sleepSkip ch
  (s.anchorsPlace 1 anchors).2.isSome

/-! ## Slots in use and free -/

/-- Data slots that the allocator holds for the lath table (R84): 2 B a lath; with their stripe check slots once two
groups have joined. -/
def State.heldSlots (s : State) : Nat :=
  let data := ceilDiv (2 * 128 * s.laths) 64
  if s.joinedCount = 0 then 0 else if s.joinedCount < 2 then data else ceilDiv data 8 * 10

/-- Job histories held beyond the 248 records that the SRAM holds beside the four engines (R145): 256 + 16,384 B each. -/
def State.spillSlots (s : State) : Nat :=
  ((s.place.jobs.filter fun j => j.2.historyValid).length - 248) * 260

/-- Blocks that have a table run (R72): all but the unassigned. -/
def State.tableBlocks (s : State) : Nat := (s.xlat.dir.filter fun e => e.2.st != .unassigned).length

/-- Physical slots in use (R156): live slots and closed remainders of every lath, the allocator-held slots, less the data
slots of the table runs, which the batten table reserve of R30 holds. -/
def State.inUse (s : State) : Nat :=
  (s.alloc.laths.map fun e => e.2.live + (if e.2.st = .closed then lathData - e.2.fill else 0)).sum
    + s.heldSlots + s.spillSlots - 16384 * s.tableBlocks

/-- Data slots of retired and fenced storage: retired channels (those fenced at training too), retired ranks of other
channels, fenced rows elsewhere (R285). -/
def State.storageCharges (s : State) : Nat :=
  let gone := (List.range 128).filter fun ch => s.chRetired ch || (s.channel ch).fenced
  let ranks := s.spare.ranks.filter fun e => !gone.contains (e.1 / 2)
  let rows := s.spare.fencedRows.filter fun e => !gone.contains (e.1 / 2 ^ 23) && !s.rankRetired (e.1 / 2 ^ 23) (e.1 / 2 ^ 22 % 2)
  gone.length * (s.laths * lathData) + ranks.length * (s.laths * lathData / 2) + rows.length * 30

/-- Slots that writes draw on the reserve (R160): what is in use beyond the usable capacity. -/
def State.drawn (s : State) : Nat := s.inUse - s.usableSlots
/-- The charges against the spare reserve, in data slots (R285). -/
def State.charges (s : State) : Nat := s.storageCharges + s.drawn
/-- The spare reserve in data slots. -/
def State.reserveSlots (s : State) : Nat := s.reserveMiB * 16384
/-- The reserve in hand (R285). -/
def State.inHand (s : State) : Nat := s.reserveSlots - s.charges
/-- The overshoot (R285). -/
def State.overshoot (s : State) : Nat := s.charges - s.reserveSlots

/-- The capacity that the pressure stages use (R405). -/
def State.pressureCapacity (s : State) : Nat :=
  if s.ready rdySettled then s.usableSlots else s.usableSlots * s.joinedCount / 16

/-- F of R156, in slots. -/
def State.free (s : State) : Nat := s.pressureCapacity - (s.inUse + s.overshoot)

/-- Event 080Ah when the reserve in hand falls to 25 %, 10 % and 0 (R285); `reserveMark` counts the marks not reached:
4 above 25 %, 3, 2, and 1 at 0. -/
def State.checkReserve (s : State) : State :=
  let h := s.inHand
  let r := s.reserveSlots
  let m := if h = 0 then 1 else if 10 * h ≤ r then 2 else if 4 * h ≤ r then 3 else 4
  if m < s.spare.reserveMark then
    (s.onSpare fun x => { x with reserveMark := m }).raiseAll 0x080A .warning (le 4 (h / 16384) ++ le 4 (s.overshoot / 16384))
  else s.onSpare fun x => { x with reserveMark := m }

/-! ## Release requests -/

/-- A dynamic capacity record (R34): the CXL event record's type, region, first DPA and length
(notes/assumptions/23.md). -/
def dcRecord (type region dpa blocks : Nat) : List Byte :=
  le 1 type ++ le 1 0 ++ le 2 0 ++ le 1 region ++ le 1 0 ++ le 2 0 ++ le 8 dpa ++ le 8 (blocks * blockBytes) ++ zeros 16 ++ le 2 0 ++ zeros 6

/-- The key of a DPA block of a logical device. -/
def dpaKey (l : LdId) (ext : Nat) : Nat := l.toNat * 16384 + ext
/-- The region of a DPA block (R34). -/
def State.regionOf (s : State) (l : LdId) (ext : Nat) : Nat := Sparse.get 0 s.cap.regions (dpaKey l ext)

/-- The batten of a course as the cache or the table holds it (R74). -/
def State.batten (s : State) (course : Nat) : Batten :=
  match Sparse.find s.xlat.cache course with
  | some c => c.batten
  | none => Sparse.get {} s.xlat.table course

/-- Is a batten stale (R64)? -/
def Batten.stale (b : Batten) (e : DirEntry) : Bool := b.tier != .absent && b.epoch != e.epoch

/-- Is a course the first of its bundle whose batten names a thatched run (R63, R131)? -/
def State.bundleLead (s : State) (c : Nat) (b : Batten) : Bool :=
  (List.range (c % 4)).all fun i =>
    let x := s.batten (c / 4 * 4 + i)
    !(x.tier == .thatched && x.base == b.base)

/-- The battens of a block that hold a run, by course; a bundle's run counts once. -/
def State.liveBattens (s : State) (block : Nat) : List (Nat × Batten) :=
  let keys := (Sparse.keys s.xlat.table ++ Sparse.keys s.xlat.cache).filter fun c => c / blockCourses == block
  let e := s.dirOf block
  (keys.eraseDups.map fun c => (c, s.batten c)).filter fun x =>
    x.2.tier != .absent && !x.2.stale e && (x.2.tier != .thatched || s.bundleLead x.1 x.2)

/-- Physical slots in use for a block (R158). -/
def State.blockUse (s : State) (block : Nat) : Nat := ((s.liveBattens block).map fun x => x.2.run.physical).sum

/-- Insert by falling use. -/
def insertUse (x : Nat × Nat) : List (Nat × Nat) → List (Nat × Nat)
  | [] => [x]
  | y :: rest => if x.2 > y.2 then x :: y :: rest else y :: insertUse x rest

/-- Blocks taken from the front until their second components cover `need`. -/
def takeCover : Nat → List (Nat × Nat) → List Nat
  | _, [] => []
  | need, x :: rest => if need = 0 then [] else x.1 :: takeCover (need - x.2) rest

/-- Bound dynamic-capacity blocks and their use, largest users first (R158). Static blocks cannot be released. -/
def State.releaseOrder (s : State) : List (Nat × Nat) :=
  let bound := s.xlat.dir.filter fun e =>
    e.2.st == .bound && !s.isSegment e.1 && !(e.1 < 256 && e.2.extent.toNat == e.1 && s.ownerOf e.1 == some s.cap.staticLd)
  (bound.map fun e => (e.1, s.blockUse e.1)).foldl (fun l x => insertUse x l) []

/-- Ask for the release of blocks: a CXL release record for each extent, event 0104h for each logical device and region,
and the release wait (R37, R38). -/
def State.requestRelease (s : State) (blocks : List Nat) : State :=
  if blocks.isEmpty then s
  else
    let named := blocks.filterMap fun b => (s.ownerOf b).map fun l => (l, (s.dirOf b).extent.toNat)
    let s := foldState (fun s x => s.logTo x.1 .dynamicCapacity (dcRecord 1 (s.regionOf x.1 x.2) (x.2 * blockBytes) 1)) s named
    let pairs := (named.map fun x => (x.1, s.regionOf x.1 x.2)).eraseDups
    let s := foldState (fun s p =>
      let n := (named.filter fun x => x.1 == p.1 && s.regionOf x.1 x.2 == p.2).length
      s.raise 0x0104 .warning 0xFFFF (le 1 p.2 ++ le 4 n) [p.1]) s pairs
    s.onCap fun c => { c with wait := some { ms := c.releaseWaitMs, named } }

/-! ## Pressure stages -/

/-- Marks of R156 in thousandths of the capacity: entry of a stage. -/
def stageEntry : Nat → Nat
  | 1 => 100 | 2 => 50 | 3 => 20 | _ => 5
/-- Exit of a stage in thousandths; stage 3 entered by expiry leaves at 7 %. -/
def stageExit (byExpiry : Bool) : Nat → Nat
  | 1 => 120 | 2 => 70 | 3 => if byExpiry then 70 else 40 | _ => 10

/-- A queue under divisor `d`: a queue of a throttled class whose shaper is off has a throttle-set shaper; divisor 0 turns
it off (R302). -/
def Queue.throttle (q : Queue) (d now : Nat) (below : Bool) : Queue :=
  if d = 0 then { q with throttleShaper := none, shaper := q.later.getD q.shaper, later := none }
  else if below && !q.shaper.on && q.throttleShaper.isNone then
    let b : Bucket := { on := true, rate := q.writesBefore * 256 / 100000, burst := 64, tokens := 64 * 409600, since := now }
    { q with throttleShaper := some b }
  else q

/-- Set the write throttle (R159, R302): the divisor with event 0404h; 0 lifts it and turns off throttle-set shapers. -/
def State.setThrottle (s : State) (d : Nat) : State :=
  let ceiling := s.place.policy.ceiling
  let s := s.onPlace fun p => { p with divisor := d, lastFree := s.free }
  let now := s.clock
  let s := s.onReg fun r => { r with queues := Sparse.update {} r.queues fun k q => q.throttle d now (decide (k % 64 ≤ ceiling)) }
  s.raiseAll 0x0404 .warning (le 1 ceiling ++ le 1 d)

/-- Enter the stage above, with event 0103h and the stage's action (R37, R157 to R160). Before GROUPS_SETTLED stage 2 names
no extents (R405). -/
def State.stageUp (s : State) (byExpiry : Bool) : State :=
  let old := s.place.stage
  let new := old + 1
  let s := s.onPlace fun p => { p with stage := new, stageByExpiry := if new = 3 then byExpiry else p.stageByExpiry }
  let s := s.raiseAll 0x0103 .warning (le 1 old ++ le 1 new)
  if new = 2 then
    if s.ready rdySettled then
      let short := s.pressureCapacity * 70 / 1000 - s.free
      s.requestRelease (takeCover short s.releaseOrder)
    else s
  else if new = 3 then s.setThrottle 4
  else if new = 4 then s.onReg fun r => { r with rwdWithheld := true }
  else s

/-- Leave a stage for the one below, with event 0103h. -/
def State.stageDown (s : State) : State :=
  let old := s.place.stage
  let s := s.onPlace fun p => { p with stage := old - 1, stageByExpiry := if old = 3 then false else p.stageByExpiry }
  let s := s.raiseAll 0x0103 .warning (le 1 old ++ le 1 (old - 1))
  if old = 4 then s.onReg fun r => { r with rwdWithheld := false }
  else if old = 3 then s.setThrottle 0
  else if old = 2 then s.onCap fun c => { c with wait := none }
  else s

/-- Bring the stage to what F asks for, one step at a time (R156). -/
def State.settlePressure : Nat → State → State
  | 0, s => s
  | fuel + 1, s =>
    let f := s.free
    let c := s.pressureCapacity
    let g := s.place.stage
    if g < 4 ∧ f * 1000 ≤ stageEntry (g + 1) * c then State.settlePressure fuel (s.stageUp false)
    else if 0 < g ∧ stageExit s.place.stageByExpiry g * c ≤ f * 1000 then State.settlePressure fuel s.stageDown
    else s

/-- The pressure stage after a change of F; none while no group has joined. -/
def State.adjustPressure (s : State) : State :=
  if s.joinedCount = 0 then s else (State.settlePressure 8 s).checkReserve

/-! ## Allocation and freeing -/

/-- Allocate a run: a strong-coded one falls back to the light code (R83). `strict`: no fallback (a thatched bundle). A run
of no slots takes no place. -/
def State.alloc? (s : State) (len : Nat) (strong strict : Bool) : State × Option Run :=
  if len = 0 then (s, some { base := 0, len := 0, strong := strong && s.strongReady })
  else
    let (s, r) := if strong && s.strongReady then s.allocStrong len else (s, none)
    match r with
    | some r => (s.adjustPressure, some r)
    | none =>
      if strict then (s, none)
      else
        match s.allocLight len with
        | some (r, s) => (s.adjustPressure, some r)
        | none => (s, none)

/-- Event 0207h: a run placement that waits or is dropped (R522). -/
def State.unplaced (s : State) (kind block : Nat) : State :=
  s.raiseLimited 0x0207 kind .warning 0xFFFF (le 1 kind ++ le 2 block ++ zeros 4) [(3, 4)] [1]
    (if block < 16384 then s.blockLogs block else s.lds)

/-- Does event 0204h fall due on a channel: no empty lath and no closed lath below the victim threshold (R87)? -/
def State.checkStarved (s : State) (ch : Nat) : State :=
  let victims := s.alloc.laths.any fun e =>
    e.1 / 16384 == ch && e.2.st == .closed && decide (e.2.live * 100 < s.alloc.victim * lathData)
  if s.emptyLaths ch = 0 && !victims then
    if bitAt s.alloc.starved.toNat ch then s
    else
      let s := s.onAlloc fun a => { a with starved := a.starved ||| BitVec.ofNat 128 (2 ^ ch) }
      s.raiseLimited 0x0204 ch .warning 0xFFFF (le 1 ch ++ le 2 0) [] [] s.lds
  else s.onAlloc fun a => { a with starved := a.starved &&& ~~~ BitVec.ofNat 128 (2 ^ ch) }

/-- A freed run is free (R86): its slots leave the live counts. The two laths of a light-coded table run become empty
(R73). -/
def State.freed (s : State) (r : Run) : State :=
  let s := foldState (fun s k => s.onLath k fun x => { x with live := x.live - r.width }) s r.laths
  let s := if !r.strong && r.len == 8192 then
      s.onAlloc fun a => { a with laths := a.laths.filter fun e => !(r.laths.contains e.1 && e.2.live == 0) }
    else s
  let s := foldState (fun s ch => (s.reap ch).checkStarved ch) s r.channels
  s.adjustPressure

/-- Free a run under R86: a drain marker goes to every channel that holds it and has entries waiting; the run is free when
every marker has executed. -/
def State.release (s : State) (r : Run) : State :=
  if r.len = 0 then s
  else
    let busy := r.channels.filter fun ch => !(s.channel ch).queue.isEmpty
    if busy.isEmpty then s.freed r
    else
      let m := s.alloc.nextMarker
      let s := s.onAlloc fun a => { a with nextMarker := m + 1, frees := a.frees ++ [{ marker := m, run := r, channels := busy }] }
      foldState (fun s ch => s.onChannel ch fun c => { c with queue := c.queue ++ [.marker m] }) s busy

/-- A drain marker has executed on a channel (R237). -/
def State.markerDone (s : State) (ch m : Nat) : State :=
  match s.alloc.frees.find? (·.marker == m) with
  | none => s
  | some p =>
    let left := p.channels.filter (· != ch)
    if left.isEmpty then
      (s.onAlloc fun a => { a with frees := a.frees.filter (·.marker != m) }).freed p.run
    else s.onAlloc fun a => { a with frees := a.frees.map fun q => if q.marker == m then { q with channels := left } else q }

/-- Undo an allocation whose slots no batten has named: the run is freed under R86. -/
def State.unalloc (s : State) (r : Run) : State := s.release r

end Sys2Proof.Machine
end

