-- ==== Sys2Proof/Machine/RateOps.lean ====
section
/-! DEFINITION. Token buckets (spec/09_queues_and_regulation.md R298, R299, R301), the class table, and the deliverable
rate (R309 to R312) with the scaling of guarantees (R315), which change with the set of serving channels. -/

namespace Sys2Proof.Machine

/-! ## Token buckets -/

/-- One request in token units. -/
abbrev tokenUnit : Nat := 409600

/-- The tokens of a bucket at a clock: they rise at the rate up to the burst (R298). -/
def Bucket.refill (b : Bucket) (now : Nat) : Bucket :=
  { b with tokens := min ((b.burst * tokenUnit : Nat) : Int) (b.tokens + ((b.rate * (now - b.since) : Nat) : Int)), since := now }
/-- A bucket full at a clock (R301). -/
def Bucket.full (b : Bucket) (now : Nat) : Bucket := { b with tokens := ((b.burst * tokenUnit : Nat) : Int), since := now }
/-- Take `n` requests' tokens. -/
def Bucket.take (b : Bucket) (n now : Nat) : Bucket :=
  let c := b.refill now
  { c with tokens := c.tokens - ((n * tokenUnit : Nat) : Int) }
/-- Are tokens above 0 (R294)? -/
def Bucket.open (b : Bucket) (now : Nat) : Bool := decide (0 < (b.refill now).tokens)
/-- Does a policer hold a token (R299)? -/
def Bucket.holdsOne (b : Bucket) (now : Nat) : Bool := decide ((tokenUnit : Int) ≤ (b.refill now).tokens)

/-! ## The class table -/

/-- A row of the class table. -/
def State.classRow (s : State) (c : Nat) : ClassRow := Sparse.get {} s.reg.classes c
/-- Change a class. -/
def State.onClass (s : State) (c : Nat) (f : ClassRow → ClassRow) : State :=
  s.onReg fun r => { r with classes := Sparse.modify {} r.classes c f }
/-- The sum of the nominal guarantees of classes that `p` takes. -/
def State.guarantees (s : State) (p : Nat → Bool) : Nat := ((s.reg.classes.filter fun c => p c.1).map fun c => c.2.guarantee).sum

/-! ## Capacities -/

/-- The state of a channel as Get Channel Status codes it (C1C0h byte 2). -/
def State.channelCode (s : State) (ch : Nat) : Nat :=
  let c := s.channel ch
  match (s.group (ch / 8)).st with
  | .withheld => 6
  | .untrained => 0
  | st =>
    if c.fenced || c.outOfService || s.chRetired ch then 5
    else if !c.trained then 0
    else if st = .poweredDown then 3
    else if c.retraining then 4
    else if c.asleep then 2
    else 1

/-- Is a channel serving (R310)? -/
def State.serving (s : State) (ch : Nat) : Bool :=
  let k := s.channelCode ch
  k == 1 || k == 2 || k == 3

/-- Bursts per µs of a channel by speed code, in hundredths (R310). -/
def speedBursts : Nat → Nat
  | 0 => 13333
  | 1 => 11669
  | _ => 10000

/-- The quarters of its burst rate that a group's thermal stage leaves a channel (R514). -/
def stageQuarters : Nat → Nat
  | 2 => 2
  | 3 => 1
  | _ => 4

/-- The bursts of all serving channels, in 1/400 per µs. -/
def State.rawBursts (s : State) : Nat :=
  (((List.range 128).filter s.serving).map fun ch =>
    speedBursts (s.group (ch / 8)).speed * stageQuarters (Sparse.get 0 s.therm.dram (ch / 8))).sum

/-- The rekey share of R217, percent. -/
def State.rekeyShare (s : State) : Nat :=
  match s.flash.pass with
  | none => 0
  | some _ =>
    let excess := s.flash.contexts.any fun c =>
      let g := c.2.gen (!c.2.cur)
      g.st == .retiring && decide (c.2.limit ≤ g.counter)
    if excess then 25 else 5

/-- S of R310, percent: placement, compaction while it runs, retirement while moves are pending, rekey, range scrubs. -/
def State.shares (s : State) : Nat :=
  let placement := if 1 ≤ s.place.stage then 25 else s.place.policy.share
  let compacting := (List.range 128).any fun ch => s.serving ch && decide (s.emptyLaths ch < s.alloc.lowMark)
  let compaction := if compacting then s.alloc.share else 0
  let retirement := if s.spare.moving.isEmpty then 0 else s.spare.share
  let scrubs := (s.spare.scrubs.map fun x => x.2.share).sum
  min 75 (placement + compaction + retirement + s.rekeyShare + scrubs)

/-- c_ch of R310, in 1/400,000 burst per µs. -/
def State.cch (s : State) : Nat := s.rawBursts * 9 * (100 - s.shares)

/-- Payload of a host port in one direction, GB/s in hundredths (R24); the x16 link carries twice an x8 link. -/
def State.portGB (s : State) (p : HostPort) : Nat :=
  let x := s.port p
  if !x.up then 0
  else
    let one := match x.rate with | .g64 => 4800 | .g32 => 2200 | .g16 => 1100
    if s.host.x16 && p == .hp0 then 2 * one else one

/-- The payload bound of a rafter port in one direction, less half of what it forwarded in the last interval, in units of
1/256 request per µs (R347). -/
def State.rafterRate (s : State) (p : Nat) : Nat :=
  let x := Sparse.get {} s.link.ports p
  if x.phase = .up then
    let full := match popcount 8 x.lanes.toNat with | 8 => 46000 | 4 => 23000 | _ => 11500
    full - x.forwardedLast / 50000
  else 0

/-- r_rd and r_wr of R310, in units of 1/256 request per µs. -/
def State.portRate (s : State) : Nat :=
  (s.portGB .hp0 + s.portGB .hp1) * 40 + ((List.range 4).map s.rafterRate).sum

/-! ## D -/

/-- The lesser of two rates, of which none is unbounded. -/
def leastRate (a b : Option Nat) : Option Nat :=
  match a, b with
  | none, b => b
  | a, none => a
  | some a, some b => some (min a b)

/-- Is a rate at most another? -/
def rateLe (a b : Option Nat) : Bool := leastRate a b == a

/-- The limits of R309 in order for an interval's counts; a limit whose divisor is 0 is unbounded. -/
def State.limits (s : State) (x : Interval) : List (Option Nat) :=
  let n := x.reads + x.writes
  let excess (num den : Nat) : Option Nat := if den = 0 then none else some (num / den)
  [ leastRate (excess (s.portRate * n) x.reads) (excess (s.portRate * n) x.writes),
    excess (s.cch * n * 256) (400000 * x.bursts),
    leastRate (excess (1600 * n * 256) x.decodes) (excess (1600 * n * 256) x.encodes),
    excess (4 * n * 256) (6 * x.touches) ]

/-- D of R309 and the limit that sets it, 1 to 4; unbounded where the interval issued no request. -/
def State.rateOf (s : State) (x : Option Interval) : Option Nat × Nat :=
  match x with
  | none => (none, 0)
  | some x =>
    let ls := s.limits x
    let d := ls.foldl leastRate none
    (d, match ls.findIdx? fun y => y == d && y.isSome with | some i => i + 1 | none => 0)

/-- A fraction in lowest terms. -/
def lowest (a b : Nat) : Nat × Nat := (a / max 1 (Nat.gcd a b), b / max 1 (Nat.gcd a b))

/-- A rate in an event or output field of 4 bytes; an unbounded one reads as the unit gives it (notes/assumptions/33.md). -/
def rateField (x : Option Nat) : Nat :=
  match x with
  | some d => min d 0xFFFFFFFF
  | none => Config.unbounded.toNat

/-- Scale the guarantees to B (R315): effective guarantees, the over-budget flag, and event 0901h where s changes. -/
def State.scaleGuarantees (s : State) : State :=
  let strict := s.guarantees fun c => decide (60 ≤ c)
  let weighted := s.guarantees fun c => decide (c < 60)
  let (n, d, excess) := match s.reg.rates.b with
    | none => (1, 1, false)
    | some b =>
      let room := 256 * b - strict
      let f := if weighted = 0 ∨ weighted ≤ room then (1, 1) else lowest room weighted
      (f.1, f.2, decide (256 * b < strict))
  let old := s.reg.rates
  let now := s.clock
  let s := s.onReg fun r =>
    { r with
      rates := { r.rates with sNum := n, sDen := d, excess }
      classes := Sparse.update {} r.classes fun k c =>
        let g := if 60 ≤ k then c.guarantee else c.guarantee * n / d
        if g = c.effective then c else { c with effective := g, policer := { c.policer.refill now with rate := g } } }
  if old.sNum = n ∧ old.sDen = d then s
  else
    s.raiseAll 0x0901 .warning
      (le 2 (old.sNum * 1000 / old.sDen) ++ le 2 (n * 1000 / d) ++ le 4 (rateField s.reg.rates.d)
        ++ le 4 (rateField (s.reg.rates.b.map (· * 256))) ++ le 1 (b2n excess))

/-- Put D in force, with B of R313. -/
def State.setRate (s : State) (d : Option Nat) (limit : Nat) : State :=
  let b := d.map fun x => x * 4 / 5 / 256
  let was := s.reg.rates.b
  let s := s.onReg fun r => { r with rates := { r.rates with d, limit, b } }
  if b == was then s else s.scaleGuarantees

/-- The end of an interval (R312): a lower D at once, a higher one when two intervals in a row gave at least as much. -/
def State.rateInterval (s : State) : State :=
  let x := s.reg.interval
  let terms := if x.reads + x.writes = 0 then none else some x
  let (v, lim) := s.rateOf terms
  let r := s.reg.rates
  let s := s.onReg fun g => { g with rates := { g.rates with prev := v, prevLimit := lim, terms }, interval := {} }
  if rateLe v r.d then s.setRate v lim
  else if rateLe v r.prev then s.setRate v lim
  else if rateLe r.prev r.d then s
  else s.setRate r.prev r.prevLimit

/-- A change of the serving channels (R312): D recomputed with the last interval's terms; a lower one takes effect. -/
def State.recompute (s : State) : State :=
  let (v, lim) := s.rateOf s.reg.rates.terms
  if v == s.reg.rates.d then s else if rateLe v s.reg.rates.d then s.setRate v lim else s

/-! ## The DRAM stages of R514 -/

/-- Half degrees at which a DRAM stage is entered, and below which it is left (R514). -/
def dramMarks : Nat → Int × Int
  | 1 => (170, 160)
  | 2 => (190, 180)
  | _ => (210, 200)

/-- Does any die of a group report 111b (R239)? -/
def State.hotDie (s : State) (g : Nat) : Bool :=
  (List.range 8).any fun i => (List.range 4).any fun d =>
    bits (s.channel (8 * g + i)).codes.toNat (3 * d + 2) (3 * d) == 7

/-- Is the entry condition of a DRAM stage met? -/
def State.dramEntry (s : State) (g k : Nat) : Bool :=
  let x := s.group g
  (x.sensorValid && decide ((dramMarks k).1 ≤ x.sensor.toInt)) || (k == 2 && s.hotDie g)

/-- Is the exit condition of a DRAM stage met? -/
def State.dramExit (s : State) (g k : Nat) : Bool :=
  let x := s.group g
  x.sensorValid && decide (x.sensor.toInt < (dramMarks k).2) && !(k == 2 && s.hotDie g)

/-- Seconds at D2 or above count from and to the edges (C4C0h). -/
def State.timeHot (s : State) : State :=
  let hot := s.therm.dram.any fun e => decide (2 ≤ e.2)
  match s.therm.hotSince with
  | none => if hot then s.onTherm fun t => { t with hotSince := some s.clock } else s
  | some t0 =>
    if hot then s
    else s.onTherm fun t => { t with hotSince := none, hotCycles := t.hotCycles + (s.clock - t0) }

/-- One step of a group's DRAM stage, with event 1301h and D recomputed (R514). -/
def State.setDramStage (s : State) (g k : Nat) : State :=
  let old := Sparse.get 0 s.therm.dram g
  let s := (s.onTherm fun t => { t with dram := Sparse.set 0 t.dram g k }).timeHot
  (s.raiseAll 0x1301 .warning (le 1 g ++ le 1 old ++ le 1 k ++ le 2 (s.group g).sensor.toNat)).recompute

/-- The DRAM stage of a group follows its sensor and its dies, one step at a time. -/
def State.dramThermal (s : State) (g : Nat) : Nat → State
  | 0 => s
  | fuel + 1 =>
    let k := Sparse.get 0 s.therm.dram g
    if [1, 2, 3].any fun j => decide (k < j) && s.dramEntry g j then (s.setDramStage g (k + 1)).dramThermal g fuel
    else if 1 ≤ k ∧ s.dramExit g k then (s.setDramStage g (k - 1)).dramThermal g fuel
    else s

end Sys2Proof.Machine
end

