-- ==== Sys2Proof/Machine/CacheOps.lean ====
section
/-! DEFINITION. The tile cache (spec/05_tile_cache.md): lookup, victims, trackers, install, write-through update,
invalidation; and reading on-chip SRAM words under SEC-DED (spec/16_on_chip_memory.md R457, R460). -/

namespace Sys2Proof.Machine

/-! ## On-chip words -/

/-- The bank of an SRAM address (R457). -/
def sramBank (a : Nat) : Nat := if a < 0x2000000 then a / 64 % 128 else 128 + (a - 0x2000000) / 2 ^ 18
/-- The in-bank offset of an SRAM address (R457). -/
def sramOffset (a : Nat) : Nat := if a < 0x2000000 then a / 2 ^ 13 * 64 + a % 64 else a % 2 ^ 18

/-- Read one word: a single error is corrected, counted and written back; a double error is reported in event 1002h and
left in place (R460). `rank` is the master of R458. -/
def State.sramWord (s : State) (rank a : Nat) : Bool × State :=
  let a := a / 8 * 8
  match Sparse.find s.sram.errors a with
  | none => (true, s)
  | some .single =>
    let b := sramBank a
    let fresh := !s.host.periods.any fun p => p.code == 0x1001 && p.occurrences != 0
    let banks := if fresh then [b] else if s.sram.lately.contains b then s.sram.lately else b :: s.sram.lately
    let s := s.onSram fun m => { m with
      errors := Sparse.erase m.errors a
      corrected := Sparse.modify 0 m.corrected b (fun n => min (n + 1) 0xFFFFFFFF)
      lately := banks }
    (true, s.raiseLimited 0x1001 0 .informational 0xFFFF (le 2 banks.length ++ zeros 4) [(2, 4)] [1] s.lds)
  | some .double =>
    let s := s.onSram fun m => { m with uncorrectable := m.uncorrectable + 1 }
    (false, s.raiseAll 0x1002 .warning (le 2 (sramBank a) ++ le 4 (sramOffset a) ++ le 1 rank))

/-- Read `n` words from an address; whether all of them read. -/
def State.sramWords (s : State) (rank a : Nat) : Nat → Bool × State
  | 0 => (true, s)
  | n + 1 =>
    let (ok, s) := s.sramWord rank a
    let (rest, s) := s.sramWords rank (a + 8) n
    (ok && rest, s)

/-- Words written whole hold no error (R460). -/
def State.sramWritten (s : State) (a bytes : Nat) : State :=
  s.onSram fun m => { m with errors := m.errors.filter fun e => !(decide (a ≤ e.1) && decide (e.1 < a + bytes)) }

/-- Address of a line of a way (R166). -/
def cacheAddress (set way line : Nat) : Nat := (set * 16 + way) * 256 + 64 * line

/-! ## Ways -/

/-- A way, by set × 16 + way. -/
def State.way (s : State) (k : Nat) : Way := Sparse.get {} s.cache.ways k
/-- Change a way. -/
def State.onWay (s : State) (k : Nat) (f : Way → Way) : State :=
  s.onCache fun c => { c with ways := Sparse.modify {} c.ways k f }
/-- Is a way fenced (R187)? -/
def State.wayFenced (s : State) (k : Nat) : Bool := bitAt (Sparse.get 0 s.cache.fences (k / 16)).toNat (k % 16)
/-- Keys of the ways of a set. -/
def setWays (set : Nat) : List Nat := (List.range 16).map fun w => set * 16 + w
/-- Ways fenced in all (R187). -/
def State.fencedWays (s : State) : Nat := (s.cache.fences.map fun e => popcount 16 e.2.toNat).sum

/-- Trackers of a tile that are not stale (R171). -/
def State.trackerOf (s : State) (tile : Nat) : Option (Nat × Tracker) :=
  s.cache.trackers.find? fun t => t.2.tile == tile && !t.2.stale
/-- Change a tracker that exists. -/
def State.onTracker (s : State) (n : Nat) (f : Tracker → Tracker) : State :=
  s.onCache fun c => { c with trackers := c.trackers.map fun t => if t.1 == n then (t.1, f t.2) else t }
/-- The trackers that hold a way choose again at install (R177, R186). -/
def State.loseWay (s : State) (k : Nat) : State :=
  s.onCache fun c =>
    { c with
      trackers := c.trackers.map fun t => if t.2.way == some k then (t.1, { t.2 with way := none, again := true }) else t }

/-- Drop an entry for an error, and fence its way on the second drop within 24 hours (R186, R187). -/
def State.dropWay (s : State) (k kind : Nat) : State :=
  let s := s.loseWay k
  let last := Sparse.find s.cache.drops k
  let now := s.seconds
  let s := s.onWay k fun w => { w with valid := false, evicting := false }
  let s := s.onCache fun c => { c with dropped := c.dropped + 1, drops := Sparse.insert c.drops k now }
  let s := s.raiseAll 0x0501 .warning (le 2 (k / 16) ++ le 1 (k % 16) ++ le 1 kind)
  match last with
  | some t =>
    if now < t + 86400 && decide (s.fencedWays < 1024) && !s.wayFenced k then
      let s := s.onCache fun c =>
        let f := Sparse.modify 0 c.fences (k / 16) fun m => m ||| BitVec.ofNat 16 (2 ^ (k % 16))
        { c with fences := f, fenceCopy := f }
      s.raiseAll 0x0502 .warning (le 2 (k / 16) ++ le 1 (k % 16) ++ le 2 s.fencedWays)
    else s
  | none => s

/-- Drop the entries of a set whose tag has a parity error (R186). -/
def State.checkParity (s : State) (set : Nat) : State :=
  foldState (fun s k => s.dropWay k 1) s ((setWays set).filter fun k => (s.way k).valid && (s.way k).badParity)

/-- The ways of a tile's set that hold its tag. -/
def State.waysOf (s : State) (tile : Nat) : List Nat :=
  (setWays (tileSet tile)).filter fun k => (s.way k).valid && (s.way k).tag.toNat == tileTag tile

/-- The way that a lookup under a block epoch matches (R168). -/
def State.matchWay (s : State) (tile : Nat) (epoch : BitVec 2) : Option Nat :=
  (s.waysOf tile).find? fun k => (s.way k).epoch == epoch

/-! ## Replacement (R174 to R176) -/

/-- Node n of a replacement field. -/
def node (f : BitVec 15) (n : Nat) : Nat := f.toNat / 2 ^ (n - 1) % 2
/-- victim() of R174. -/
def victim (f : BitVec 15) : Nat :=
  let n2 := 2 + node f 1
  let n3 := 2 * n2 + node f n2
  let n4 := 2 * n3 + node f n3
  2 * (n4 - 8) + node f n4
/-- A replacement field with a node set. -/
def setNode (f : BitVec 15) (n v : Nat) : BitVec 15 := BitVec.ofNat 15 (setBits f.toNat (n - 1) (n - 1) v)
/-- touch() of R174. -/
def touchField (f : BitVec 15) (w : Nat) : BitVec 15 :=
  let away (c : Nat) : Nat := if c % 2 = 0 then 1 else 0
  let n := 8 + w / 2
  let f := setNode f n (away w)
  let f := setNode f (n / 2) (away n)
  let f := setNode f (n / 4) (away (n / 2))
  setNode f (n / 8) (away (n / 4))
/-- Touch a way (R175). -/
def State.touchWay (s : State) (k : Nat) : State :=
  s.onCache fun c => { c with trees := Sparse.modify 0 c.trees (k / 16) fun f => touchField f (k % 16) }

/-- The way chosen for a tag miss in a set (R176). -/
def State.chooseWay (s : State) (set : Nat) : Option Nat :=
  let held (k : Nat) : Bool := s.cache.trackers.any fun t => t.2.way == some k
  match (setWays set).find? fun k => !(s.way k).valid && !s.wayFenced k && !held k with
  | some k => some k
  | none =>
    let v := set * 16 + victim (Sparse.get 0 s.cache.trees set)
    if !s.wayFenced v && !(s.way v).evicting then some v
    else (setWays set).find? fun k => !s.wayFenced k && !(s.way k).evicting

/-- Mark a chosen way evicting (R176). -/
def State.claimWay (s : State) (k : Nat) : State :=
  s.onWay k fun w => if w.valid then { w with evicting := true } else w

/-! ## Lookup -/

/-- What a lookup of a line finds (R168). -/
inductive CacheHit where
  | hit (data : List Byte)
  | sectorMiss (way : Nat)
  | tagMiss
  deriving DecidableEq, Repr

/-- Count a tag miss (general counter event 06h). -/
def State.tagMiss (s : State) : State := (s.onCache fun c => { c with tagMisses := c.tagMisses + 1 }).bump 0x06 0xFFFF

/-- Look a line up for a read: parity and data errors drop the entry; a hit touches the way and rescues it when it was
evicting (R168, R175, R177, R186). -/
def State.lookup (s : State) (tile : Nat) (epoch : BitVec 2) (line : Nat) : CacheHit × State :=
  if !s.cache.enable then (.tagMiss, s.tagMiss)
  else
    let s := s.checkParity (tileSet tile)
    match s.matchWay tile epoch with
    | none => (.tagMiss, s.tagMiss)
    | some k =>
      let w := s.way k
      if bitAt w.sectors.toNat line then
        let (ok, s) := s.sramWords 4 (cacheAddress (k / 16) (k % 16) line) 8
        if !ok then (.tagMiss, (s.dropWay k 2).tagMiss)
        else
          let s := if w.evicting then
              ((s.onWay k fun w => { w with evicting := false }).loseWay k).onCache fun c => { c with rescues := c.rescues + 1 }
            else s
          let s := (s.touchWay k).onCache fun c => { c with hits := c.hits + 1 }
          (.hit (slice w.data (64 * line) 64), s.bump 0x05 0xFFFF)
      else (.sectorMiss k, s.onCache fun c => { c with sectorMisses := c.sectorMisses + 1 })

/-- All four lines of a cached tile for a read-modify-write (R184). -/
def State.cachedTile (s : State) (tile : Nat) (epoch : BitVec 2) : Option (List Byte) × State :=
  if !s.cache.enable then (none, s)
  else
    let s := s.checkParity (tileSet tile)
    match s.matchWay tile epoch with
    | none => (none, s)
    | some k =>
      if (s.way k).sectors == 15 then
        let (ok, s) := s.sramWords 4 (cacheAddress (k / 16) (k % 16) 0) 32
        if ok then (some (slice (s.way k).data 0 256), s) else (none, s.dropWay k 2)
      else (none, s)

/-- Open a tracker for a missed read: a sector miss fills the way that holds the tile; a tag miss chooses a victim. None when
all 256 are in use (R170 to R172, R176). -/
def State.openTracker (s : State) (tile : Nat) (epoch : BitVec 2) (mask : Nat) (way : Option Nat) : Option Nat × State :=
  match firstFrom (fun n => (Sparse.find s.cache.trackers n).isNone) 256 0 with
  | none => (none, s)
  | some n =>
    let w := match way with
      | some k => some k
      | none => s.chooseWay (tileSet tile)
    let s := match way, w with
      | none, some k => s.claimWay k
      | _, _ => s
    let t : Tracker := { tile, mask := BitVec.ofNat 4 mask, way := w, epoch }
    (some n, s.onCache fun c => { c with trackers := Sparse.insert c.trackers n t })

/-- A miss of a read of a class: its tracker, where the cache is enabled, the class may fill and one is free. A miss with no
tracker in an enabled cache is one fill not installed (R170, R172, C140h offset 64, C142h). -/
def State.openFill (s : State) (cls tile : Nat) (epoch : BitVec 2) (mask : Nat) (way : Option Nat) : Option Nat × State :=
  let (n, s) := if s.cache.enable && !bitAt s.cache.noFill.toNat cls then s.openTracker tile epoch mask way else (none, s)
  (n, if n.isNone && s.cache.enable then s.onCache fun c => { c with noWay := c.noWay + 1 } else s)

/-- The tracker is done (R173, R182): its claim on a victim way ends. -/
def State.closeTracker (s : State) (n : Nat) : State :=
  match Sparse.find s.cache.trackers n with
  | none => s
  | some t =>
    let s := match t.way with
      | some k => s.onWay k fun w => { w with evicting := false }
      | none => s
    s.onCache fun c => { c with trackers := Sparse.erase c.trackers n }

/-- Write a tile's lines into a way: a way that holds the tile keeps its other sectors, any other is reassigned (R173). -/
def State.fillWay (s : State) (k tile : Nat) (epoch : BitVec 2) (lines : Nat) (data : List Byte) : State :=
  let holds := (s.way k).valid && (s.way k).tag.toNat == tileTag tile && (s.way k).epoch == epoch
  let s := s.onWay k fun w =>
    { valid := true, evicting := false, epoch, tag := BitVec.ofNat 22 (tileTag tile),
      sectors := if holds then w.sectors ||| BitVec.ofNat 4 lines else BitVec.ofNat 4 lines,
      data := (List.range 4).flatMap fun l => if bitAt lines l then slice data (64 * l) 64 else slice w.data (64 * l) 64 }
  let s := foldState (fun s l => s.sramWritten (cacheAddress (k / 16) (k % 16) l) 64) s ((List.range 4).filter (bitAt lines))
  (s.touchWay k).onCache fun c => { c with installed := c.installed + 1 }

/-- Install lines of a fill (R170, R173, R182): not when stale, nor when the block epoch has changed, nor when no way can be
had. Lines in the poison list are never installed. The tracker stays. -/
def State.install (s : State) (n : Nat) (blockEpoch : BitVec 2) (lines : Nat) (data : List Byte) : State :=
  match Sparse.find s.cache.trackers n with
  | none => s
  | some t =>
    if t.stale || !s.cache.enable || t.epoch != blockEpoch then s.onCache fun c => { c with staleFills := c.staleFills + 1 }
    else if lines = 0 then s
    else
      let w := match t.way with
        | some k => some k
        | none => if t.again then s.chooseWay (tileSet t.tile) else none
      match w with
      | none => s.onCache fun c => { c with noWay := c.noWay + 1 }
      | some k =>
        let s := s.onTracker n fun t => { t with way := some k, again := false }
        s.fillWay k t.tile t.epoch lines data

/-! ## Writes and invalidation -/

/-- A write makes every fill in flight of its tile stale (R180). -/
def State.staleTrackers (s : State) (tile : Nat) : State :=
  s.onCache fun c => { c with trackers := c.trackers.map fun t => if t.2.tile == tile then (t.1, { t.2 with stale := true }) else t }

/-- The write-through update of a close (R179): all four sectors, less the poisoned lines. -/
def State.cacheTile (s : State) (tile : Nat) (data : List Byte) (bad : Nat) : State :=
  let s := s.staleTrackers tile
  foldState (fun s k =>
    let s := s.onWay k fun w => { w with sectors := BitVec.ofNat 4 (maskOf 4 fun l => !bitAt bad l), data }
    (s.sramWritten (cacheAddress (k / 16) (k % 16) 0) 256).onCache fun c => { c with updates := c.updates + 1 }) s (s.waysOf tile)

/-- The write-through update of a raw slot (R179): a whole line is set valid, bytes merge into a valid sector. -/
def State.cacheLine (s : State) (tile line mask : Nat) (data : List Byte) : State :=
  let s := s.staleTrackers tile
  let whole := mask + 1 = 2 ^ 64
  foldState (fun s k =>
    let w := s.way k
    if whole || bitAt w.sectors.toNat line then
      let s := s.onWay k fun w =>
        { w with data := splice (slice w.data 0 256) (64 * line) (mergeBytes mask data (slice w.data (64 * line) 64)),
                 sectors := w.sectors ||| BitVec.ofNat 4 (2 ^ line) }
      s.onCache fun c => { c with updates := c.updates + 1 }
    else s) s (s.waysOf tile)

/-- Invalidate a tile (R181, R182): its way, and every tracker of it is stale. -/
def State.invalidate (s : State) (tile : Nat) : State :=
  let ks := s.waysOf tile
  let s := s.staleTrackers tile
  let s := foldState (fun s k => s.onWay k fun w => { w with valid := false, evicting := false }) s ks
  s.onCache fun c => { c with invalidated := c.invalidated + (if ks.isEmpty then 0 else 1) }

/-- Invalidate a course's 16 tiles (R181). -/
def State.invalidateCourse (s : State) (course : Nat) : State :=
  foldState State.invalidate s ((List.range 16).map (tileNumber course))

/-- Invalidate one line of a tile: its sector, and the trackers that hold the line (R181). -/
def State.invalidateLine (s : State) (tile line : Nat) : State :=
  let s := s.onCache fun c =>
    { c with
      trackers := c.trackers.map fun t =>
        if t.2.tile == tile && bitAt t.2.mask.toNat line then (t.1, { t.2 with stale := true }) else t }
  foldState (fun s k => s.onWay k fun w => { w with sectors := w.sectors &&& ~~~ BitVec.ofNat 4 (2 ^ line) }) s (s.waysOf tile)

/-- Put lines of a tile on the poison list and out of the cache (R46, R181), as one run per maximal group, on top of those
listed already. -/
def State.poisonLines (s : State) (course tile mask : Nat) : State :=
  let old := s.tileListed course tile
  let all := maskOf 4 fun l => bitAt old l || bitAt mask l
  let s := s.setTilePoison course tile all
  foldState (fun s l => s.invalidateLine (tileNumber course tile) l) s ((List.range 4).filter fun l => bitAt mask l)

end Sys2Proof.Machine
end

