-- ==== Sys2Proof/Machine/Operands.lean ====
section
/-! DEFINITION. How a command reaches the sled: paths and privilege (R370, R371, R378), the issuing logical device and the
source requestor ID (R524, R525), when a path serves (R384, R386, R400, R419, R423, R435), background commands (R376),
replies, and the device physical addresses that commands name. -/

namespace Sys2Proof.Machine

/-! ## Paths -/

/-- The carrier of a path. -/
def Path.carrier : Path → Carrier
  | .primary l _ => .primary l
  | .secondary l _ => .secondary l
  | .fabric _ => .fabric
  | .sideband _ => .sideband
  | .rafter o _ _ => .rafter o

/-- Is a path privileged (R371)? A relayed request carries the privilege of its origin path; the ridge's own path (3) is
judged by the commands that Cascade restricts to it (R378). -/
def Path.privileged : Path → Bool
  | .fabric _ => true
  | .sideband _ => true
  | .rafter _ p _ => p == 1 || p == 2
  | _ => false

/-- May a path carry background commands (R370)? -/
def Path.backgrounds : Path → Bool
  | .secondary _ _ => false
  | .rafter _ _ _ => false
  | _ => true

/-- Is a path the ridge's of the current term (R378 origin path 3)? -/
def State.fromRidge (s : State) : Path → Bool
  | .rafter o p _ => p == 3 && s.casc.joined && o == s.casc.ridge
  | _ => false

/-- The issuing logical device of a command (R524). -/
def State.issuing (s : State) (p : Path) : LdId :=
  if s.host.gfam then 0
  else match p with
    | .primary l _ => l
    | .secondary l _ => l
    | .fabric t => t.getD s.cap.growth
    | .sideband t => t.getD s.cap.growth
    | .rafter _ _ _ => s.cap.growth

/-- The source requestor ID of a command; none on a privileged path (R525). -/
def State.sourceRid (s : State) (p : Path) : Option Nat :=
  match p with
  | .primary l pbr => some (if s.host.gfam then pbr.toNat else (s.ridOfLd l).toNat)
  | .secondary l pbr => some (if s.host.gfam then pbr.toNat else (s.ridOfLd l).toNat)
  | _ => none

/-- The wrapping key that a path uses (R203, R379). -/
def Path.keyPath : Path → KeyPath
  | .primary l _ => .ld l
  | .secondary l _ => .ld l
  | .fabric _ => .fabric
  | .sideband _ => .sideband
  | .rafter o p _ => .relay o p

/-! ## Replies -/

/-- Return codes as CXL numbers them (notes/assumptions/24.md). -/
def ReturnCode.code : ReturnCode → Nat
  | .success => 0 | .backgroundStarted => 1 | .invalidInput => 2 | .unsupported => 3 | .retryRequired => 5 | .busy => 6
  | .transferOutOfOrder => 9 | .authFailed => 10 | .invalidSlot => 11 | .invalidHandle => 14 | .aborted => 18
  | .poisonLimit => 16 | .invalidPayloadLength => 22 | .transferInProgress => 8 | .invalidLog => 23

/-- A rafter-borne mailbox message as the payload of a kind 6 packet (R378), padded to 16-byte units. -/
def mailboxPayload (cls originPath opcode origin tag rc : Nat) (payload : List Byte) : List Byte :=
  let b := le 1 cls ++ le 1 originPath ++ le 2 opcode ++ le 2 origin ++ le 2 tag ++ le 2 rc ++ le 2 payload.length ++ zeros 4
    ++ payload
  slice b 0 (ceilDiv b.length 16 * 16)

/-- Answer a command on its path. A reply to a relayed request is that request's response: it returns its credit, and the
request's sequence is held (R336, R338, R378). -/
def State.reply (s : State) (p : Path) (op : Nat) (rc : ReturnCode) (output : List Byte) : State :=
  match p with
  | .rafter o op' tag =>
    let payload := mailboxPayload 2 op'.toNat op o.toNat tag.toNat rc.code (slice output 0 (min output.length 1008))
    match s.purlin.serving.find? fun x => x.1 == o && x.2.1 == tag with
    | none => s.enqueueSend o.toNat { kind := 6 } payload false (.control 2)
    | some x =>
      let n := x.2.2
      let s := s.onPurlin fun y => { y with serving := y.serving.erase x }
      let s := s.onPeer o.toNat fun p => p.setSeq n .held
      s.enqueueSend o.toNat { kind := 6, creditValid := true, credit := n } payload false (.response n)
  | _ => s.emit (.reply p op rc output)

/-! ## Sled states -/

/-- The code of a sled state in event 0E01h (C380h byte 2; Off-aux 3, notes/assumptions/25.md). -/
def SledState.code : SledState → Nat
  | .active => 0 | .drowse => 1 | .watch => 2 | .offAux => 3

/-- Event 0E01h and the power trace record of a change of state; an entry within 1 s of the previous one of its kind is
counted and reported with the next event, its exit with it (R416, notes/assumptions/26.md). The cause is that of an exit from Drowse
or Watch; a change of another kind has none of R436's codes, and its cause byte is free. The patrol's lap clock pauses in Drowse and
Watch (R276). The trace ring, which lies in the hub, takes no record of a change from or to Off-aux. -/
def State.changeState (s : State) (new : SledState) (cause : Option Nat) : State :=
  let e := s.eaves
  let old := e.st
  let dur := usOf (s.clock - e.since)
  let entering := old = .active && (new = .drowse || new = .watch)
  let leaving := new = .active && (old = .drowse || old = .watch)
  let quiet := if entering then e.lastKind == some new && decide (s.clock < e.lastEntry + 1600000000)
    else leaving && decide (0 < e.unreported)
  let slept := if leaving then s.clock - e.since else 0
  let s := s.onSpare fun p => { p with lapStart := p.lapStart + slept }
  let s := s.onEaves fun e =>
    { e with st := new, since := s.clock,
             lastEntry := if entering then s.clock else e.lastEntry,
             lastKind := if entering then some new else e.lastKind,
             drowses := e.drowses + b2n (entering && new == .drowse),
             watches := e.watches + b2n (entering && new == .watch),
             drowseCycles := e.drowseCycles + (if old = .drowse then s.clock - e.since else 0),
             watchCycles := e.watchCycles + (if old = .watch then s.clock - e.since else 0),
             unreported := if quiet then e.unreported + b2n entering else 0,
             exitCause := cause.getD e.exitCause }
  let s := if old = .offAux ∨ new = .offAux then s
    else s.trace 3 5 0xFFFF 0xFFFF ([0xFF] ++ le 1 old.code ++ le 1 new.code ++ le 4 (min dur 0xFFFFFFFF))
  if quiet then s
  else
    let c := cause.getD (Config.stateCause (old.code * 4 + new.code)).toNat
    s.raise 0x0E01 .informational 0xFFFF (le 1 old.code ++ le 1 new.code ++ le 1 c ++ le 4 e.unreported) s.lds

/-- Deliver the events that were held while the sled was not Active or firmware did not serve (R410, R437). -/
def State.deliverHeld (s : State) : State :=
  if s.delivers then
    let h := s.eaves.heldEvents
    (s.onEaves fun e => { e with heldEvents := [] }).flushEvents h
  else s

/-- A wake is pending for an entry in its handshake (R429). -/
def State.wakePending (s : State) : State :=
  s.onEaves fun e => { e with entry := e.entry.map fun x => { x with wake := true } }

/-- Leave Drowse for a cause (R419); for an entry in its handshake a wake is pending (R429, R431). -/
def State.wakeDrowse (s : State) (cause : Nat) : State :=
  let s := s.wakePending
  if s.eaves.st = .drowse then
    ((s.onEaves fun e => { e with gated := [] }).changeState .active (some cause)).deliverHeld
  else s

/-- Start the exit from Watch for a cause (R422); a link wake or a presence change clears consent, and WAKE# is
asserted for a link in L2 that the exit does not come from (R493). -/
def State.wakeWatch (s : State) (cause : Nat) : State :=
  let s := s.wakePending
  let link := cause = 6 ∨ cause = 7
  let s := if link ∧ s.eaves.st = .watch then s.onEaves fun e => { e with consent := 0, wholeConsent := false } else s
  if s.eaves.st = .watch ∧ !s.eaves.exiting then
    let s := s.onEaves fun e => { e with exiting := true, exitCause := cause }
    if cause = 4 ∨ cause = 5 then s.onConn fun c => { c with wake0 := s.host.hp0.l2, wake1 := s.host.hp1.l2 } else s
  else s

/-- The address that the sled answers to on the sideband bus (R427, R495): on I3C the dynamic address, once assigned. -/
def State.ownAddress (s : State) : Option (BitVec 7) :=
  if s.conn.inForce.sbmode then s.conn.dynamic else some (0x48 + s.conn.inForce.sa.setWidth 7)

/-- A sideband transaction names the sled's address (R427): in Watch it is not acknowledged and the host is told when the exit
completes; in Drowse it wakes the sled, and on I3C the controller retries. -/
def State.addressMatch (s : State) (address : BitVec 7) : State :=
  match s.eaves.st with
  | .active => s.wakePending
  | .drowse =>
    let s := s.wakeDrowse 4
    if s.conn.inForce.sbmode then s.emit (.nack address) else s
  | .watch => ((s.wakeWatch 4).onEaves fun e => { e with alertDue := true }).emit (.nack address)
  | .offAux => s

/-! ## When a path serves -/

/-- What becomes of a command that arrives. -/
inductive Service where
  | serve | drop | hold | wait | nack | busy | unsupported
  deriving DecidableEq, Repr

/-- Is the path the sideband MCTP path? -/
def Path.isSideband : Path → Bool
  | .sideband _ => true
  | _ => false

/-- Commands served in recovery: Get FW Info, Transfer FW, Activate FW, Get Sled Identity (R386). -/
def recoveryOps : List Nat := [0x0200, 0x0201, 0x0202, 0xC000]

/-- The commands that a relayed request of the ridge's own path may carry: those that Cascade restricts (R366, R378). -/
def ridgeOps : List Nat := [0xC2C1, 0xC2C3, 0xC2C5]

/-- Is a relayed request refused for its origin path (R378)? -/
def State.relayRefused (s : State) (p : Path) (op : Nat) : Bool :=
  match p with
  | .rafter _ o _ => if o = 3 then !(s.fromRidge p && ridgeOps.contains op) else !(o == 1 || o == 2)
  | _ => false

/-- How a path takes a command of an opcode; `offAux` marks the power-path commands that the eaves responder serves
(R435). A mailbox that is not ready takes no command (R400). In Watch no link carries a command before the exit begins. -/
def State.service (s : State) (p : Path) (op : Nat) (offAux : Bool) : Service :=
  match s.eaves.st with
  | .offAux => if Path.isSideband p then (if op = 0xC000 ∨ offAux then .serve else .unsupported) else .drop
  | .watch => if Path.isSideband p then .nack else if s.eaves.exiting then .wait else .drop
  | _ =>
    if s.eaves.st = .drowse && Path.isSideband p && s.conn.inForce.sbmode then .nack
    else if s.ready rdyRecovery then
      (if Path.isSideband p then (if recoveryOps.contains op then .serve else .unsupported) else .drop)
    else if !s.ready rdyMailbox then
      (if Path.isSideband p then (if op = 0xC000 then .serve else .busy) else .drop)
    else if s.purlin.paused then .hold
    else if s.relayRefused p op then .unsupported
    else .serve

/-! ## Background commands -/

/-- The background command of a carrier. -/
def State.backgroundOf (s : State) (c : Carrier) : Option Background := (s.purlin.background.find? (·.1 == c)).map (·.2)
/-- Set the background command of a carrier. -/
def State.setBackground (s : State) (c : Carrier) (b : Background) : State :=
  s.onPurlin fun p => { p with background := p.background.filter (·.1 != c) ++ [(c, b)] }
/-- Does a carrier run a background command? -/
def State.backgroundBusy (s : State) (c : Carrier) : Bool :=
  match s.backgroundOf c with
  | some b => b.running
  | none => false
/-- Start a background command (R376). -/
def State.startBackground (s : State) (p : Path) (op : Nat) : State :=
  s.setBackground (Path.carrier p) { opcode := op, running := true }
/-- Report the percentage complete of a background command. -/
def State.progress (s : State) (p : Option Path) (op percent : Nat) : State :=
  match p with
  | none => s
  | some p =>
    match s.backgroundOf (Path.carrier p) with
    | some b => if b.running && b.opcode == op then s.setBackground (Path.carrier p) { b with percent := min percent 100 } else s
    | none => s
/-- The work of a background command has ended: its return code and output stand ready for its completion (R376). -/
def State.finishBackground (s : State) (p : Option Path) (op : Nat) (rc : ReturnCode) (output : List Byte) : State :=
  match p with
  | none => s
  | some p =>
    match s.backgroundOf (Path.carrier p) with
    | some b =>
      if b.running && b.opcode == op then
        s.setBackground (Path.carrier p) { b with percent := 100, done := true, rc, output }
      else s
    | none => s
/-- Has a running background command been asked to stop (R377)? -/
def State.abortWanted (s : State) (p : Option Path) (op : Nat) : Bool :=
  match p with
  | none => false
  | some p =>
    match s.backgroundOf (Path.carrier p) with
    | some b => b.running && b.opcode == op && b.abort
    | none => false

/-- Ask a running background command to stop (R43, R377). -/
def State.askAbort (s : State) (op : Nat) (p : Option Path) : State :=
  match p with
  | none => s
  | some p =>
    match s.backgroundOf (Path.carrier p) with
    | some b => if b.running && b.opcode == op then s.setBackground (Path.carrier p) { b with abort := true } else s
    | none => s

/-! ## Serving a command -/

/-- A command is served: the state it arrived in is noted (C380h), and it wakes the sled from Drowse, over the sideband by its address
match (R419). -/
def State.arrives (s : State) (p : Path) : State :=
  let was := s.eaves.late.getD s.eaves.st
  (s.wakeDrowse (if Path.isSideband p then 4 else 2)).onEaves fun e => { e with arrival := was }

/-- A command that arrives on a path: held, refused or served (R371, R376, R384, R400, R419, R423, R435). `f` gives its
return code and output; `i` is the command as it waits where it must. `offAux`: served by the eaves responder. -/
def State.arrive (s : State) (i : Instr) (p : Path) (op : Nat) (offAux : Bool) (f : State → State × ReturnCode × List Byte) : State :=
  match s.service p op offAux with
  | .drop => s
  | .nack => s.addressMatch (s.ownAddress.getD 0)
  | .wait => s.onEaves fun e => { e with waiting := e.waiting ++ [i] }
  | .hold => s.onPurlin fun x => { x with held := x.held ++ [i] }
  | .busy => s.reply p op .busy []
  | .unsupported => s.reply p op .unsupported []
  | .serve =>
    let s := s.arrives p
    let (s, rc, out) := f s
    (s.onPurlin fun x => { x with served := x.served + 1 }).reply p op rc out

/-- A command whose reply may wait (R354): `f` answers a return code, or none where the reply goes out with a later event. -/
def State.deferred (s : State) (i : Instr) (p : Path) (op : Nat) (f : State → State × Option ReturnCode) : State :=
  match s.service p op false with
  | .serve =>
    let s := s.arrives p
    let (s, rc) := f s
    let s := s.onPurlin fun x => { x with served := x.served + 1 }
    match rc with
    | some rc => s.reply p op rc []
    | none => s
  | _ => s.arrive i p op false fun s => (s, .success, [])

/-- A command accepted on every path. -/
def State.command (s : State) (i : Instr) (p : Path) (op : Nat) (f : State → State × ReturnCode × List Byte) : State :=
  s.arrive i p op false f

/-- A command accepted only on the privileged paths; Unsupported on any other (R371). -/
def State.privileged (s : State) (i : Instr) (p : Path) (op : Nat) (f : State → State × ReturnCode × List Byte) : State :=
  s.arrive i p op false fun s => if Path.privileged p then f s else (s, .unsupported, [])

/-- A background command: Unsupported where the path carries none, Busy while one runs on it; `f` answers a refusal, or none
with the state in which its work has begun (R370, R376). -/
def State.background (s : State) (i : Instr) (p : Path) (op : Nat) (f : State → State × Option ReturnCode) : State :=
  s.arrive i p op false fun s =>
    if !Path.backgrounds p then (s, .unsupported, [])
    else if s.backgroundBusy (Path.carrier p) then (s, .busy, [])
    else
      let (s', r) := f (s.startBackground p op)
      match r with
      | some rc => (s, rc, [])
      | none => (s', .backgroundStarted, [])

/-- A privileged background command. -/
def State.privilegedBackground (s : State) (i : Instr) (p : Path) (op : Nat) (f : State → State × Option ReturnCode) : State :=
  s.arrive i p op false fun s =>
    if !Path.privileged p || !Path.backgrounds p then (s, .unsupported, [])
    else if s.backgroundBusy (Path.carrier p) then (s, .busy, [])
    else
      let (s', r) := f (s.startBackground p op)
      match r with
      | some rc => (s, rc, [])
      | none => (s', .backgroundStarted, [])

/-- A refusal that changes nothing. -/
def refuse (s : State) (rc : ReturnCode) : State × ReturnCode × List Byte := (s, rc, [])

/-- The status word of a command (R375): the detail, with bit 15 where a setting it should keep was not written to the log
store (R390). -/
def State.status (s : State) (detail : Nat) (keeps : Bool) : List Byte :=
  le 2 (detail + if keeps && s.purlin.log.readOnly then 0x8000 else 0)

/-! ## Device physical addresses -/

/-- The local block bound at a DPA block of a logical device. -/
def State.blockAt (s : State) (l : LdId) (ext : Nat) : Option Nat :=
  (s.xlat.dir.find? fun e => e.2.st == .bound && e.2.extent.toNat == ext && s.ownerOf e.1 == some l).map (·.1)

/-- Does a range of courses lie in the accepted capacity of a logical device, 4 KiB aligned and not empty (R94)? -/
def State.rangeOk (s : State) (l : LdId) (dpa n : Nat) : Bool :=
  dpa % 4096 == 0 && decide (1 ≤ n) && decide (dpa + 4096 * n ≤ 2 ^ 42) &&
    (List.range ((dpa + 4096 * n - 1) / blockBytes + 1 - dpa / blockBytes)).all fun i => (s.blockAt l (dpa / blockBytes + i)).isSome

/-- The local course at a DPA known to be accepted. -/
def State.courseAt (s : State) (l : LdId) (dpa : Nat) : Nat := (s.courseOf l dpa).getD 0

end Sys2Proof.Machine
end

