-- ==== Sys2Proof/Machine/FaultOps.lean ====
section
/-! DEFINITION. Faults of stored data: fault records (R279), classification (R271), hard faults of rows, fencing and
retirement decisions (R280, R282, R284, R286), all of spec/08_codes_scrub_sparing.md. -/

namespace Sys2Proof.Machine

/-! ## Fault records -/

/-- Write a fault record, or fold it into one of the 64 newest that it repeats (R279). -/
def State.recordFault (s : State) (r : FaultRecord) : State :=
  let same (x : FaultRecord) : Bool := x.slot == r.slot && x.cls == r.cls && x.first == r.first
  s.onSpare fun p =>
    let old := p.ring.take (p.ring.length - 64)
    let new := p.ring.drop (p.ring.length - 64)
    if new.any same then
      { p with ring := old ++ new.map fun x => if same x then { x with repeats := min (x.repeats + 1) 65535 } else x }
    else if p.ring.length < 65536 then { p with ring := p.ring ++ [r] }
    else { p with ring := p.ring.drop 1 ++ [r], ringBase := p.ringBase + 1 }

/-- Record a fault of a slot at the present second. -/
def State.fault (s : State) (slot cls first count source : Nat) (oneDie : Bool) : State :=
  s.recordFault { slot, cls, first, count, oneDie, seconds := s.seconds, source }

/-- Event 0801h: corrections and transients of a channel (R288). -/
def State.countCorrections (s : State) (ch corrections transients rid : Nat) : State :=
  s.raiseLimited 0x0801 ch .informational rid (le 1 ch ++ zeros 8) [(1, 4), (5, 4)] [corrections, transients] s.lds

/-! ## Where stored runs lie -/

/-- Every stored slot of a run, check members included (R67, R262, R263). -/
def Run.members (r : Run) : List Nat :=
  if r.strong then
    (List.range r.stripes).flatMap fun n =>
      ((List.range 10).filter fun m => decide (8 ≤ m) || decide (n * 8 + m < r.len)).map (memberSlot r.base n)
  else (List.range r.len).map (lightSlot r.base)

/-- Every course that holds a run, with its batten; a bundle once. -/
def State.allLive (s : State) : List (Nat × Batten) :=
  let keys := (Sparse.keys s.xlat.table ++ Sparse.keys s.xlat.cache).eraseDups
  (keys.map fun c => (c, s.batten c)).filter fun x =>
    x.2.tier != .absent && !x.2.stale (s.dirOf (x.1 / blockCourses)) && (x.2.tier != .thatched || s.bundleLead x.1 x.2)

/-- The courses of record with a slot that `p` names. -/
def State.coursesOn (s : State) (p : Nat → Bool) : List Nat :=
  (s.allLive.filter fun x => x.2.run.members.any p).map (·.1)

/-- The blocks whose table run has a slot that `p` names. -/
def State.tablesOn (s : State) (p : Nat → Bool) : List Nat :=
  (s.xlat.dir.filter fun e =>
    e.2.st != .unassigned && (tableRuns e.2.base.toNat e.2.strong).any fun r => r.members.any p).map (·.1)

/-- Does a slot lie on the storage of a decision (R280)? -/
def Retirement.covers (masks : List Nat) (r : Retirement) (a : Nat) : Bool :=
  match r with
  | .row ch rk bank line => slotRowKey masks a == rowKey ch rk bank line
  | .rank ch rk _ => slotChannel a == ch && slotRank a == rk
  | .channel ch _ => slotChannel a == ch

/-- Courses and table runs still on the storage of a decision. -/
def State.leftOn (s : State) (r : Retirement) : List Nat × List Nat :=
  (s.coursesOn (r.covers s.dram.masks), s.tablesOn (r.covers s.dram.masks))

/-- Does any course hold an overflow run (R123), which only its home slots name? -/
def State.anyOverflow (s : State) : Bool := s.allLive.any fun x => x.2.phioz && x.2.sizes.contains 5

/-- Live slots on the storage of a decision, in slots. -/
def State.liveOn (s : State) (r : Retirement) : Nat :=
  (s.allLive.map fun x => (x.2.run.members.filter (r.covers s.dram.masks)).length).sum

/-! ## Retirement -/

/-- Is F at or below the stage-3 entry mark (R286)? -/
def State.movesHeld (s : State) : Bool := decide (s.free * 1000 ≤ 20 * s.pressureCapacity)

/-- The channel, and the rank or FFh, of event 080Bh. -/
def Retirement.place : Retirement → Nat × Nat
  | .row ch rk _ _ => (ch, rk)
  | .rank ch rk _ => (ch, rk)
  | .channel ch _ => (ch, 255)

/-- The opcode of Retire Storage. -/
abbrev opRetireStorage : Nat := 0xC206

/-- Queue a table rebuild of a block, unless one waits or runs already (R91). -/
def State.wantRebuild (s : State) (block : Nat) (reason : RebuildReason) (path : Option Path) : State :=
  if (s.xlat.rebuild.map (·.block)) == some block || s.xlat.rebuildsWaiting.any (·.block == block) then s
  else s.onXlat fun x => { x with rebuildsWaiting := x.rebuildsWaiting ++ [{ block, reason, path }] }

/-- Begin the moves off retired storage, or defer them while F is low and the storage still corrects (R283, R286); nothing
lies there: the decision is done. -/
def State.startMoves (s : State) (r : Retirement) (path : Option Path) (corrects : Bool) : State :=
  let (courses, tables) := s.leftOn r
  if courses.isEmpty && tables.isEmpty && !s.anyOverflow then
    s.finishBackground path opRetireStorage .success (le 2 0 ++ zeros 10)
  else if corrects && s.movesHeld then
    let s := s.onSpare fun p => { p with deferred := p.deferred ++ [r] }
    let s := s.raiseAll 0x080B .warning (le 1 r.place.1 ++ le 1 r.place.2 ++ le 4 (s.liveOn r / 16384))
    s.finishBackground path opRetireStorage .success (le 2 1 ++ zeros 10)
  else
    let s := s.onSpare fun p => { p with moving := p.moving ++ [(r, path, 0, 0)] }
    foldState (fun s b => s.wantRebuild b .retirement none) s tables

/-- Retire a channel (R280): it leaves the allocator, event 0809h, and its charge may overrun the reserve. -/
def State.retireChannel (s : State) (ch cause : Nat) (path : Option Path) (corrects : Bool) : State :=
  if s.chRetired ch then s.finishBackground path opRetireStorage .success (le 2 0 ++ zeros 10)
  else
    let s := s.onSpare fun p => { p with channels := Sparse.set false p.channels ch true }
    let live := (s.alloc.laths.filter fun e => e.1 / 16384 == ch).map (·.2.live) |>.sum
    let s := s.raiseAll 0x0809 .warning (le 1 ch ++ le 1 cause ++ le 4 (live / 16384))
    (s.recompute.adjustPressure).startMoves (.channel ch cause) path corrects

/-- Retire a rank (R280); both ranks retired retire the channel. -/
def State.retireRank (s : State) (ch rank cause : Nat) (path : Option Path) (corrects : Bool) : State :=
  if s.rankRetired ch rank then s.finishBackground path opRetireStorage .success (le 2 0 ++ zeros 10)
  else
    let s := s.onSpare fun p => { p with ranks := Sparse.set false p.ranks (ch * 2 + rank) true }
    let s := s.raiseAll 0x0808 .warning (le 1 ch ++ le 1 rank ++ le 1 cause)
    let s := (s.adjustPressure).startMoves (.rank ch rank cause) path corrects
    if s.rankRetired ch (1 - rank) then s.retireChannel ch 1 none corrects else s

/-- Fence a row (R280, R281, R282): repaired at the next bring-up while its bank reports a repair resource, of which each
bank has one (notes/assumptions/27.md). A full list, or the rank's threshold, retires the rank. -/
def State.fenceRow (s : State) (ch rank bank row : Nat) (path : Option Path) (corrects : Bool) : State :=
  let key := rowKey ch rank bank row
  if Sparse.get false s.spare.fencedRows key then s.finishBackground path opRetireStorage .success (le 2 0 ++ zeros 10)
  else if 65536 ≤ s.spare.fencedRows.length then s.retireRank ch rank 3 path corrects
  else
    let bankKey := (ch * 2 + rank) * 8 + bank
    let repair := Sparse.get 0 s.spare.repairs bankKey = 0
    let where_ := le 1 ch ++ le 1 rank ++ le 1 bank ++ le 4 row
    let s := s.onSpare fun p =>
      { p with
        fencedRows := Sparse.set false p.fencedRows key true
        fencedSince := Sparse.modify 0 p.fencedSince (ch * 2 + rank) (· + 1)
        rowsAwaiting := if repair then Sparse.set false p.rowsAwaiting key true else p.rowsAwaiting
        repairs := if repair then Sparse.set 0 p.repairs bankKey 1 else p.repairs }
    let s := s.onChannel ch fun c => { c with holds := c.holds.filter fun h => slotRowKey s.dram.masks h.slot != key }
    let s := s.raiseAll 0x0807 .warning where_
    let s := if repair then s.raiseAll 0x0806 .informational (where_ ++ le 1 1) else s
    let s := (s.adjustPressure).startMoves (.row ch rank bank row) path corrects
    if s.spare.rankRows ≤ Sparse.get 0 s.spare.fencedSince (ch * 2 + rank) then s.retireRank ch rank 1 none corrects else s

/-- Carry out a decision. -/
def State.retire (s : State) (r : Retirement) (path : Option Path) (corrects : Bool) : State :=
  match r with
  | .row ch rank bank row => s.fenceRow ch rank bank row path corrects
  | .rank ch rank cause => s.retireRank ch rank cause path corrects
  | .channel ch cause => s.retireChannel ch cause path corrects

/-- Decide on a retirement: deferred through a pause (R384), pending under the hold while the storage still corrects
(R284), else carried out. -/
def State.judge (s : State) (r : Retirement) (corrects : Bool) : State :=
  if s.purlin.paused then s.onSpare fun p => { p with duringPause := p.duringPause ++ [(r, corrects)] }
  else if s.spare.hold && corrects then
    if s.spare.pending.contains r then s else s.onSpare fun p => { p with pending := p.pending ++ [r] }
  else s.retire r none corrects

/-! ## Hard faults -/

/-- Banks of a die with a hard fault within 24 h (R280); the die is 2 × rank number + byte parity. -/
def State.dieBanksHit (s : State) (die : Nat) : Nat :=
  ((s.spare.dieFaults.filter fun x => x.1 == die && decide (s.seconds < x.2.2 + 86400)).map (·.2.1)).eraseDups.length

/-- A hard fault of a slot counts against its row, and its die where the fault lies on one (R280). -/
def State.hardFault (s : State) (slot : Nat) (first : Option Nat) (corrects : Bool) : State :=
  let ch := slotChannel slot
  let rank := slotRank slot
  let bank := slotBank s.dram.masks slot
  let row := slotRow slot
  let key := rowKey ch rank bank row
  let s := s.onSpare fun p => { p with rowFaults := Sparse.modify 0 p.rowFaults key (· + 1) }
  let s := match first with
    | some p =>
      let die := (ch * 2 + rank) * 2 + p % 2
      let now := s.seconds
      let s := s.onSpare fun x =>
        { x with dieFaults := (x.dieFaults.filter fun f => decide (now < f.2.2 + 86400)) ++ [(die, bank, now)] }
      if s.spare.dieBanks ≤ s.dieBanksHit die && !s.rankRetired ch rank then s.judge (.rank ch rank 2) corrects else s
    | none => s
  if s.spare.rowThreshold ≤ Sparse.get 0 s.spare.rowFaults key && !Sparse.get false s.spare.fencedRows key then
    s.judge (.row ch rank bank row) corrects
  else s

/-- Urgent moves of every run in a slot's row (R271). -/
def State.urgentRow (s : State) (slot : Nat) : State :=
  let key := slotRowKey s.dram.masks slot
  let cs := s.coursesOn fun a => slotRowKey s.dram.masks a == key
  s.onSpare fun p => { p with urgent := p.urgent ++ cs.filter fun c => !p.urgent.contains c }

/-- Event 0802h. -/
def State.hardEvent (s : State) (slot cls first rid : Nat) : State :=
  s.raise 0x0802 .warning rid (le 5 slot ++ le 1 cls ++ le 1 first) s.lds

/-- The outcome of a re-read (R271): `found` is what the light code makes of the slot read again, `first` the position
corrected, `data` what the write-back stored. -/
def State.classify (s : State) (slot first : Nat) (data : List Byte) (source : Nat) (found : Gf.Verdict) : State :=
  let ch := slotChannel slot
  match found with
  | .clean =>
    let s := s.onSpare fun p => { p with transients := p.transients + 1 }
    (s.fault slot 1 first 1 source true).countCorrections ch 0 1 0xFFFF
  | .corrected p _ =>
    if p = first then
      let s := s.onSpare fun p => { p with hardSingle := p.hardSingle + 1 }
      (((s.fault slot 2 first 1 source true).hardEvent slot 2 first 0xFFFF)).hardFault slot (some first) true
    else multi s p 1 true
  | .uncorrectable => multi s 255 2 false
where
  /-- The multi-byte row of R271: the repair hold of R272 and the urgent moves of the row. -/
  multi (s : State) (p count : Nat) (oneDie : Bool) : State :=
    let ch := slotChannel slot
    let s := s.onSpare fun x => { x with hardMulti := x.hardMulti + 1 }
    let s := s.onChannel ch fun c =>
      if c.holds.length < 16 then { c with holds := c.holds ++ [{ slot, data, check := Gf.checkBytes data }] } else c
    let s := (s.fault slot 3 p count source oneDie).hardEvent slot 3 p 0xFFFF
    let s := s.urgentRow slot
    s.hardFault slot (if oneDie then some p else none) true

end Sys2Proof.Machine
end

