-- ==== Sys2Proof/Machine/ChannelOps.lean ====
section
/-! DEFINITION. A channel's command queue and posted-write buffer (spec/07_lpddr4x_channels.md R233 to R237, R246, R249 to
R254), the write-backs and re-reads of R270 and R271, and what follows a posted write. -/

namespace Sys2Proof.Machine

/-! ## The buffer -/

/-- Drain the oldest buffered write to the array (R234): a repair hold of its slot is freed (R272), and a re-read waiting for
the slot will see this data. -/
def State.drainOne (s : State) (ch : Nat) : State :=
  match (s.channel ch).buffer with
  | [] => s
  | w :: rest =>
    let s := s.storeSlot w.slot w.data w.check
    let s := s.onChannel ch fun c =>
      { c with
        buffer := rest
        drained := c.drained + 1
        holds := c.holds.filter fun h => h.slot != w.slot
        queue := c.queue.map fun e =>
          match e with
          | .reread slot first data source => if slot == w.slot then .reread slot first w.data source else .reread slot first data source
          | e => e }
    s.bump 0x0F ch

/-- Drain `n` entries. -/
def State.drainN (s : State) (ch : Nat) : Nat → State
  | 0 => s
  | n + 1 => (s.drainOne ch).drainN ch n

/-- Drain until `n` entries remain. -/
def State.drainTo (s : State) (ch n : Nat) : State := s.drainN ch ((s.channel ch).buffer.length - n)

/-- Drain the newest buffered write of a slot and all before it (R236). -/
def State.hazard (s : State) (ch slot : Nat) : State :=
  let b := (s.channel ch).buffer
  let after := (b.reverse.takeWhile fun w => w.slot != slot).length
  if after = b.length then s
  else ((s.drainN ch (b.length - after)).onChannel ch fun c => { c with hazards := c.hazards + 1 }).bump 0x10 ch

/-- Put a write in the buffer, draining one entry when it is full, and to 8 entries when it reaches 24 (R235); nothing
drains while the channel retrains (R246). -/
def State.toBuffer (s : State) (ch : Nat) (w : Posted) : State :=
  if (s.channel ch).retraining then s.onChannel ch fun c => { c with buffer := c.buffer ++ [w] }
  else
  let s := if 32 ≤ (s.channel ch).buffer.length then s.drainOne ch else s
  let s := s.onChannel ch fun c => { c with buffer := c.buffer ++ [w] }
  if 24 ≤ (s.channel ch).buffer.length then s.drainTo ch 8 else s

/-! ## What follows a post -/

/-- A stripe lock's last write is posted: the lock is free and what waited on it happens (R266). -/
def State.afterPost (s : State) (a : PostAction) : State :=
  match a with
  | .complete r => s.completeHost r
  | .cacheLine tile line mask data => s.cacheLine tile line mask.toNat data
  | .stripe _ => s

/-- What follows the post of a write (R77, R179, R266). -/
def State.posted (s : State) (a : PostAction) : State :=
  match a with
  | .stripe n =>
    match s.spare.locks.find? (·.anchor == n) with
    | none => s
    | some l =>
      if l.left ≤ 1 then
        let s := s.onSpare fun p => { p with locks := p.locks.filter (·.anchor != n) }
        foldState State.afterPost s l.onDone
      else s.onSpare fun p => { p with locks := p.locks.map fun x => if x.anchor == n then { x with left := x.left - 1 } else x }
  | a => s.afterPost a

/-- Post a write: its data and check bytes enter the buffer, and what follows happens (R234). -/
def State.post (s : State) (ch slot : Nat) (data : List Byte) (actions : List PostAction) : State :=
  foldState State.posted (s.toBuffer ch { slot, data, check := Gf.checkBytes data }) actions

/-! ## The light code -/

/-- The codeword of a slot as the array holds it. -/
def State.codeword (s : State) (slot : Nat) : List Byte := s.slotRaw slot ++ s.checkRaw slot

/-- A correction (R270): the write-back enters the buffer unless the buffer holds a write to the slot, and a re-read enters
the queue's tail behind it; a dropped write-back leaves the fault unclassified. -/
def State.writeBack (s : State) (slot first : Nat) (data : List Byte) (source rid : Nat) : State :=
  let ch := slotChannel slot
  let s := s.onSpare fun p => { p with corrections := p.corrections + 1 }
  let s := (s.bump 0x11 ch).countCorrections ch 1 0 rid
  if (s.channel ch).buffer.any fun w => w.slot == slot then
    let s := s.onSpare fun p => { p with unclassified := p.unclassified + 1 }
    s.fault slot 6 first 1 source true
  else
    let s := s.toBuffer ch { slot, data, check := Gf.checkBytes data }
    s.onChannel ch fun c => { c with queue := c.queue ++ [.reread slot first data source] }

/-- Make the re-read of R271: the write-back drains first, and the slot is classified. -/
def State.reread (s : State) (ch slot first : Nat) (data : List Byte) (source : Nat) : State :=
  let s := s.hazard ch slot
  s.classify slot first data source (Gf.verdict (s.codeword slot))

/-! ## Sleep and wake -/

/-- Does a channel execute entries: trained, in service, not in self-refresh, its group live (R251, R253)? -/
def State.executes (s : State) (ch : Nat) : Bool :=
  let c := s.channel ch
  c.trained && !c.asleep && !c.outOfService && (s.group (ch / 8)).st == .live

/-- A channel falls due for a turn of write DQ retraining (R247). -/
def State.wantTurn (s : State) (ch : Nat) : State :=
  if s.dram.turns.contains ch then s else s.onDram fun d => { d with turns := d.turns ++ [ch] }

/-- Leave self-refresh (R240, R241, R249): the mask is cleared, refresh runs at 0.25x until the first poll that follows, and
deferred maintenance runs behind the waiting entries. -/
def State.leaveSelfRefresh (s : State) (ch : Nat) : State :=
  s.onChannel ch fun c =>
    { c with asleep := false, waking := false, maskInForce := false, fast := true, queue := c.queue ++ c.deferred, deferred := [] }

/-- An entry other than a marker has entered a sleeping channel's queue: the channel wakes, or its group starts to
(R251, R253). -/
def State.wakeFor (s : State) (ch : Nat) : State :=
  if !(s.channel ch).asleep then s
  else
    match (s.group (ch / 8)).st with
    | .live => s.leaveSelfRefresh ch
    | .poweredDown =>
      let s := s.onChannel ch fun c => { c with waking := true }
      s.onGroup (ch / 8) fun g => { g with waking := true }
    | _ => s

/-! ## Maintenance -/

/-- Finish the Retrain Channel commands of a kind on a channel: drift before, and the stall (C1C7h). -/
def State.finishRetrain (s : State) (ch kind detail stallNs : Nat) : State :=
  let mine := (s.dram.commands.filter fun x => x.1 == ch && x.2.1 == kind).map fun x => x.2.2
  let s := s.onDram fun d => { d with commands := d.commands.filter fun x => !(x.1 == ch && x.2.1 == kind) }
  let out := le 2 detail ++ le 2 (s.channel ch).drift.toNat ++ le 4 stallNs
  foldState (fun s p => s.finishBackground (some p) 0xC1C7 .success out) s mine

/-- A channel goes out of service (R250): event 0705h, kind 1 retraining or 2 ZQ calibration; its queued reads are handed to
the stripe codec, its queued and buffered writes are dropped with what follows their posting, its markers execute, and it
is retired. -/
def State.takeOut (s : State) (ch kind : Nat) : State :=
  let c := s.channel ch
  let reads : List PendingRebuild := c.queue.filterMap fun e =>
    match e with
    | .read slot fetch index => some { slot, fetch, index, cause := 3 }
    | _ => none
  let writes := (c.queue.filter fun e => match e with | .write _ _ _ => true | _ => false).length + c.buffer.length
  let s := s.onChannel ch fun c =>
    { c with
      outOfService := true, retraining := false, wantsTurn := false, zqWanted := 0
      queue := [], buffer := [], deferred := [], rebuilds := c.rebuilds ++ reads }
  let s := s.onDram fun d => { d with turns := d.turns.filter (· != ch) }
  let s := s.raiseAll 0x0705 .failure (le 1 ch ++ le 1 kind ++ le 2 reads.length ++ le 2 writes)
  let s := foldState (fun s (e : QueueEntry) =>
    match e with
    | .marker n => s.markerDone ch n
    | .write _ _ actions => foldState State.posted s actions
    | .reread slot first _ source =>
      (s.onSpare fun p => { p with unclassified := p.unclassified + 1 }).fault slot 6 first 1 source true
    | _ => s) s c.queue
  let s := (s.finishRetrain ch 1 0 0).finishRetrain ch 2 0 0
  s.retireChannel ch 2 none false

/-- Mode register 4 is read (R239): a code per die of 3 bits, event 0704h for 000b and 111b. -/
def State.pollDone (s : State) (ch : Nat) (codes : BitVec 12) : State :=
  let s := s.onChannel ch fun c => { c with fast := false, codes }
  let sensor := (s.group (ch / 8)).sensor.toNat
  (foldState (fun s d =>
    let k := bits codes.toNat (3 * d + 2) (3 * d)
    if k = 0 then s.raiseAll 0x0704 .warning (le 1 ch ++ le 1 d ++ le 1 1 ++ le 2 sensor)
    else if k = 7 then s.raiseAll 0x0704 .warning (le 1 ch ++ le 1 d ++ le 1 2 ++ le 2 sensor)
    else s) s (List.range 4)).dramThermal (ch / 8) 4

/-- A ZQ calibration of one rank ends (R245); two failures in a row take the channel out of service (R250). -/
def State.zqDone (s : State) (ch : Nat) (passed : Bool) (ns : Nat) : State :=
  let c := s.channel ch
  let s := s.onChannel ch fun c =>
    { c with
      zqs := c.zqs + 1, zqFails := if passed then 0 else c.zqFails + 1
      zqWanted := c.zqWanted - 1, zqStall := if c.zqWanted = 0 then 0 else c.zqStall + ns }
  if !passed && decide (1 ≤ c.zqFails) then s.takeOut ch 2
  else if c.zqWanted = 1 then
    (s.finishRetrain ch 2 0 (c.zqStall + ns)).onChannel ch fun c => { c with zqStall := 0 }
  else s

/-- A DQS oscillator check gives the drift since the last training; above the threshold a retraining falls due (R245). -/
def State.dqsDone (s : State) (ch : Nat) (drift : BitVec 16) : State :=
  let s := s.onChannel ch fun c => { c with drift }
  if s.dram.driftPs < drift.toNat then s.wantTurn ch else s

/-! ## Executing entries -/

/-- Does the head wait for the end of a retraining (R246)? Writes enter the buffer while it has room, markers execute, and
the refresh runs inside the retraining. -/
def Channel.blocked (c : Channel) : Bool :=
  c.retraining && match c.queue.head? with
    | some (.write _ _ _) => decide (32 ≤ c.buffer.length)
    | some (.marker _) => false
    | some .refresh => false
    | _ => true

/-- Execute the entry at the head of an awake channel's queue (R233 to R237). -/
def State.execHead (s : State) (ch : Nat) : State :=
  let c := s.channel ch
  match c.queue with
  | [] => s
  | e :: rest =>
    if c.blocked then s
    else
      let s := s.onChannel ch fun c => { c with queue := rest }
      match e with
      | .read slot fetch index =>
        let s := s.hazard ch slot
        let x : InFlight := { slot, data := s.slotRaw slot, check := s.checkRaw slot, fetch, index }
        (s.onChannel ch fun c => { c with inFlight := c.inFlight ++ [x], reads := c.reads + 1 }).bump 0x0E ch
      | .write slot data actions => s.post ch slot data actions
      | .marker n => s.markerDone ch n
      | .refresh => s.onChannel ch fun c => { c with refreshAt := (c.refreshAt + 1) % 16 }
      | .modeRead codes => s.pollDone ch codes
      | .zq _ passed ns => s.zqDone ch passed ns
      | .dqsCheck drift => s.dqsDone ch drift
      | .reread slot first data source => s.reread ch slot first data source

/-- Execute heads, at most `fuel` of them. -/
def State.execMany (s : State) (ch : Nat) : Nat → State
  | 0 => s
  | n + 1 => (s.execHead ch).execMany ch n

/-- Markers at the head of a sleeping channel execute at once (R237). -/
def State.execMarkers (s : State) (ch : Nat) : Nat → State
  | 0 => s
  | n + 1 =>
    match (s.channel ch).queue with
    | .marker _ :: _ => (s.execHead ch).execMarkers ch n
    | _ => s

/-- Work off a channel's queue: an awake channel executes every entry in order; a sleeping one its leading markers. -/
def State.runChannel (s : State) (ch : Nat) : State :=
  let n := (s.channel ch).queue.length
  if s.executes ch then s.execMany ch n else s.execMarkers ch n

/-! ## Entering work -/

/-- Enter a slot read for a fetch (R233); the channel wakes if it sleeps. -/
def State.enterRead (s : State) (slot fetch index : Nat) : State :=
  let ch := slotChannel slot
  (s.onChannel ch fun c => { c with queue := c.queue ++ [.read slot fetch index] }).wakeFor ch

/-- Enter a slot write: on an awake channel it posts in this step, behind every entry before it; on a sleeping channel with
no entry waiting it enters the buffer at once and the channel wakes (R234, R253). A write to storage that no channel serves
is dropped: the stripe holds it (R269), and what follows its post happens. -/
def State.enterWrite (s : State) (slot : Nat) (data : List Byte) (actions : List PostAction) : State :=
  let ch := slotChannel slot
  if (s.channel ch).outOfService then foldState State.posted s actions
  else if s.executes ch then
    (s.onChannel ch fun c => { c with queue := c.queue ++ [.write slot data actions] }).runChannel ch
  else if (s.channel ch).queue.isEmpty then (s.post ch slot data actions).wakeFor ch
  else (s.onChannel ch fun c => { c with queue := c.queue ++ [.write slot data actions] }).wakeFor ch

/-- The newest data that a slot will hold: a queued write, a buffered write, or none, so that the array is read. -/
def State.pendingData (s : State) (slot : Nat) : Option (List Byte) :=
  let c := s.channel (slotChannel slot)
  let queued := c.queue.filterMap fun e =>
    match e with
    | .write a data _ => if a == slot then some data else none
    | _ => none
  match queued.getLast? with
  | some d => some d
  | none => ((c.buffer.filter fun w => w.slot == slot).getLast?).map (·.data)

end Sys2Proof.Machine
end

