-- ==== Sys2Proof/Machine/SlotOps.lean ====
section
/-! DEFINITION. Reading and writing slots under the codes (spec/08_codes_scrub_sparing.md R258 to R274) and the flashing
engine's encryption and write counters (spec/06_flashing.md R192 to R197, R212 to R215). -/

namespace Sys2Proof.Machine

/-! ## One slot under the light code -/

/-- Read a slot under its light code: a queued or buffered write is the newest data; else the array's codeword is clean,
corrected with its write-back, answered from the repair hold, or uncorrectable (none). A sleeping channel wakes. -/
def State.readLight (s : State) (slot source rid : Nat) : State × Option (List Byte) :=
  let ch := slotChannel slot
  let s := (s.wakeFor ch).bump 0x0E ch
  let s := s.onChannel ch fun c => { c with reads := c.reads + 1 }
  match s.pendingData slot with
  | some d => (s, some d)
  | none =>
    match Gf.correct (s.codeword slot) with
    | (.clean, d) => (s, d)
    | (.corrected p _, some d) => (s.writeBack slot p d source rid, some d)
    | (_, _) =>
      match (s.channel ch).holds.find? fun h => h.slot == slot with
      | some h => (s.onSpare fun p => { p with corrections := p.corrections + 1 }, some h.data)
      | none => (s, none)

/-- An uncorrectable slot (R274): fault record, event 0803h, and a hard fault of its row. -/
def State.badSlot (s : State) (slot area course mask source rid : Nat) (lds : List LdId) : State :=
  let s := s.onSpare fun p => { p with uncorrectable := p.uncorrectable + 1 }
  let s := s.fault slot 4 255 0 source false
  let s := s.raise 0x0803 .failure rid (le 5 slot ++ le 1 area ++ le 4 course ++ le 1 mask) lds
  s.hardFault slot none false

/-! ## Stripes -/

/-- Does member `m` of stripe `n` of a run hold a slot (R263)? -/
def Run.used (r : Run) (n m : Nat) : Bool := decide (8 ≤ m) || decide (n * 8 + m < r.len)

/-- Why a stripe slot is not read from its channel (R248, R267), by the causes of event 0804h: 2 retraining, 3 retired or out
of service. Storage whose retirement is deferred stays in service (R286). -/
def State.slotGone (s : State) (slot : Nat) : Option Nat :=
  let ch := slotChannel slot
  let deferred := s.spare.deferred.any fun r => r.covers s.dram.masks slot
  if (s.channel ch).outOfService then some 3
  else if (s.chRetired ch || s.rankRetired ch (slotRank slot)) && !deferred then some 3
  else if (s.channel ch).retraining then some 2
  else none

/-- One member of a stripe under its own light code; an unused member counts as zeros. -/
def State.readMember (s : State) (r : Run) (n m source rid : Nat) : State × Option (List Byte) :=
  let slot := memberSlot r.base n m
  if !r.used n m then (s, some (zeros 64))
  else if (s.slotGone slot).isSome then (s, none)
  else s.readLight slot source rid

/-- Members of a stripe from a list of numbers; the member `skip` is not read. -/
def State.readMembers (s : State) (r : Run) (n source rid : Nat) (skip : Option Nat) : List Nat → State × List (Option (List Byte))
  | [] => (s, [])
  | m :: rest =>
    let (s, x) := if skip == some m then (s, none) else s.readMember r n m source rid
    let (s, xs) := s.readMembers r n source rid skip rest
    (s, x :: xs)

/-- Send a rebuilt or corrected slot back to its channel as a write entry with a re-read behind it, unless a write to it is
buffered already or its storage is retired (R267, R270, R271). -/
def State.sendBack (s : State) (slot : Nat) (data : List Byte) (source : Nat) : State :=
  let ch := slotChannel slot
  if s.slotGone slot == some 3 then s
  else if (s.pendingData slot).isSome then
    (s.onSpare fun p => { p with unclassified := p.unclassified + 1 }).fault slot 6 255 0 source false
  else
    let s := s.enterWrite slot data []
    s.onChannel ch fun c => { c with queue := c.queue ++ [.reread slot 255 data source] }

/-- Event 0804h. -/
def State.rebuiltEvent (s : State) (slot cause rid : Nat) : State :=
  (s.onSpare fun p => { p with rebuilt := p.rebuilt + 1 }).raise 0x0804 .warning rid (le 5 slot ++ le 1 cause) s.lds

/-- Event 0805h: the stripe is uncorrectable; the members that failed. -/
def State.stripeBad (s : State) (r : Run) (n mask rid : Nat) : State :=
  s.raise 0x0805 .failure rid (le 5 (memberSlot r.base n 0) ++ le 2 mask) s.lds

/-- Rebuild member `m` of stripe `n` from the other nine, verified (R267). -/
def State.rebuildMember (s : State) (r : Run) (n m cause source rid : Nat) : State × Option (List Byte) :=
  let (s, xs) := s.readMembers r n source rid (some m) (List.range 10)
  let lost := (xs.zipIdx.filter fun x => x.1.isNone).map (·.2)
  let slot := memberSlot r.base n m
  if lost != [m] then (s.stripeBad r n ((lost.map fun i => 2 ^ i).sum) rid, none)
  else
    match Gf.rebuild (xs.map fun x => x.getD (zeros 64)) m with
    | none => (s.stripeBad r n (2 ^ m) rid, none)
    | some d => (((s.rebuiltEvent slot cause rid).sendBack slot d source).cost 18 0 0, some d)

/-- Data slot `k` of a run (R258, R267): its ciphertext, or none where it is uncorrectable. -/
def State.readSlot (s : State) (r : Run) (k source rid : Nat) : State × Option (List Byte) :=
  let slot := r.slot k
  if r.strong then
    match s.slotGone slot with
    | some cause => s.rebuildMember r (k / 8) (k % 8) cause source rid
    | none =>
      match s.readLight slot source rid with
      | (s, some d) => (s, some d)
      | (s, none) => s.rebuildMember r (k / 8) (k % 8) 1 source rid
  else if (s.channel (slotChannel slot)).outOfService then (s, none)
  else s.readLight slot source rid

/-- Every data member of stripe `n`, verified as a whole-stripe read verifies (R268): a lost member is rebuilt, a wrong one
located and corrected; where that fails the members concerned are none. -/
def State.readStripe (s : State) (r : Run) (n source rid : Nat) : State × List (Option (List Byte)) :=
  let (s, xs) := s.readMembers r n source rid none (List.range 10)
  let lost := (xs.zipIdx.filter fun x => x.1.isNone).map (·.2)
  let full := xs.map fun x => x.getD (zeros 64)
  let width := min 8 (r.len - n * 8)
  match lost with
  | [] =>
    match Gf.locate full with
    | none => (s, (full.take width).map some)
    | some m =>
      if m < 10 && r.used n m then
        let others := full.set m (zeros 64)
        let good := if m < 8 then xorBytes (full.getD 8 []) (Gf.sumMembers (others.take 8))
          else if m = 8 then Gf.checkP (full.take 8) else Gf.checkQ (full.take 8)
        let slot := memberSlot r.base n m
        let s := s.onSpare fun p => { p with mismatches := p.mismatches + 1 }
        let s := s.fault slot 5 255 0 source false
        let s := (s.raise 0x0804 .warning rid (le 5 slot ++ le 1 4) s.lds).sendBack slot good source
        (s, ((full.set m good).take width).map some)
      else (s.stripeBad r n 0 rid, List.replicate width none)
  | [m] =>
    match Gf.rebuild full m with
    | none => (s.stripeBad r n (2 ^ m) rid, xs.take width)
    | some d =>
      let slot := memberSlot r.base n m
      let cause := (s.slotGone slot).getD 1
      let s := (s.rebuiltEvent slot cause rid).sendBack slot d source
      (s, ((full.set m d).take width).map some)
  | _ => (s.stripeBad r n ((lost.map fun i => 2 ^ i).sum) rid, xs.take width)

/-- Stripes from `n` on. -/
def State.readStripes (s : State) (r : Run) (source rid : Nat) : List Nat → State × List (Option (List Byte))
  | [] => (s, [])
  | n :: rest =>
    let (s, a) := s.readStripe r n source rid
    let (s, b) := s.readStripes r source rid rest
    (s, a ++ b)

/-- Data slots of a run, one by one under `readSlot`. -/
def State.readSlots (s : State) (r : Run) (source rid : Nat) : List Nat → State × List (Option (List Byte))
  | [] => (s, [])
  | k :: rest =>
    let (s, a) := s.readSlot r k source rid
    let (s, b) := s.readSlots r source rid rest
    (s, a :: b)

/-- The whole run as a pass reads it: in whole stripes where it is strong-coded (R268, R275). -/
def State.readRun (s : State) (r : Run) (source rid : Nat) : State × List (Option (List Byte)) :=
  if r.strong then s.readStripes r source rid (List.range r.stripes) else s.readSlots r source rid (List.range r.len)

/-! ## Writing -/

/-- The stripe lock of a stripe: the slot of data member 0 names it (R266). -/
def Run.stripeName (r : Run) (n : Nat) : Nat := memberSlot r.base n 0

/-- Is a stripe's lock held, or are all 128 locks held (R266)? -/
def State.stripeBusy (s : State) (r : Run) (n : Nat) : Bool :=
  r.strong && (s.spare.locks.any (fun l => l.anchor == r.stripeName n) || decide (128 ≤ s.spare.locks.length))

/-- Is any stripe of a run locked, so that a pass over it waits (R266)? -/
def State.runBusy (s : State) (r : Run) : Bool :=
  r.strong && (List.range r.stripes).any fun n => s.spare.locks.any fun l => l.anchor == r.stripeName n

/-- Write one stored slot of a stripe unless its storage is lost: the checks hold it (R269). -/
def State.writeMember (s : State) (slot : Nat) (data : List Byte) (actions : List PostAction) : State :=
  if s.slotGone slot == some 3 then foldState State.posted s actions else s.enterWrite slot data actions

/-- Write data members of a stripe with its new checks P and Q; the lock is held until the last is posted, and `onDone`
follows (R265, R266). -/
def State.writeChecked (s : State) (r : Run) (n : Nat) (writes : List (Nat × List Byte)) (p q : List Byte) (onDone : List PostAction) : State :=
  let name := r.stripeName n
  let s := s.onSpare fun x => { x with locks := x.locks ++ [{ anchor := name, left := writes.length + 2, onDone }] }
  let s := foldState (fun s w => s.writeMember (memberSlot r.base n w.1) w.2 [.stripe name]) s writes
  let s := s.writeMember (memberSlot r.base n 8) p [.stripe name]
  s.writeMember (memberSlot r.base n 9) q [.stripe name]

/-- Write every used data member of a stripe: P and Q are computed afresh (R265). -/
def State.writeStripe (s : State) (r : Run) (n : Nat) (data : List (List Byte)) (onDone : List PostAction) : State :=
  let writes := ((List.range 8).filter fun m => r.used n m).map fun m => (m, data.getD m (zeros 64))
  s.writeChecked r n writes (Gf.checkP data) (Gf.checkQ data) onDone

/-- A write of some data members of a stripe: a delta update over the old slots, P and Q; where one of them cannot be had,
every other data member is read and P and Q are written afresh (R265). A member that no code gives counts as zeros. -/
def State.updateStripe (s : State) (r : Run) (n : Nat) (writes : List (Nat × List Byte)) (rid : Nat) (onDone : List PostAction) : State :=
  let put (data : List (List Byte)) : List (List Byte) := writes.foldl (fun d w => d.set w.1 w.2) data
  let used := (List.range 8).filter fun m => r.used n m
  if used.all fun m => writes.any (·.1 == m) then s.writeStripe r n (put (List.replicate 8 (zeros 64))) onDone
  else
    let (s, olds) := s.readSlots r 6 rid (writes.map fun w => n * 8 + w.1)
    let (s, p) := s.readMember r n 8 6 rid
    let (s, q) := s.readMember r n 9 6 rid
    match olds.all Option.isSome, p, q with
    | true, some p, some q =>
      let deltas := List.zipWith (fun w o => (w.1, xorBytes w.2 (o.getD (zeros 64)))) writes olds
      let p := deltas.foldl (fun a d => xorBytes a d.2) p
      let q := deltas.foldl (fun a d => xorBytes a (Gf.scale d.1 d.2)) q
      s.writeChecked r n writes p q onDone
    | _, _, _ =>
      let others := used.filter fun m => !writes.any (·.1 == m)
      let (s, xs) := s.readSlots r 6 rid (others.map fun m => n * 8 + m)
      let base := (others.zip xs).foldl (fun d x => d.set x.1 (x.2.getD (zeros 64))) (List.replicate 8 (zeros 64))
      let data := put base
      s.writeChecked r n writes (Gf.checkP data) (Gf.checkQ data) onDone

/-- Write data slots of a run (index in the run, ciphertext); `onDone` follows the last post. A light-coded run's last slot
carries it; each stripe of a strong-coded run is one update. -/
def State.writeSlots (s : State) (r : Run) (writes : List (Nat × List Byte)) (rid : Nat) (onDone : List PostAction) : State :=
  if writes.isEmpty then foldState State.posted s onDone
  else if r.strong then
    let stripes := (writes.map fun w => w.1 / 8).eraseDups
    foldState (fun s n =>
      let mine := (writes.filter fun w => w.1 / 8 == n).map fun w => (w.1 % 8, w.2)
      s.updateStripe r n mine rid (if some n == stripes.getLast? then onDone else [])) s stripes
  else
    let last := writes.length - 1
    foldState (fun s w => s.enterWrite (r.slot w.1.1) w.1.2 (if w.2 = last then onDone else [])) s writes.zipIdx

/-- Write a whole run of ciphertext: P and Q are computed with no reads (R265). -/
def State.writeRun (s : State) (r : Run) (cts : List (List Byte)) : State :=
  if r.strong then
    foldState (fun s n =>
      let data := ((List.range 8).map fun m => cts.getD (n * 8 + m) (zeros 64))
      s.writeStripe r n data []) s (List.range r.stripes)
  else foldState (fun s x => s.enterWrite (r.slot x.2) x.1 []) s cts.zipIdx

/-! ## Encryption -/

/-- The key of a generation of a context, K1 and K2. -/
def State.keyOf (s : State) (ctx : Nat) (gen : Bool) : List Byte := ((s.ctx ctx).gen gen).key

/-- Encrypt a slot of a course (R192, R194, R197). -/
def State.encrypt (s : State) (ctx : Nat) (gen : Bool) (tier : Tier) (ordinal course : Nat) (plain : List Byte) : List Byte :=
  let k := s.keyOf ctx gen
  Crypto.xtsEnc (k.take 32) (k.drop 32) (courseTweak gen tier ordinal s.homeId course) plain

/-- Decrypt a slot of a course. -/
def State.decrypt (s : State) (ctx : Nat) (gen : Bool) (tier : Tier) (ordinal course : Nat) (cipher : List Byte) : List Byte :=
  let k := s.keyOf ctx gen
  Crypto.xtsDec (k.take 32) (k.drop 32) (courseTweak gen tier ordinal s.homeId course) cipher

/-- With no pass running, the pass of the context at the head of the rekey queue begins (R216). -/
def State.nextPass (s : State) : State :=
  match s.flash.pass, s.flash.queue with
  | none, c :: rest => s.onFlash fun f => { f with pass := some { ctx := c }, queue := rest }
  | _, _ => s

/-- Start a rekey of a context (R213): deferred while the other generation retires; reason 1 counter, 2 command. -/
def State.startRekeyOf (s : State) (c reason : Nat) : State :=
  let x := s.ctx c
  let other := x.gen (!x.cur)
  if other.st == .retiring then s.onCtx c fun x => { x with deferred := true }
  else
    let loaded := other.st == .loaded
    let (key, s) := if loaded then (other.key, s) else s.drawKey
    let s := s.onCtx c fun x =>
      let y := x.setGen (!x.cur) { x.gen (!x.cur) with st := .loaded, key }
      let z := y.setGen x.cur { y.gen x.cur with st := .retiring }
      { z with cur := !x.cur, rekey := true, deferred := false }
    let s := (s.onFlash fun f => { f with queue := f.queue ++ [c] }).nextPass
    s.raise 0x0604 .informational 0xFFFF
      (le 2 c ++ le 1 (b2n (!x.cur)) ++ le 1 reason ++ le 1 (if loaded then 1 else 2)) (s.ctxLogs c)

/-- Count slots encrypted under a generation (R212), with the rekey mark of R213 and the limit of R215 and R217. -/
def State.countWrites (s : State) (c : Nat) (gen : Bool) (n : Nat) : State :=
  let s := s.onFlash fun f => { f with encrypted := f.encrypted + n }
  let s := s.onCtx c fun x =>
    let g := x.gen gen
    x.setGen gen { g with counter := min (g.counter + n) (2 ^ 44 - 1) }
  let x := s.ctx c
  let g := x.gen gen
  let retiring := (x.gen (!x.cur)).st == .retiring
  let overrun := gen == x.cur && retiring
  let s := if x.limit ≤ g.counter && !g.limitRaised && (g.st == .retiring || overrun) then
      let s := s.onCtx c fun x => x.setGen gen { x.gen gen with limitRaised := true }
      s.raise 0x0606 .warning 0xFFFF (le 2 c ++ le 1 (b2n gen) ++ le 1 (b2n overrun)) (s.ctxLogs c)
    else s
  if gen == x.cur && g.st == .loaded && decide (x.limit - x.limit / 8 ≤ g.counter) then
    if retiring then s.onCtx c fun x => { x with deferred := true } else s.startRekeyOf c 1
  else s

/-- Must a pass that encrypts slots of a course re-encrypt it first: its generation retires and has reached the limit
(R215)? -/
def State.mustMoveGen (s : State) (b : Batten) : Bool :=
  let x := s.ctx b.ctx.toNat
  let g := x.gen b.gen
  g.st == .retiring && decide (x.limit ≤ g.counter)

/-- Encrypt slots of a course, given as (ordinal, plaintext), counting them (R212). -/
def State.encryptAll (s : State) (ctx : Nat) (gen : Bool) (tier : Tier) (course : Nat) (slots : List (Nat × List Byte)) : State × List (List Byte) :=
  let cts := slots.map fun x => s.encrypt ctx gen tier x.1 course x.2
  (s.countWrites ctx gen slots.length, cts)

end Sys2Proof.Machine
end

