-- ==== Sys2Proof/Machine/BattenOps.lean ====
section
/-! DEFINITION. The batten table and the batten cache (spec/02_battens_and_tiers.md R61 to R65, R72 to R78), lost courses,
blocks made absent (R88, R90), and placing a block's table run (R72, R73, R83). -/

namespace Sys2Proof.Machine

/-! ## What a change to a course touches -/

/-- A slot write, batten change or epoch change to a course marks the engine's bundle touched (R141) and the watch table
entry of a stopped job dirty (R142). -/
def State.touchBundle (s : State) (course : Nat) : State :=
  let b := course / 4
  s.onPlace fun p =>
    { p with
      engines := p.engines.map fun e =>
        match e with
        | .job entry bundle tiles touched => .job entry bundle tiles (touched || bundle == b)
        | e => e
      jobs := p.jobs.map fun j => if j.2.historyValid && j.2.next / 4 == b then (j.1, { j.2 with dirty := true }) else j }

/-- A request that reaches the translation unit for a course of a bundle being thatched makes the job let go (R141). -/
def State.touchEngine (s : State) (course : Nat) : State :=
  let b := course / 4
  s.onPlace fun p =>
    { p with
      engines := p.engines.map fun e =>
        match e with
        | .job entry bundle tiles touched => .job entry bundle tiles (touched || bundle == b)
        | e => e }

/-- A tier trace record (R477). -/
def State.traceTier (s : State) (sub course : Nat) (old new : Tier) (len : Nat) : State :=
  s.trace 2 sub 0xFFFF 0xFFFF (le 4 course ++ le 1 old.code ++ le 1 new.code ++ le 1 len)

/-! ## The cache -/

/-- A cached batten. -/
def State.cachedBatten (s : State) (course : Nat) : Option CachedBatten := Sparse.find s.xlat.cache course
/-- Store a cache way. -/
def State.setCached (s : State) (course : Nat) (c : CachedBatten) : State :=
  s.onXlat fun x => { x with cache := Sparse.insert x.cache course c }

/-- Put a batten in the table (R74). -/
def State.setTable (s : State) (course : Nat) (b : Batten) : State :=
  s.onXlat fun x => { x with table := Sparse.set {} x.table course b }

/-- Write back a cached batten if it is dirty (R74). -/
def State.writeBackBatten (s : State) (course : Nat) : State :=
  match s.cachedBatten course with
  | some c => if c.dirty then (s.setTable course c.batten).setCached course { c with dirty := false } else s
  | none => s

/-- Take a batten out of the cache, written back. -/
def State.evictBatten (s : State) (course : Nat) : State :=
  (s.writeBackBatten course).onXlat fun x => { x with cache := Sparse.erase x.cache course }

/-- The way that a missed batten takes in its set: a free one, or that of the lowest heat among ways not locked, the
lowest-numbered among equals (R74). The course that leaves, if one does. -/
def State.battenWay (s : State) (course : Nat) : Option (Nat × Option Nat) :=
  let set := s.xlat.cache.filter fun e => e.1 % 65536 == course % 65536
  match firstFrom (fun w => !(set.any fun e => e.2.way == w)) 16 0 with
  | some w => some (w, none)
  | none =>
    let better (a b : Nat × CachedBatten) : Bool :=
      decide (b.2.batten.heat.toNat < a.2.batten.heat.toNat) || (b.2.batten.heat == a.2.batten.heat && decide (b.2.way < a.2.way))
    let best := (set.filter fun e => !e.2.locked).foldl (fun (x : Option (Nat × CachedBatten)) e =>
      match x with
      | none => some e
      | some a => if better a e then some e else some a) none
    best.map fun e => (e.2.way, some e.1)

/-! ## Lost courses -/

/-- Change the count of courses a context owns (R202). -/
def State.ownCount (s : State) (ctx : Nat) (up : Bool) : State :=
  s.onCtx ctx fun x => { x with courses := if up then x.courses + 1 else x.courses - 1 }

/-- A course becomes lost (R78): its batten is absent with poison present, its 64 lines are listed as one entry, its cached
tiles are invalidated; its slots stay counted in use. The count of a live course's context falls. -/
def State.loseCourse (s : State) (course : Nat) : State :=
  let b := s.batten course
  let live := b.tier != .absent && !b.stale (s.dirOf (course / blockCourses))
  let s := if live then s.ownCount b.ctx.toNat false else s
  let lost := Batten.none true
  let s := match s.cachedBatten course with
    | some c => s.setCached course { c with batten := lost, dirty := true, locked := false }
    | none => s.setTable course lost
  let (h, base) := s.poisonHome course
  let s := (s.unlist h base 64).enlist h { dpa := base, len := 64 }
  let s := s.invalidateCourse course
  (s.traceTier 7 course b.tier .absent 0).touchBundle course

/-- Event 0202h for courses of a block that were lost together. -/
def State.lostEvent (s : State) (block first count : Nat) : State :=
  s.raise 0x0202 .failure 0xFFFF (le 2 block ++ le 2 first ++ le 2 count) (s.blockLogs block)

/-! ## Table slots -/

/-- The error pattern lying on a table slot (R259): the codeword's 68 bytes, all zero where there is none. -/
def State.tableError (s : State) (slot : Nat) : List Byte := Sparse.get [] s.xlat.tableErrors slot
/-- A table slot rewritten holds no error. -/
def State.clearTableError (s : State) (slot : Nat) : State :=
  s.onXlat fun x => { x with tableErrors := Sparse.erase x.tableErrors slot }
/-- Is an error pattern more than the light code corrects? The code is linear, so a pattern's verdict is that of any codeword
it lies on. -/
def tooMany (e : List Byte) : Bool := !e.isEmpty && Gf.verdict (slice e 0 68) == .uncorrectable

/-- Read the table slot of a course (R78, R270): a pattern that the light code corrects is written back; one that it does not
is rebuilt from its stripe where the run has one and no other member fails, else the slot's battens are lost. -/
def State.readTableSlot (s : State) (course source : Nat) : State :=
  let block := course / blockCourses
  let e := s.dirOf block
  if e.st = .unassigned then s
  else
    let slot := tableSlot e (course % blockCourses)
    let err := s.tableError slot
    if err.isEmpty then s
    else if !tooMany err then
      let first := match Gf.verdict (slice err 0 68) with
        | .corrected p _ => p
        | _ => 255
      let s := s.onSpare fun p => { p with corrections := p.corrections + 1, transients := p.transients + 1 }
      let s := (s.bump 0x11 (slotChannel slot)).countCorrections (slotChannel slot) 1 1 0xFFFF
      (s.clearTableError slot).fault slot 1 first 1 source true
    else
      let k := course % blockCourses / 4
      let others := (List.range 10).filter fun m => e.strong && m != k % 8
      if e.strong && others.all fun m => !tooMany (s.tableError (memberSlot e.base.toNat (k / 8) m)) then
        let s := s.clearTableError slot
        let s := s.onSpare fun p => { p with rebuilt := p.rebuilt + 1 }
        let s := s.fault slot 1 255 0 source false
        s.raise 0x0201 .warning 0xFFFF (le 2 block ++ le 5 slot) (s.blockLogs block)
      else
        let s := (s.clearTableError slot).badSlot slot 3 (course / 4 * 4) 0 source 0xFFFF (s.blockLogs block)
        let s := foldState State.loseCourse s ((List.range 4).map fun i => course / 4 * 4 + i)
        s.lostEvent block (course / 4 * 4 % blockCourses) 4

/-- Look a batten up (R74, R78): a hit counts; a miss reads its table slot and takes a way, whose dirty batten is written
back. An invalid batten is a lost course. The batten is then cached, unless every way of its set is locked. -/
def State.loadBatten (s : State) (course source : Nat) : State :=
  match s.cachedBatten course with
  | some _ => s.onXlat fun x => { x with hits := x.hits + 1 }
  | none =>
    let s := (s.onXlat fun x => { x with misses := x.misses + 1 }).bump 0x07 0xFFFF
    let s := s.readTableSlot course source
    let s := if (s.batten course).valid then s
      else (s.loseCourse course).lostEvent (course / blockCourses) (course % blockCourses) 1
    match s.battenWay course with
    | none => s
    | some (w, out) =>
      let s := match out with
        | some c => s.evictBatten c
        | none => s
      s.setCached course { way := w, batten := Sparse.get {} s.xlat.table course }

/-- Commit a batten whose slots or tier changed (R76): in the cache, dirty; a course that is not cached is written to the
table. -/
def State.commit (s : State) (course : Nat) (b : Batten) : State :=
  let s := match s.cachedBatten course with
    | some c => s.setCached course { c with batten := b, dirty := true }
    | none => s.setTable course b
  s.touchBundle course

/-- Change only heat or owner class (R77). -/
def State.commitHeat (s : State) (course : Nat) (f : Batten → Batten) : State :=
  match s.cachedBatten course with
  | some c => s.setCached course { c with batten := f c.batten, dirty := true }
  | none => s.setTable course (f (s.batten course))

/-- Lock or unlock a course's way (R76). -/
def State.lockBatten (s : State) (course : Nat) (v : Bool) : State :=
  match s.cachedBatten course with
  | some c => s.setCached course { c with locked := v }
  | none => s
/-- Is a course locked? -/
def State.isLocked (s : State) (course : Nat) : Bool :=
  match s.cachedBatten course with
  | some c => c.locked
  | none => false

/-- What every lookup sees of a course (R64): a stale batten is absent; so is every course of a block whose table is being
swapped or is not in force (R59, R90). -/
def State.view (s : State) (course : Nat) : Batten :=
  let e := s.dirOf (course / blockCourses)
  let b := s.batten course
  if e.st != .bound && e.st != .filling then {}
  else if b.stale e then {} else b

/-- Set or clear poison present as the list has it (R121). -/
def State.syncPoison (s : State) (course : Nat) : State :=
  let p := s.courseListed course
  if (s.batten course).poison == p then s else s.commit course { s.batten course with poison := p }

/-! ## Runs of a course -/

/-- The Phioz overflow runs of a course cannot be named from its batten: their slots lie in the pointer forms (R123). Each
is freed by the tile that names it. -/
def State.freeRunOf (s : State) (b : Batten) : State := s.release b.run

/-! ## Placing a table run -/

/-- The lath of a light-coded table run (R73): the first channel pair of a joined group, in turn, with a lath number empty on
both: the pair's even channel, and the lath. -/
def State.lightTablePlace (s : State) : Option (Nat × Nat) :=
  let pairs := (inTurn s.alloc.lastChannel).filter fun ch => ch % 2 == 0 && s.channelServes ch && s.channelServes (ch + 1)
  pairs.findSome? fun ch =>
    (firstFrom (fun l => (s.lath ch l).st == .empty && (s.lath (ch + 1) l).st == .empty
      && (s.lightFit ch l 8192 0) == some 0 && (s.lightFit (ch + 1) l 8192 0) == some 0) s.laths 0).map fun l => (ch, l)

/-- A new table run for a block: under the strong code, else in the light form of R73 with event 0205h (R72, R73, R83). None
where neither can be placed. -/
def State.allocTable (s : State) (block : Nat) : State × Option (Nat × Bool) :=
  let (s, r) := if 2 ≤ s.joinedCount && s.strongReady then s.allocStrong 16384 else (s, none)
  match r with
  | some r => (s.adjustPressure, some (r.base, true))
  | none =>
    match s.lightTablePlace with
    | none => (s, none)
    | some (ch, l) =>
      let x : Lath := { st := .closed, live := 8192, fill := 8192 }
      let s := (s.onLath (lathKey ch l) fun _ => x).onLath (lathKey (ch + 1) l) fun _ => x
      let s := s.onAlloc fun a => { a with lastChannel := ch + 1 }
      let s := s.raise 0x0205 .warning 0xFFFF (le 2 block) (s.blockLogs block)
      (s.adjustPressure, some (slotAddress ch l 0, false))

/-- Free a table run under R86. -/
def State.freeTable (s : State) (base : Nat) (strong : Bool) : State :=
  let runs := tableRuns base strong
  let s := if s.xlat.tableErrors.isEmpty then s
    else s.onXlat fun x => { x with tableErrors := x.tableErrors.filter fun e => !runs.any fun r => r.members.contains e.1 }
  foldState State.release s runs

/-! ## Blocks made absent -/

/-- The courses of a block that the table or the cache lists. -/
def State.listedCourses (s : State) (block : Nat) : List Nat :=
  ((Sparse.keys s.xlat.table ++ Sparse.keys s.xlat.cache).filter fun c => c / blockCourses == block).eraseDups

/-- Every live course of a block leaves its context's count (R202). -/
def State.uncountBlock (s : State) (block : Nat) : State :=
  let e := s.dirOf block
  foldState (fun s c =>
    let b := s.batten c
    if b.tier != .absent && !b.stale e then s.ownCount b.ctx.toNat false else s) s (s.listedCourses block)

/-- Take a block's lines off the poison list, and its lost courses back to absent, when the block becomes absent
(notes/assumptions/28.md). -/
def State.clearBlockPoison (s : State) (block : Nat) : State :=
  let (h, base) := s.poisonHome (block * blockCourses)
  let s := s.unlist h base (blockCourses * 64)
  foldState (fun s c =>
    let b := s.batten c
    if b.tier == .absent && b.poison then
      match s.cachedBatten c with
      | some x => s.setCached c { x with batten := {}, dirty := true }
      | none => s.setTable c {}
    else s) s (s.listedCourses block)

/-- The engines and watch table see every course of a block change. -/
def State.touchBlock (s : State) (block : Nat) : State :=
  s.onPlace fun p =>
    { p with
      engines := p.engines.map fun e =>
        match e with
        | .job entry bundle tiles touched => .job entry bundle tiles (touched || bundle / 16384 == block)
        | e => e
      jobs := p.jobs.map fun j => if j.2.historyValid && j.2.next / blockCourses == block then (j.1, { j.2 with dirty := true }) else j }

/-- Advance the epoch of a block: every batten is stale at once and a walk is pending (R88). Gathers are closed before. -/
def State.advanceEpoch (s : State) (block : Nat) : State :=
  let s := (s.uncountBlock block).clearBlockPoison block
  let s := s.onDir block fun e => { e with epoch := e.epoch + 1, walks := e.walks + 1 }
  s.touchBlock block

/-- Place the new table run of a swap where it has none, ahead of every other placement (R90 step 1). -/
def State.placeSwap (s : State) (block : Nat) : State :=
  let (s, r) := s.allocTable block
  match r with
  | none => s.unplaced 1 block
  | some (base, strong) =>
    let s := s.onDir block fun e => { e with base := BitVec.ofNat 35 base, strong }
    s.onXlat fun x => { x with swaps := x.swaps.map fun w => if w.block == block then { w with placed := true } else w }

/-- Begin a table swap (R90): the block's courses are absent at once; its old table with the cached battens in place of the
table's copies passes to the drain walk; a walk or rebuild running in the block stops. -/
def State.beginSwap (s : State) (block : Nat) (bound : Bool) : State :=
  let s := (s.uncountBlock block).clearBlockPoison block
  let e := s.dirOf block
  let old := (s.listedCourses block).filterMap fun c =>
    let b := s.batten c
    if b.tier == .absent then none else some (c, b)
  let s := match s.xlat.rebuild with
    | some r =>
      if r.block == block then
        let s := if r.begun then s.freeTable r.base r.strong else s
        let s := s.finishBackground r.path 0xC082 .success (le 2 2 ++ zeros 2 ++ le 4 r.copied ++ le 4 r.freed)
        s.onXlat fun x => { x with rebuild := none }
      else s
    | none => s
  let s := s.onXlat fun x =>
    { x with
      clearing := match x.clearing with
        | some c => if c.block == block then none else some c
        | none => none
      table := x.table.filter fun b => b.1 / blockCourses != block
      cache := x.cache.filter fun b => b.1 / blockCourses != block
      swaps := x.swaps ++ [{ block, bound, old := old.foldl (fun m c => Sparse.insert m c.1 c.2) [], oldBase := e.base.toNat,
                             oldStrong := e.strong }] }
  let s := s.onDir block fun e => { e with st := .filling, walks := 1, rebuild := false }
  (s.touchBlock block).placeSwap block

/-- Make a block absent at once: by its epoch, or by a table swap where three walks are pending (R88). -/
def State.makeAbsent (s : State) (block : Nat) (bound : Bool) : State :=
  if (s.dirOf block).walks = 3 then s.beginSwap block bound else s.advanceEpoch block

end Sys2Proof.Machine
end

