-- ==== Sys2Proof/Machine/TileOps.lean ====
section
/-! DEFINITION. Tiles in their stored forms (spec/03_tile_coding.md R97 to R125): reading with its failures (R120, R274),
storing, closing a gather buffer (R115), re-packing (R71), and copying or re-encrypting a course's run (R215, R523). -/

namespace Sys2Proof.Machine

/-! ## Where a tile lies -/

/-- The run index of a tile's first slot and the slots of its reservation (R63, R97). -/
def Batten.tileSlots (b : Batten) (t : Nat) : Nat × Nat :=
  match b.tier with
  | .raw => (4 * t, 4)
  | .tiled => if b.phioz then (2 * t, 2) else (b.sumSizes t, b.size t)
  | _ => (0, 0)

/-- Is a tile stored uncompressed in its course's run: raw, or a native reservation of 4 (R97)? -/
def Batten.plainForm (b : Batten) (t : Nat) : Bool :=
  b.tier == .raw || (b.tier == .tiled && !b.phioz && b.size t == 4)

/-- The overflow run of a Phioz tile at a slot address (R123). -/
def Batten.overflow (b : Batten) (a : Nat) : Run := { base := a, len := 4, strong := b.strong }

/-- Slots of a tile from the run, decrypted: index in the tile and plaintext, none where uncorrectable. -/
def State.readPlain (s : State) (course : Nat) (b : Batten) (r : Run) (first ordinal source rid : Nat) : List Nat → State × List (Option (List Byte))
  | [] => (s, [])
  | j :: rest =>
    let (s, c) := s.readSlot r (first + j) source rid
    let s := s.onFlash fun f => { f with decrypted := f.decrypted + 1 }
    let p := c.map fun d => s.decrypt b.ctx.toNat b.gen b.tier (ordinal + j) course d
    let (s, ps) := s.readPlain course b r first ordinal source rid rest
    (s, p :: ps)

/-! ## Reading -/

/-- Count a decode (general counter event 09h). -/
def State.countDecode (s : State) : State :=
  (s.onTile fun t => { t with decoded := t.decoded + 1 }).bump 0x09 0xFFFF

/-- Event 0301h for a tile, cause 1 mismatch or 2 decode fault, all four lines (R120, R130). -/
def State.tileFailed (s : State) (course t cause rid : Nat) : State :=
  let s := s.onTile fun e => if cause = 1 then { e with mismatches := e.mismatches + 1 } else { e with faults := e.faults + 1 }
  s.raise 0x0301 .failure rid (le 4 course ++ le 1 t ++ le 1 cause ++ le 1 15) (s.blockLogs (course / blockCourses))

/-- What a read of a tile gives: its plaintext, with zeros for what cannot be had, the lines that are bad, and for
Get Tile Form (C0C5h) the form, the length and the header byte. -/
structure TileRead where
  data : List Byte := []
  bad : Nat := 0
  form : Nat := 0
  len : Nat := 0
  header : Nat := 0
  deriving DecidableEq, Repr

/-- Event 0803h for each slot of a tile that no code corrects. -/
def State.badTileSlots (s : State) (course mask source rid : Nat) (slots : List Nat) : State :=
  foldState (fun s a => s.badSlot a 1 course mask source rid (s.blockLogs (course / blockCourses))) s slots

/-- Read a native coded tile of `n` slots (R99, R107, R108, R274): an uncorrectable slot beyond the form poisons nothing. -/
def State.readCoded (s : State) (course : Nat) (b : Batten) (t first n source rid : Nat) : State × TileRead :=
  let (s, ps) := s.readPlain course b b.run first (4 * t) source rid (List.range n)
  let lost := (ps.zipIdx.filter fun x => x.1.isNone).map (·.2)
  let bytes := (ps.map fun x => x.getD (zeros 64)).flatten
  let s := s.countDecode
  let r := TileCode.decode bytes
  let slotsOf := lost.map fun j => b.run.slot (first + j)
  let good := match r with
    | .good tile len h => if lost.all fun j => decide (ceilDiv len 64 ≤ j) then some (tile, len, h) else none
    | _ => none
  match good with
  | some (tile, len, h) =>
    let s := foldState (fun s a => (s.onSpare fun p => { p with uncorrectable := p.uncorrectable + 1 }).fault a 4 255 0 source false)
      s slotsOf
    (s, { data := tile, bad := 0, form := 1, len, header := h.toNat })
  | none =>
    if !lost.isEmpty then (s.badTileSlots course 15 source rid slotsOf, { data := zeros 256, bad := 15, form := 1 })
    else
      let cause := if r == .mismatch then 1 else 2
      (s.tileFailed course t cause rid, { data := zeros 256, bad := 15, form := 1, header := (bytes.getD 4 0).toNat })

/-- Read a Phioz tile: home form, or pointer form and overflow run (R122, R123). -/
def State.readPhioz (s : State) (course : Nat) (b : Batten) (t source rid : Nat) : State × TileRead :=
  let (s, ps) := s.readPlain course b b.run (2 * t) (4 * t) source rid [0, 1]
  let lost := (ps.zipIdx.filter fun x => x.1.isNone).map fun x => b.run.slot (2 * t + x.2)
  let home := (ps.map fun x => x.getD (zeros 64)).flatten
  let h := (home.getD 0 0).toNat
  if !lost.isEmpty then (s.badTileSlots course 15 source rid lost, { data := zeros 256, bad := 15, form := 3 })
  else if b.size t = 5 then
    match TileCode.phiozOverflow home with
    | none => (s.countDecode.tileFailed course t 2 rid, { data := zeros 256, bad := 15, form := 4, header := h })
    | some a =>
      let o := b.overflow a
      let (s, os) := s.readPlain course b o 0 (64 + 4 * t) source rid [0, 1, 2, 3]
      let lost := (os.zipIdx.filter fun x => x.1.isNone).map fun x => o.slot x.2
      let tile := (os.map fun x => x.getD (zeros 64)).flatten
      let s := s.countDecode
      if !lost.isEmpty then (s.badTileSlots course 15 source rid lost, { data := zeros 256, bad := 15, form := 4, header := h })
      else if fieldLe home 124 4 = (Crypto.crc32c tile).toNat then (s, { data := tile, form := 4, header := h })
      else (s.tileFailed course t 1 rid, { data := zeros 256, bad := 15, form := 4, header := h })
  else
    let s := s.countDecode
    match TileCode.phiozDecode home with
    | .good tile len hd => (s, { data := tile, form := 3, len, header := hd.toNat })
    | .mismatch => (s.tileFailed course t 1 rid, { data := zeros 256, bad := 15, form := 3, header := h })
    | .fault => (s.tileFailed course t 2 rid, { data := zeros 256, bad := 15, form := 3, header := h })

/-- Read a tile of a raw or tiled course from its slots, reporting what fails (R97, R115, R120, R274). -/
def State.readTile (s : State) (course : Nat) (b : Batten) (t source rid : Nat) : State × TileRead :=
  if b.plainForm t then
    let first := (b.tileSlots t).1
    let (s, ps) := s.readPlain course b b.run first (4 * t) source rid [0, 1, 2, 3]
    let bad := maskOf 4 fun j => (ps.getD j none).isNone
    let s := foldState (fun s j => s.badTileSlots course (2 ^ j) source rid [b.run.slot (first + j)]) s
      ((List.range 4).filter (bitAt bad))
    (s, { data := (ps.map fun x => x.getD (zeros 64)).flatten, bad, form := 2 })
  else if b.tier != .tiled then (s, { data := zeros 256 })
  else if b.phioz then s.readPhioz course b t source rid
  else if b.size t = 0 then (s, { data := zeros 256 })
  else s.readCoded course b t (b.tileSlots t).1 (b.size t) source rid

/-! ## Encoding -/

/-- The bytes of a tile's stored form, and the slots they need in the native tiled form (R109, R110). -/
def codedForm (t : List Byte) : List Byte × Nat :=
  match TileCode.encode t with
  | some (_, bytes) => (bytes, ceilDiv bytes.length 64)
  | none => (t, 4)

/-- Count an encode (C0C0h, general counter event 08h). -/
def State.countEncode (s : State) (t : List Byte) : State :=
  let s := s.onTile fun e =>
    match TileCode.encode t with
    | some (f, _) => { e with encoded := e.encoded + 1, perPredictor := e.perPredictor.modify f.predictor (· + 1) }
    | none => { e with encoded := e.encoded + 1, over192 := e.over192 + 1 }
  s.bump 0x08 0xFFFF

/-- A byte string as slots of 64 bytes, padded with 00h. -/
def slotsOf (bytes : List Byte) : List (List Byte) := chunks 64 (ceilDiv bytes.length 64) bytes

/-- The slots that a tile takes when a new reservation is sized (R110), their number and plaintext. -/
def newTileSlots (t : List Byte) : List (List Byte) := if allZero t then [] else slotsOf (codedForm t).1

/-- The four slots of a tile stored uncompressed. -/
def rawSlots (t : List Byte) : List (List Byte) := chunks 64 4 t

/-! ## Copying a tile's ciphertext -/

/-- The ciphertext of a tile's reservation as a pass copies it (R523): a slot that no code corrects lists its line, or all
four lines of a coded or Phioz tile, and encrypted zeros, or the coded form of a zero tile, stand in its place. The tile's
size field after it. -/
def State.copyTile (s : State) (course : Nat) (b : Batten) (t source : Nat) : State × Nat × List (List Byte) :=
  let (first, n) := b.tileSlots t
  let (s, cs) := s.readSlots b.run source 0xFFFF ((List.range n).map fun j => first + j)
  let lost := (cs.zipIdx.filter fun x => x.1.isNone).map (·.2)
  let enc (s : State) (slots : List (List Byte)) : State × List (List Byte) :=
    s.encryptAll b.ctx.toNat b.gen b.tier course (slots.zipIdx.map fun x => (4 * t + x.2, x.1))
  if lost.isEmpty then (s, b.size t, cs.map fun x => x.getD (zeros 64))
  else if b.plainForm t then
    let s := foldState (fun s j => (s.badTileSlots course (2 ^ j) source 0xFFFF [b.run.slot (first + j)])) s lost
    let s := s.poisonLines course t ((lost.map fun j => 2 ^ j).sum)
    let (s, z) := enc s (List.replicate n (zeros 64))
    (s, b.size t, (cs.zip z).map fun x => x.1.getD x.2)
  else
    let s := s.badTileSlots course 15 source 0xFFFF (lost.map fun j => b.run.slot (first + j))
    let s := s.poisonLines course t 15
    let form := if b.phioz then (TileCode.phiozHome (zeros 256)).getD [] else (codedForm (zeros 256)).1
    let (s, z) := enc s (chunks 64 n form)
    (s, if b.phioz then 2 else b.size t, z)

/-- The tiles of a course from `t` on, copied. -/
def State.copyTiles (s : State) (course : Nat) (b : Batten) (source : Nat) : List Nat → State × List (Nat × List (List Byte))
  | [] => (s, [])
  | t :: rest =>
    let (s, n, cs) := s.copyTile course b t source
    let (s, xs) := s.copyTiles course b source rest
    (s, (n, cs) :: xs)

/-- Tiles 0 to 15. -/
abbrev allTiles : List Nat := List.range 16

/-! ## Changing the generation of a course -/

/-- A ciphertext slot moved from one generation to another. -/
def State.regen (s : State) (course : Nat) (b : Batten) (gen : Bool) (ordinal : Nat) (c : List Byte) : List Byte :=
  s.encrypt b.ctx.toNat gen b.tier ordinal course (s.decrypt b.ctx.toNat b.gen b.tier ordinal course c)

/-- Move the overflow runs of a Phioz course to a generation (R123, R216): each takes a new run of the same code, and its
home slots the pointer form that names it. None where a run cannot be placed. -/
def State.regenOverflow (s : State) (course : Nat) (b : Batten) (gen : Bool) (source : Nat) :
    List Nat → State × Option (List (Nat × Nat × List Byte))
  | [] => (s, some [])
  | t :: rest =>
    if b.size t ≠ 5 then s.regenOverflow course b gen source rest
    else
      let (s, r) := s.readPhioz course b t source 0xFFFF
      if r.bad ≠ 0 then
        let s := s.poisonLines course t 15
        let (s, xs) := s.regenOverflow course b gen source rest
        (s, xs.map fun l => (t, 2, (TileCode.phiozHome (zeros 256)).getD []) :: l)
      else
        let (s, o) := s.alloc? 4 b.strong false
        match o with
        | none => (s, none)
        | some o =>
          let (s, cs) := s.encryptAll b.ctx.toNat gen b.tier course ((rawSlots r.data).zipIdx.map fun x => (64 + 4 * t + x.2, x.1))
          let s := s.writeRun o cs
          let (s, xs) := s.regenOverflow course b gen source rest
          (s, xs.map fun l => (t, 5, TileCode.phiozPointer o.base r.data) :: l)

/-- The overflow runs that a Phioz course's pointer forms name now. -/
def State.overflowRuns (s : State) (course : Nat) (b : Batten) : List (Nat × Run) :=
  (allTiles.filter fun t => b.phioz && b.tier == .tiled && b.size t == 5).filterMap fun t =>
    let (s, ps) := s.readPlain course b b.run (2 * t) (4 * t) 7 0xFFFF [0, 1]
    let _ := s
    match TileCode.phiozOverflow ((ps.map fun x => x.getD (zeros 64)).flatten) with
    | some a => some (t, b.overflow a)
    | none => none

/-- The rest of a move to a new generation, its run placed and its overflow runs read: the tiles copied under the new
generation, the run written, the batten committed, the old runs freed. -/
def State.reencryptTo (s : State) (course : Nat) (b : Batten) (gen early : Bool) (old : List (Nat × Run)) (r : Run)
    (os : List (Nat × Nat × List Byte)) : State × Option Batten :=
  let (s, tiles) := s.copyTiles course b 10 allTiles
  let moved := tiles.zipIdx.map fun (x : (Nat × List (List Byte)) × Nat) =>
    let (n, cs) := x.1
    let t := x.2
    match os.find? fun (x : Nat × Nat × List Byte) => x.1 == t with
    | some (_, n, form) => (n, (chunks 64 2 form).zipIdx.map fun (y : List Byte × Nat) => s.encrypt b.ctx.toNat gen b.tier (4 * t + y.2) course y.1)
    | none => (n, cs.zipIdx.map fun (y : List Byte × Nat) => s.regen course b gen (4 * t + y.2) y.1)
  let cts := (moved.map (·.2)).flatten
  let s := s.countWrites b.ctx.toNat gen cts.length
  let s := s.writeRun r cts
  let nb := { (b.withRun r) with gen, early, move := false, sizes := moved.map fun x => BitVec.ofNat 3 x.1,
                                 poison := s.courseListed course }
  let s := s.commit course nb
  let s := s.release b.run
  (foldState (fun s o => s.release o.2) s (old.filter fun o => os.any fun (x : Nat × Nat × List Byte) => x.1 == o.1), some nb)

/-- Re-encrypt a raw or tiled course's run into a new run under a generation of its context (R215, R216): the new batten, or
none where a run cannot be placed. The old run is freed. -/
def State.reencrypt (s : State) (course : Nat) (b : Batten) (gen early : Bool) : State × Option Batten :=
  let old := s.overflowRuns course b
  let (s, r) := s.alloc? b.len.toNat b.strong false
  match r with
  | none => (s, none)
  | some r =>
    if b.phioz && b.tier == .tiled then
      let (s, os) := s.regenOverflow course b gen 10 allTiles
      match os with
      | none => (s.unalloc r, none)
      | some os => s.reencryptTo course b gen early old r os
    else s.reencryptTo course b gen early old r []

/-- R215: before a pass that encrypts slots of a course whose retiring generation has reached its limit, the course moves to
CUR_GEN with early-rekey set. The batten that the pass then sees; none where no run can be placed. -/
def State.earlyRekey (s : State) (course : Nat) : State × Option Batten :=
  let b := s.batten course
  if s.mustMoveGen b then
    let s := s.onFlash fun f => { f with early := f.early + 1 }
    s.reencrypt course b (s.ctx b.ctx.toNat).cur true
  else (s, some b)

/-! ## Moves met by a write -/

/-- A write that changes the slots of a course under move clears the flag (R85). -/
def State.abandonMove (s : State) (course : Nat) : State :=
  let b := s.batten course
  if b.move then
    let s := s.commit course { b with move := false }
    s.onXlat fun x => { x with abandons := Sparse.modify 0 x.abandons course (· + 1), movesAbandoned := x.movesAbandoned + 1 }
  else s

/-- Does a write wait for the move of its course: three moves of it were abandoned (R85)? -/
def State.moveHolds (s : State) (course : Nat) : Bool :=
  (s.batten course).move && decide (3 ≤ Sparse.get 0 s.xlat.abandons course)

/-! ## Storing a tile -/

/-- Write a tile's plaintext slots into its reservation from its first slot (R99). -/
def State.storeInPlace (s : State) (course : Nat) (b : Batten) (t : Nat) (slots : List (List Byte)) (rid : Nat) : State :=
  let first := (b.tileSlots t).1
  let (s, cs) := s.encryptAll b.ctx.toNat b.gen b.tier course (slots.zipIdx.map fun x => (4 * t + x.2, x.1))
  (s.writeSlots b.run (cs.zipIdx.map fun x => (first + x.2, x.1)) rid []).touchBundle course

/-- Re-pack a course so that a tile takes `slots` (R71): the other tiles' ciphertext is copied, the batten commits, the old
run is freed. None where no run can be placed. -/
def State.repack (s : State) (course : Nat) (b : Batten) (t : Nat) (slots : List (List Byte)) : State × Bool :=
  let (s, r) := s.alloc? (b.len.toNat - b.size t + slots.length) b.strong false
  match r with
  | none => (s, false)
  | some r =>
    let (s, tiles) := s.copyTiles course { b with sizes := b.sizes } 7 (allTiles.filter (· != t))
    let (s, cs) := s.encryptAll b.ctx.toNat b.gen b.tier course (slots.zipIdx.map fun x => (4 * t + x.2, x.1))
    let all := tiles.take t ++ [(slots.length, cs)] ++ tiles.drop t
    let s := s.writeRun r (all.map (·.2)).flatten
    let s := s.commit course { (b.withRun r) with sizes := all.map fun x => BitVec.ofNat 3 x.1, move := false }
    let s := (s.onXlat fun x => { x with repacks := x.repacks + 1 }).bump 0x0B 0xFFFF
    (s.release b.run, true)

/-- Store a Phioz tile whose home form is `home` (R125): a home form frees its overflow run; otherwise the overflow run it has is written, or a new one
with the pointer form. False where no run can be placed. -/
def State.storePhiozForm (s : State) (course : Nat) (b : Batten) (t : Nat) (new : List Byte) (rid : Nat) (home : Option (List Byte)) :
    State × Bool :=
  let old := (s.overflowRuns course b).find? (·.1 == t)
  match home with
  | some form =>
    let s := s.storeInPlace course b t (slotsOf form) rid
    let s := s.commit course (b.setSize t 2)
    match old with
    | some (_, o) => ((s.release o).onTile fun e => { e with overflowRuns := e.overflowRuns - 1 }, true)
    | none => (s, true)
  | none =>
    let put (s : State) (o : Run) : State :=
      let (s, cs) := s.encryptAll b.ctx.toNat b.gen b.tier course ((rawSlots new).zipIdx.map fun x => (64 + 4 * t + x.2, x.1))
      s.writeSlots o (cs.zipIdx.map fun x => (x.2, x.1)) rid []
    match old with
    | some (_, o) =>
      let s := put s o
      (s.storeInPlace course b t (slotsOf (TileCode.phiozPointer o.base new)) rid, true)
    | none =>
      let (s, r) := s.alloc? 4 b.strong false
      match r with
      | none => (s, false)
      | some o =>
        -- the overflow run of a course is read under the course's code (R123), so a run of another code is not taken
        if o.strong != b.strong then (s.unalloc o, false)
        else
          let s := put s o
          let s := s.storeInPlace course b t (slotsOf (TileCode.phiozPointer o.base new)) rid
          let s := s.commit course (b.setSize t 5)
          (s.onTile fun e => { e with overflowRuns := e.overflowRuns + 1 }, true)

/-- Store a Phioz tile (R125). -/
def State.storePhioz (s : State) (course : Nat) (b : Batten) (t : Nat) (new : List Byte) (rid : Nat) : State × Bool :=
  s.storePhiozForm course b t new rid (TileCode.phiozHome new)

/-- Store a tile's new plaintext in its tiled course (R70, R71, R115, R125). False where no run can be placed. -/
def State.storeTile (s : State) (course : Nat) (b : Batten) (t : Nat) (new : List Byte) (rid : Nat) : State × Bool :=
  let s := s.countEncode new
  if b.phioz then s.storePhioz course b t new rid
  else
    let n := b.size t
    let slots := if n = 4 then rawSlots new
      else if n = 0 then newTileSlots new
      else slotsOf (codedForm new).1
    if slots.length ≤ n then (s.storeInPlace course b t slots rid, true)
    else s.repack course b t slots

/-! ## Storing a whole course -/

/-- The slots of sixteen tiles in the raw form, by tile: size field and plaintext slots (R63, R97). -/
def rawLayout (tiles : List (List Byte)) : List (Nat × List (List Byte)) := tiles.map fun t => (4, rawSlots t)
/-- The slots of sixteen tiles in the native tiled form (R109, R110). -/
def tiledLayout (tiles : List (List Byte)) : List (Nat × List (List Byte)) :=
  tiles.map fun t =>
    let x := newTileSlots t
    (x.length, x)
/-- Data slots of a layout. -/
def layoutLen (l : List (Nat × List (List Byte))) : Nat := (l.map fun x => x.2.length).sum
/-- The size fields of a layout. -/
def layoutSizes (l : List (Nat × List (List Byte))) : List (BitVec 3) := l.map fun x => BitVec.ofNat 3 x.1

/-- Encrypt and write a layout into a run (R69, R79). -/
def State.writeTiles (s : State) (course ctx : Nat) (gen : Bool) (tier : Tier) (r : Run) (tiles : List (Nat × List (List Byte))) : State :=
  let slots := tiles.zipIdx.flatMap fun (x : (Nat × List (List Byte)) × Nat) => x.1.2.zipIdx.map fun (y : List Byte × Nat) => (4 * x.2 + y.2, y.1)
  let (s, cts) := s.encryptAll ctx gen tier course slots
  s.writeRun r cts

/-- Count the encode of every tile of a course. -/
def State.countEncodes (s : State) (tiles : List (List Byte)) : State := foldState State.countEncode s tiles

/-- The size field and plaintext slots of one tile of a Phioz course being written, `home` being its home form: that form, or
a pointer form with an overflow run of the course's code (R123, R125). None where no run can be placed. -/
def State.formPhioz (s : State) (course ctx : Nat) (gen strong : Bool) (t : Nat) (x : List Byte) (home : Option (List Byte)) :
    State × Option (Nat × List (List Byte)) :=
  match home with
  | some form => (s, some (2, chunks 64 2 form))
  | none =>
    let (s, o) := s.alloc? 4 strong true
    let (s, o) := match o with
      | some o => (s, some o)
      | none => if strong then (s, none) else s.alloc? 4 false false
    match o with
    | none => (s, none)
    | some o =>
      let (s, cs) := s.encryptAll ctx gen .tiled course ((rawSlots x).zipIdx.map fun y => (64 + 4 * t + y.2, y.1))
      ((s.writeRun o cs).onTile fun e => { e with overflowRuns := e.overflowRuns + 1 },
       some (5, chunks 64 2 (TileCode.phiozPointer o.base x)))

/-- The next tile of a Phioz course being written, with its number and its home form, unless an earlier one could not be placed. -/
def formNext (course ctx : Nat) (gen strong : Bool) (acc : State × Option (List (Nat × List (List Byte))))
    (x : (List Byte × Nat) × Option (List Byte)) : State × Option (List (Nat × List (List Byte))) :=
  match acc.2 with
  | none => acc
  | some l =>
    let r := acc.1.formPhioz course ctx gen strong x.1.2 x.1.1 x.2
    (r.1, r.2.map fun f => l ++ [f])

/-- Place and write the home run of a Phioz course from sixteen tiles, with an overflow run of its code for every tile that
the home form does not hold (R122, R123, R126): the run, the sizes and the overflow runs; none where a run cannot be placed. -/
def State.writePhioz (s : State) (course ctx : Nat) (gen strong : Bool) (tiles : List (List Byte)) : State × Option (Run × List (BitVec 3)) :=
  let (s, r) := s.alloc? 32 strong false
  match r with
  | none => (s, none)
  | some r =>
    let (s, l) := (tiles.zipIdx.map fun x => (x, TileCode.phiozHome x.1)).foldl (formNext course ctx gen r.strong) (s, some [])
    match l with
    | none => (s.unalloc r, none)
    | some l => (s.writeTiles course ctx gen .tiled r l, some (r, layoutSizes l))

/-- Free the runs that a course's batten names and leave it absent: its run, its overflow runs, and for a thatched bundle
the other battens that name the run too (R65, R86). Its cached tiles go (R181). -/
def State.freeCourse (s : State) (course : Nat) : State :=
  let b := s.batten course
  if b.tier = .absent then s
  else
    let os := s.overflowRuns course b
    let cs := if b.tier = .thatched then (List.range 4).map fun i => course / 4 * 4 + i else [course]
    let mine := cs.filter fun c => c == course || ((s.batten c).tier == .thatched && (s.batten c).base == b.base)
    let s := foldState (fun s c => (s.commit c { poison := false }).invalidateCourse c) s mine
    let s := foldState (fun s (o : Nat × Run) => (s.release o.2).onTile fun e => { e with overflowRuns := e.overflowRuns - 1 }) s os
    s.release b.run

/-! ## Closing a gather buffer -/

/-- A gather buffer. -/
def State.gather (s : State) (n : Nat) : Option Gather := Sparse.find s.tile.gathers n
/-- The gather buffer open on a tile, by number. -/
def State.gatherOf (s : State) (course t : Nat) : Option (Nat × Gather) :=
  s.tile.gathers.find? fun g => g.2.course == course && g.2.tile == t
/-- Change a gather buffer that exists. -/
def State.onGather (s : State) (n : Nat) (f : Gather → Gather) : State :=
  s.onTile fun t => { t with gathers := t.gathers.map fun g => if g.1 == n then (g.1, f g.2) else g }

/-- Bits of a gather mask that lie in a line. -/
def lineMask (mask : BitVec 256) (l : Nat) : Nat := bits mask.toNat (64 * l + 63) (64 * l)

/-- The requestor of the last write to a line in a gather. -/
def Gather.writer (g : Gather) (l : Nat) : Nat :=
  match (g.writers.filter fun w => w.2.1 == l).getLast? with
  | some w => w.1.toNat
  | none => 0xFFFF

/-- Event 0303h: a poisoned line made good (R121). -/
def State.madeGood (s : State) (course t l rid : Nat) : State :=
  s.raise 0x0303 .informational rid (le 4 course ++ le 1 t ++ le 1 l) (s.blockLogs (course / blockCourses))

/-- Event 0302h: a partial-line write to a poisoned line, not stored (R121). -/
def State.notStored (s : State) (course t l n rid : Nat) : State :=
  (s.onTile fun e => { e with poisonedPartials := e.poisonedPartials + 1 }).raise 0x0302 .warning rid
    (le 4 course ++ le 1 t ++ le 1 l ++ le 1 n) (s.blockLogs (course / blockCourses))

/-- The stripes of a course's run on which a write of a tile would wait (R266). -/
def State.tileBusy (s : State) (b : Batten) (t : Nat) : Bool :=
  let (first, n) := b.tileSlots t
  b.strong && (List.range n).any fun j => s.stripeBusy b.run ((first + j) / 8)

/-- The poison that a close leaves (R115): each bad line that the gather covers whole becomes good, one that it touches only
in part keeps its poison, each with its event. -/
def State.settleLines (s : State) (g : Gather) (bad : Nat) : State × Nat :=
  (List.range 4).foldl (fun (x : State × Nat) l =>
    let m := lineMask g.mask l
    if !bitAt bad l || m = 0 then x
    else if m + 1 = 2 ^ 64 then (x.1.madeGood g.course g.tile l (g.writer l), x.2 - 2 ^ l)
    else (x.1.notStored g.course g.tile l (popcount 64 m) (g.writer l), x.2)) (s, bad)

/-- A tile with the lines of a mask as zeros. -/
def zeroLines (data : List Byte) (bad : Nat) : List Byte :=
  (List.range 4).flatMap fun l => if bitAt bad l then zeros 64 else slice data (64 * l) 64

/-- Close gather buffer `n` (R115). It stays, marked stuck, where the run it needs cannot be placed (R522) or a stripe lock
is held (R266). -/
def State.closeGather (s : State) (n : Nat) : State :=
  match s.gather n with
  | none => s
  | some g =>
    let b0 := s.batten g.course
    if b0.tier != .tiled then s.onTile fun t => { t with gathers := Sparse.erase t.gathers n }
    else if s.tileBusy b0 g.tile || s.moveHolds g.course then s.onGather n fun g => { g with stuck := true }
    else
      let before := s
      let s := s.abandonMove g.course
      let (s, eb) := s.earlyRekey g.course
      match eb with
      | none => (before.unplaced 3 (g.course / blockCourses)).onGather n fun g => { g with stuck := true }
      | some b =>
        let tileNo := tileNumber g.course g.tile
        let whole := g.mask == BitVec.allOnes 256
        let listed := s.tileListed g.course g.tile
        let (s, old, fbad) :=
          if whole then (s, zeros 256, 0)
          else
            match s.cachedTile tileNo b.epoch with
            | (some d, s) => (s, d, 0)
            | (none, s) =>
              let (s, r) := s.readTile g.course b g.tile 5 (g.writer (g.writers.getLast?.map (·.2.1) |>.getD 0))
              (s, r.data, r.bad)
        let new := mergeBytes g.mask.toNat (slice g.data 0 256) (slice old 0 256)
        let (s, bad) := s.settleLines g (maskOf 4 fun l => bitAt listed l || bitAt fbad l)
        let new := zeroLines new bad
        let rid := match g.writers.getLast? with
          | some w => w.1.toNat
          | none => 0xFFFF
        let (s', ok) := s.storeTile g.course b g.tile new rid
        if !ok then (before.unplaced 3 (g.course / blockCourses)).onGather n fun g => { g with stuck := true }
        else
          let s := s'.answerAll g.reads new bad
          let s := s.onTile fun t =>
            { t with
              gathers := Sparse.erase t.gathers n
              merged := t.merged + g.reads.length
              whole := t.whole + b2n whole
              partials := t.partials + b2n (!whole) }
          let s := if whole then s else s.bump 0x0A 0xFFFF
          let packed := decide ((s.batten g.course).base ≠ b.base)
          let times := if b.strong then 3 else 1
          let s := s.cost (times * ((if whole then 8 else 11) + (if packed then 200 else 0))) 1 (b2n (!whole))
          let s := (s.setTilePoison g.course g.tile bad).syncPoison g.course
          s.cacheTile tileNo new bad

/-- Close every gather buffer that `p` selects, oldest first (R114). -/
def State.closeGathers (s : State) (p : Gather → Bool) : State :=
  let open_ := (s.tile.gathers.filter fun g => p g.2).map fun g => (g.1, g.2.order)
  let sorted := open_.foldl (fun l x => insertUse (x.1, 2 ^ 64 - x.2) l) []
  foldState (fun s x => s.closeGather x.1) s sorted

/-- Close the gather buffers of a course. -/
def State.closeCourse (s : State) (course : Nat) : State := s.closeGathers fun g => g.course == course
/-- Close the gather buffers of a block. -/
def State.closeBlock (s : State) (block : Nat) : State := s.closeGathers fun g => g.course / blockCourses == block
/-- Does any gather buffer hold a course, so that a tier change waits (R118)? -/
def State.gathered (s : State) (course : Nat) : Bool := s.tile.gathers.any fun g => g.2.course == course

end Sys2Proof.Machine
end

