-- ==== Sys2Proof/Machine/RegOps.lean ====
section
/-! DEFINITION. The ingress classifier (spec/01_host_view.md R25, R28, R29; spec/06_flashing.md R201), urgency (R303 to
R307), policers and shapers (R298, R299), the request store (R291) and the rounds of issue (R294 to R297), all of
spec/09_queues_and_regulation.md. -/

namespace Sys2Proof.Machine

/-! ## Queues and classes -/

/-- A queue by index: requestor × 64 + effective class (R289). -/
def State.queue (s : State) (n : Nat) : Queue := Sparse.get {} s.reg.queues n
/-- Change a queue. -/
def State.onQueue (s : State) (n : Nat) (f : Queue → Queue) : State :=
  s.onReg fun r => { r with queues := Sparse.modify {} r.queues n f }
/-! ## Classification -/

/-- The default context of a requestor (R29). -/
def State.defaultCtx (s : State) (rid : Nat) : BitVec 13 := Sparse.get 0 s.host.defaultContext rid

/-- The context of a request on a host port (R28). -/
def State.contextOf (s : State) (p : HostPort) (ckid : BitVec 13) (rid : Nat) : BitVec 13 :=
  if (s.port p).rate = .g64 ∧ ckid ≠ 0 then ckid else s.defaultCtx rid

/-- The class of a request: its context's, or that of its requestor's default context where another logical device owns
the context (R201). -/
def State.baseClass (s : State) (ctx : BitVec 13) (l : LdId) (rid : Nat) : BitVec 6 :=
  if s.foreignCtx ctx.toNat l then (s.ctx (s.defaultCtx rid).toNat).cls else (s.ctx ctx.toNat).cls

/-- The doorbell page of a requestor (R304). -/
def State.doorbell (s : State) (rid : Nat) : Doorbell := Sparse.get {} s.reg.doorbells rid

/-- The highest of a requestor's doorbell and bound pin levels (R303, R304 URGENCY_EFF). -/
def State.urgencyOf (s : State) (rid : Nat) : Nat :=
  (s.reg.pinBound.map fun b => if b.2 = rid then (Sparse.get 0 s.reg.pins b.1).toNat else 0).foldl max (s.doorbell rid).urgency.toNat

/-- The class map of R306. -/
def State.mapped (s : State) (base u : Nat) : Nat :=
  match (s.classRow base).map with
  | some (a, b, c) => if u = 1 then a else if u = 2 then b else c
  | none => if base < 60 then min (base + 4 * u) 59 else min (base + u) 63

/-- The effective class (R306). -/
def State.effClass (s : State) (rid base u : Nat) : Nat :=
  if u = 0 then base else max base (min (s.mapped base u) (Sparse.get 59 s.reg.ceilings rid))

/-! ## The request store -/

/-- The sources of the store: 0 HP0, 1 HP1, 2 the rafter ports. -/
def State.usedBy (s : State) (src : Nat) : Nat :=
  if src = 0 then s.reg.usedHp0 else if src = 1 then s.reg.usedHp1 else s.reg.usedRafter
/-- Change what a source uses. -/
def State.onUsed (s : State) (src : Nat) (f : Nat → Nat) : State :=
  s.onReg fun r =>
    if src = 0 then { r with usedHp0 := f r.usedHp0 }
    else if src = 1 then { r with usedHp1 := f r.usedHp1 }
    else { r with usedRafter := f r.usedRafter }
/-- Since when a source finds the store full. -/
def State.withheldSince (s : State) (src : Nat) : Option Nat :=
  if src = 0 then s.reg.withheldSince0 else if src = 1 then s.reg.withheldSince1 else s.reg.withheldSince2
/-- Set it. -/
def State.setWithheld (s : State) (src : Nat) (v : Option Nat) : State :=
  s.onReg fun r =>
    if src = 0 then { r with withheldSince0 := v }
    else if src = 1 then { r with withheldSince1 := v }
    else { r with withheldSince2 := v }

/-- The source of a request. -/
def Request.source (r : Request) : Nat :=
  match r.origin with
  | .host .hp0 _ => 0
  | .host .hp1 _ => 1
  | _ => 2

/-- A free entry of the store, which the manual leaves to the hardware (Config.storeEntry). -/
def State.freeEntry (s : State) : Nat :=
  let n := (Config.storeEntry s.reg.nextId).toNat
  ((firstFrom (fun i => !Sparse.get false s.reg.entries (i % 16384)) 16384 n).getD n) % 16384

/-- Bring the credits of a source to what the store allows: a host port withholds when it is full, and event 0902h tells how
long once an entry is free (R291, R317). -/
def State.checkCredits (s : State) (src : Nat) : State :=
  match s.withheldSince src, s.storeRoom (s.usedBy src) with
  | none, false => if src = 2 then s else s.setWithheld src (some s.clock)
  | some t, true =>
    (s.setWithheld src none).raiseLimited 0x0902 src .warning 0xFFFF (le 1 src ++ zeros 4) [(1, 4)] [usOf (s.clock - t)] s.lds
  | _, _ => s

/-- An entry taken. -/
def State.takeEntry (s : State) (src entry : Nat) : State :=
  let s := s.onUsed src (· + 1)
  let s := s.onReg fun r => { r with entries := Sparse.set false r.entries entry true }
  (s.checkCredits 0).checkCredits 1

/-- An entry freed. -/
def State.freeStore (s : State) (src entry : Nat) : State :=
  let s := s.onUsed src (· - 1)
  let s := s.onReg fun r => { r with entries := Sparse.set false r.entries entry false }
  ((s.checkCredits 0).checkCredits 1).checkCredits 2

/-! ## Policers -/

/-- Mark a request at arrival (R299): in-profile where the class has a guarantee and every policer holds a token. -/
def State.police (s : State) (qn cls : Nat) : State × Bool :=
  let now := s.clock
  let q := s.queue qn
  let row := s.classRow cls
  let queueOk := !q.policer.on || q.policer.holdsOne now
  if row.effective = 0 then (s, true)
  else if queueOk && row.policer.holdsOne now then
    let s := if q.policer.on then s.onQueue qn fun q => { q with policer := q.policer.take 1 now } else s
    (s.onClass cls fun c => { c with policer := c.policer.take 1 now }, false)
  else (s, true)

/-! ## Rounds -/

/-- Does a queue's head stand in the rounds of out-of-profile heads? -/
def Queue.headOut (q : Queue) : Bool :=
  match q.requests with
  | r :: _ => r.outOfProfile
  | [] => false

/-- Put a weighted class on the active list of the round its queue's head names, with a deficit of 0 (R296). -/
def State.activate (s : State) (qn : Nat) : State :=
  let c := qn % 64
  let q := s.queue qn
  if q.requests.isEmpty || 60 ≤ c then s
  else
    let join (x : Round) : Round := if x.active.contains c then x else { x with active := x.active ++ [c], deficit := Sparse.set 0 x.deficit c 0 }
    s.onReg fun r => if q.headOut then { r with weightedOut := join r.weightedOut } else { r with weightedIn := join r.weightedIn }

/-- Put a request at the tail of its queue (R289, R293). -/
def State.enqueue (s : State) (r : Request) : State :=
  let qn := r.rid.toNat * 64 + r.cls.toNat
  let (s, out) := s.police qn r.cls.toNat
  let e := s.freeEntry
  let r := { r with outOfProfile := out, id := s.reg.nextId, entry := e }
  let s := s.onReg fun g => { g with nextId := g.nextId + 1 }
  let s := s.takeEntry r.source e
  let s := s.onQueue qn fun q => { q with requests := q.requests ++ [r] }
  s.activate qn

/-- Is the write throttle on a queue of class `c` (R302)? -/
def State.throttled (s : State) (c : Nat) : Bool := decide (s.place.divisor ≠ 0) && decide (c ≤ s.place.policy.ceiling)

/-- The tokens a head costs (R294, R302). -/
def State.headCost (s : State) (c : Nat) (r : Request) : Nat :=
  if s.throttled c && r.kind != .read then s.place.divisor else 1

/-- Is a queue's head eligible (R294, R302, R340)? -/
def State.eligible (s : State) (qn : Nat) (q : Queue) : Bool :=
  match q.requests with
  | [] => false
  | r :: _ =>
    let now := s.clock
    let row := s.classRow (qn % 64)
    let own := match q.throttleShaper with
      | some b => r.kind == .read || b.open now
      | none => !q.shaper.on || q.shaper.open now
    own && (!row.shaper.on || row.shaper.open now) && !(r.remote && s.replayFull)

/-- Queues of a class with a head of the given marking, by rising requestor. -/
def State.headsOf (s : State) (c : Nat) (out : Bool) : List (Nat × Queue) :=
  s.reg.queues.filter fun q => q.1 % 64 == c && !q.2.requests.isEmpty && q.2.headOut == out

/-- The eligible queue that the requestor round robin of a class serves next, after requestor `last` (R297). -/
def State.nextQueue (s : State) (c : Nat) (out : Bool) (last : Option Nat) : Option Nat :=
  let ok : List (Nat × Queue) := (s.headsOf c out).filter fun q => s.eligible q.1 q.2
  let after := match last with
    | some l => ok.filter fun (q : Nat × Queue) => decide (l < q.1 / 64)
    | none => ok
  match after with
  | q :: _ => some q.1
  | [] => ok.head?.map fun (q : Nat × Queue) => q.1

/-- The round that gives the next issue (R295): strict in-profile, weighted in-profile, strict out-of-profile, weighted
out-of-profile. The queue, whether its class is strict, and its marking. -/
def State.choose (s : State) : Option (Nat × Bool × Bool) :=
  let strict (out : Bool) : Option Nat :=
    let last := if out then s.reg.strictOut else s.reg.strictIn
    [63, 62, 61, 60].findSome? fun c => s.nextQueue c out (Sparse.find last c)
  let weighted (out : Bool) : Option Nat :=
    let x := if out then s.reg.weightedOut else s.reg.weightedIn
    x.active.findSome? fun c => s.nextQueue c out (Sparse.find x.last c)
  match strict false with
  | some q => some (q, true, false)
  | none =>
    match weighted false with
    | some q => some (q, false, false)
    | none =>
      match strict true with
      | some q => some (q, true, true)
      | none => (weighted true).map fun q => (q, false, true)

/-- The quantum of a class in a weighted round (R296). -/
def State.quantum (s : State) (c : Nat) (out : Bool) : Nat :=
  let row := s.classRow c
  if out then row.weight else max 1 (ceilDiv row.effective 1024)

/-- A weighted round after an issue of class `c` from requestor `rid` (R296, R297); `more` tells whether the class still has
a head in the round. -/
def Round.served (x : Round) (c rid quantum : Nat) (more : Bool) : Round :=
  let d := Sparse.get 0 x.deficit c
  let d := (if d < 1 then d + quantum else d) - 1
  let x := { x with last := Sparse.insert x.last c rid }
  let without := x.active.filter (· != c)
  if !more then { x with active := without, deficit := Sparse.set 0 x.deficit c 0 }
  else if d < 1 then { x with active := without ++ [c], deficit := Sparse.set 0 x.deficit c d }
  else { x with deficit := Sparse.set 0 x.deficit c d }

/-- Take the head off a queue: tokens, counts, the store entry, the rounds (R294 to R297, R302). -/
def State.takeHead (s : State) (qn : Nat) (strict out : Bool) (r : Request) : State :=
  let c := qn % 64
  let rid := qn / 64
  let now := s.clock
  let cost := s.headCost c r
  let isWrite := r.kind != .read
  let s := s.onQueue qn fun q =>
    { q with
      requests := q.requests.drop 1
      throttleShaper := q.throttleShaper.map fun b => if isWrite then b.take cost now else b
      shaper := if q.shaper.on && q.throttleShaper.isNone then q.shaper.take cost now else q.shaper
      writesNow := q.writesNow + b2n isWrite }
  let s := s.onClass c fun row => if row.shaper.on then { row with shaper := row.shaper.take cost now } else row
  let s := s.activate qn
  let more := !(s.headsOf c out).isEmpty
  let s := s.onReg fun g =>
    let g := { g with
      issued := g.issued + 1, outOfProfile := g.outOfProfile + b2n out,
      interval := { g.interval with reads := g.interval.reads + b2n (!isWrite), writes := g.interval.writes + b2n isWrite } }
    match strict, out with
    | true, false => { g with strictIn := Sparse.insert g.strictIn c rid }
    | true, true => { g with strictOut := Sparse.insert g.strictOut c rid }
    | false, false => { g with weightedIn := g.weightedIn.served c rid (s.quantum c false) more }
    | false, true => { g with weightedOut := g.weightedOut.served c rid (s.quantum c true) more }
  let s := s.freeStore r.source r.entry
  let s := (s.bump 0x01 c).bump (if isWrite then 0x03 else 0x02) c
  if out then s.bump 0x04 c else s

end Sys2Proof.Machine
end

