-- ==== Sys2Proof/Machine/RequestOps.lean ====
section
/-! DEFINITION. An issued request at the translation unit: where its course lies (spec/01_host_view.md R58;
spec/11_cascade.md R357, R363), the ownership check (spec/06_flashing.md R207 to R210), claims (R65, R126), reads through
gather buffers, poison list and tile cache (R114, R117, R120, R168 to R172), writes (R112, R113, R119, R121), the wait for
a promotion (R147), and requests to remote courses (R334, R340, R343). -/

namespace Sys2Proof.Machine

/-! ## Waiting and retrying -/

/-- A request waits at the translation unit, behind those that wait already (R76, R522). -/
def State.waitFor (s : State) (r : Request) (why : WaitReason) : State :=
  s.onReg fun g => { g with waiting := g.waiting ++ [{ request := r, reason := why }] }

/-- Why a request must wait behind another request to its course (R76). -/
def State.behind (s : State) (course : Nat) : Option WaitReason :=
  (s.reg.waiting.find? fun w => !w.request.remote && w.request.course == course).map (·.reason)

/-! ## Heat and owner class -/

/-- Add 1 to a course's heat, saturating (R151). -/
def State.addHeat (s : State) (course : Nat) : State :=
  s.commitHeat course fun b => { b with heat := if b.heat = 127 then b.heat else b.heat + 1 }

/-- Heat and owner class of a write (R61, R77, R151). -/
def State.heatAndClass (s : State) (course : Nat) (cls : BitVec 6) : State :=
  (s.addHeat course).commitHeat course fun b => { b with cls }

/-! ## Refusals of the ownership check (R208, R209) -/

/-- Events 0601h and 0603h: at most once a second per requestor, with a count. -/
def State.wrongContext (s : State) (code : Nat) (r : Request) (key cause : Nat) : State :=
  s.raiseLimited code r.rid.toNat .warning r.rid.toNat
    (le 2 r.ctx.toNat ++ le 2 key ++ le 4 r.course ++ le 1 cause ++ zeros 4) [(9, 4)] [1] (s.blockLogs (r.course / blockCourses))

/-- A read refused: poison that is not listed (R47). -/
def State.refuseRead (s : State) (r : Request) (key cause : Nat) : State :=
  let s := s.onFlash fun f => { f with wrongReads := f.wrongReads + 1 }
  (s.wrongContext 0x0601 r key cause).answer r [] true

/-- A write discarded completes as any write completes. -/
def State.discardWrite (s : State) (r : Request) (key cause : Nat) : State :=
  let s := s.onFlash fun f => { f with wrongWrites := f.wrongWrites + 1 }
  (s.wrongContext 0x0603 r key cause).complete r false

/-- A write under a context with no usable key: event 0609h. -/
def State.noKeyWrite (s : State) (r : Request) : State :=
  let s := s.onFlash fun f => { f with noKeyWrites := f.noKeyWrites + 1 }
  (s.raise 0x0609 .warning r.rid.toNat (le 2 r.ctx.toNat ++ le 4 r.course) (s.blockLogs (r.course / blockCourses))).complete r false

/-! ## Fetches -/

/-- A fetch. -/
def State.fetch (s : State) (n : Nat) : Option Fetch := Sparse.find s.dram.fetches n
/-- Change a fetch that exists. -/
def State.onFetch (s : State) (n : Nat) (f : Fetch → Fetch) : State :=
  s.onDram fun d => { d with fetches := d.fetches.map fun x => if x.1 == n then (x.1, f x.2) else x }
/-- Put down what has come back for a slot. -/
def State.setSlot (s : State) (n i : Nat) (x : SlotResult) : State :=
  s.onFetch n fun f => { f with slots := f.slots.zipIdx.map fun y => if y.2 = i then { y.1 with result := x } else y.1 }

/-- The run and the place in it of a fetch's slot `i` (R63, R97, R123). -/
def Fetch.place (f : Fetch) (i : Nat) : Run × Nat :=
  let first := (f.batten.tileSlots f.tile).1
  match f.form with
  | .line l => (f.batten.run, first + l % 4)
  | .phiozOverflow =>
    if i < 2 then (f.batten.run, first + i) else (f.batten.overflow ((f.slots.getD 2 {}).slot), i - 2)
  | _ => (f.batten.run, first + i)

/-- Send a slot of a fetch to its channel: a slot of a stripe that its channel cannot give is rebuilt (R248, R267); a
light-coded slot of a channel out of service is uncorrectable (R250). -/
def State.enterSlot (s : State) (b : Batten) (n i slot : Nat) : State :=
  if b.strong then
    match s.slotGone slot with
    | some cause => s.onChannel (slotChannel slot) fun c => { c with rebuilds := c.rebuilds ++ [{ slot, fetch := n, index := i, cause }] }
    | none => s.enterRead slot n i
  else if (s.channel (slotChannel slot)).outOfService then s.setSlot n i .bad
  else s.enterRead slot n i

/-- The plaintext of a fetched slot under the fetch's key (R194, R197). -/
def State.fetchPlain (s : State) (f : Fetch) (x : FetchSlot) : Option (List Byte) :=
  match x.result with
  | .good d =>
    some (Crypto.xtsDec (f.key.take 32) (f.key.drop 32) (courseTweak f.batten.gen f.batten.tier x.ordinal s.homeId f.course) d)
  | _ => none

/-- The tracker of a fetch is done when no other fetch uses it. -/
def State.dropTracker (s : State) (t : Option Nat) : State :=
  match t with
  | none => s
  | some n => if s.dram.fetches.any fun f => f.2.tracker == some n then s else s.closeTracker n

/-- End a fetch: reads answered from a tile's plaintext with poison for the lines of `bad`, lines `fill` installed (R170,
R173). -/
def State.endFetch (s : State) (n : Nat) (f : Fetch) (tile : List Byte) (bad fill : Nat) : State :=
  let s := s.onDram fun d => { d with fetches := Sparse.erase d.fetches n }
  let s := s.answerAll f.reads tile bad
  let s := match f.tracker with
    | some t =>
      let listed := s.tileListed f.course f.tile
      s.install t (s.dirOf (f.course / blockCourses)).epoch (maskOf 4 fun l => bitAt fill l && !bitAt listed l) tile
    | none => s
  s.dropTracker f.tracker

/-- Lines of a fetched tile turn out bad: listed, poison present set (R120, R274). -/
def State.listFetched (s : State) (f : Fetch) (mask : Nat) : State := (s.poisonLines f.course f.tile mask).syncPoison f.course

/-- A fetch with slots that no code gives (R274): where the slots still belong to the course's run, its lines are listed;
else the faults are only recorded. Its reads get poison. -/
def State.loseFetch (s : State) (n : Nat) (f : Fetch) (mask rid : Nat) (slots : List Nat) : State :=
  let b := s.view f.course
  let s := if b.tier == f.batten.tier && b.run == f.batten.run then (s.badTileSlots f.course mask 1 rid slots).listFetched f mask
    else foldState (fun s a => (s.onSpare fun p => { p with uncorrectable := p.uncorrectable + 1 }).fault a 4 255 0 1 false) s slots
  s.endFetch n f (zeros 256) mask 0

/-- The results of a fetch whose slots are all in. A Phioz home in pointer form goes on to its overflow slots (R123, R170). -/
def State.finishFetch (s : State) (n : Nat) (f : Fetch) : State :=
  let ps := f.slots.map (s.fetchPlain f)
  let s := s.onFlash fun x => { x with decrypted := x.decrypted + f.slots.length }
  let lost := (f.slots.zip ps).filter fun x => x.2.isNone
  let lostSlots := lost.map fun x => x.1.slot
  let bytes := (ps.map fun x => x.getD (zeros 64)).flatten
  let rid := match f.reads with
    | r :: _ => r.rid.toNat
    | [] => 0xFFFF
  let failed (s : State) (cause : Nat) : State :=
    ((s.tileFailed f.course f.tile cause rid).listFetched f 15).endFetch n f (zeros 256) 15 0
  let bad (s : State) : State := s.loseFetch n f 15 rid lostSlots
  match f.form with
  | .line l =>
    let tile := (List.range 4).flatMap fun i => if i = l % 4 then bytes else zeros 64
    if lost.isEmpty then s.endFetch n f tile 0 (2 ^ (l % 4))
    else s.loseFetch n f (2 ^ (l % 4)) rid lostSlots
  | .coded =>
    let s := s.countDecode
    match TileCode.decode bytes with
    | .good tile len _ =>
      let beyond := (f.slots.zip ps).zipIdx.all fun x => x.1.2.isSome || decide (ceilDiv len 64 ≤ x.2)
      if beyond then
        let s := foldState (fun s a => (s.onSpare fun p => { p with uncorrectable := p.uncorrectable + 1 }).fault a 4 255 0 1 false)
          s lostSlots
        s.endFetch n f tile 0 15
      else bad s
    | .mismatch => if lost.isEmpty then failed s 1 else bad s
    | .fault => if lost.isEmpty then failed s 2 else bad s
  | .phiozHome =>
    if !lost.isEmpty then bad s
    else if f.batten.size f.tile = 5 then
      match TileCode.phiozOverflow bytes with
      | none => failed s.countDecode 2
      | some a =>
        let o := f.batten.overflow a
        let more := (List.range 4).map fun j => ({ slot := o.slot j, ordinal := 64 + 4 * f.tile + j } : FetchSlot)
        let s := s.onFetch n fun f => { f with form := .phiozOverflow, slots := f.slots ++ more }
        foldState (fun s (x : FetchSlot × Nat) => s.enterSlot f.batten n (2 + x.2) x.1.slot) s more.zipIdx
    else
      let s := s.countDecode
      match TileCode.phiozDecode bytes with
      | .good tile _ _ => s.endFetch n f tile 0 15
      | .mismatch => failed s 1
      | .fault => failed s 2
  | .phiozOverflow =>
    let s := s.countDecode
    let tile := slice bytes 128 256
    if !lost.isEmpty then bad s
    else if fieldLe bytes 124 4 = (Crypto.crc32c tile).toNat then s.endFetch n f tile 0 15
    else failed s 1

/-- Finish a fetch when every slot of it is in. -/
def State.settleFetch (s : State) (n : Nat) : State :=
  match s.fetch n with
  | none => s
  | some f =>
    if f.slots.all fun x => x.result != .pending then
      let s := s.finishFetch n f
      match s.fetch n with
      | none => s
      | some f => if f.slots.all fun x => x.result != .pending then s.finishFetch n f else s
    else s

/-- The slots that a read of a line fetches: place in the run and ordinal (R97, R99, R170). -/
def Batten.fetchPlan (b : Batten) (t line : Nat) : FetchForm × List (Nat × Nat) :=
  let first := (b.tileSlots t).1
  if b.plainForm t then (.line line, [(first + line, 4 * t + line)])
  else if b.phioz then (.phiozHome, [(first, 4 * t), (first + 1, 4 * t + 1)])
  else (.coded, (List.range (b.size t)).map fun j => (first + j, 4 * t + j))

/-- Start a fetch for a read. -/
def State.startFetch (s : State) (r : Request) (b : Batten) (tracker : Option Nat) : State :=
  let t := r.line / 4
  let (form, plan) := b.fetchPlan t (r.line % 4)
  let slots := plan.map fun x => ({ slot := b.run.slot x.1, ordinal := x.2 } : FetchSlot)
  let r := { r with chan := match slots with | x :: _ => slotChannel x.slot | [] => 255 }
  let asleep := slots.any fun x => (s.group (slotChannel x.slot / 8)).st == .poweredDown
  let r := if asleep then r.flag 3 else r
  let n := s.dram.nextFetch
  let f : Fetch := { course := r.course, tile := t, batten := b, key := s.keyOf b.ctx.toNat b.gen, form, slots, tracker, reads := [r] }
  let s := s.onDram fun d => { d with nextFetch := n + 1, fetches := Sparse.insert d.fetches n f }
  let s := foldState (fun s (x : FetchSlot × Nat) => s.enterSlot b n x.2 x.1.slot) s slots.zipIdx
  s.settleFetch n

/-! ## Promotion -/

/-- The promotion that holds a bundle, on an engine or waiting for one. -/
def EngineWork.holds (e : EngineWork) (bundle : Nat) : Bool :=
  match e with
  | .promotion b _ _ _ => b == bundle
  | _ => false
/-- Add a request to a promotion. -/
def EngineWork.join (e : EngineWork) (bundle : Nat) (r : Request) : EngineWork :=
  match e with
  | .promotion b c h w => if b = bundle then .promotion b c h (w ++ [r]) else e
  | e => e
/-- Is a promotion of a bundle under way (R147)? -/
def State.promoting (s : State) (bundle : Nat) : Bool :=
  s.place.engines.any (·.holds bundle) || s.place.promotionsWaiting.any (·.holds bundle)
/-- A request waits for the promotion that holds its bundle. -/
def State.joinPromotion (s : State) (r : Request) : State :=
  s.onPlace fun p =>
    { p with
      engines := p.engines.map (·.join (r.course / 4) r)
      promotionsWaiting := p.promotionsWaiting.map (·.join (r.course / 4) r) }

/-- The job of an engine pauses at a tile boundary: its state is saved as in a stop, and it goes on at the next free engine
(R143, R418). The plaintext taken stays as its history. -/
def State.pauseJob (s : State) (e : Nat) : State :=
  match s.place.engines.getD e .idle with
  | .job entry _ tiles touched =>
    s.onPlace fun p =>
      { p with
        engines := p.engines.set e .idle
        pausedJobs := p.pausedJobs ++ [entry]
        jobs := p.jobs.map fun j =>
          if j.1 == entry then (j.1, { j.2 with st := .paused, historyValid := true, history := tiles, taken := tiles.length, dirty := touched })
          else j }
  | _ => s

/-- The engine that a first touch takes (R140, R143): an idle one, else the lowest-numbered that runs a job, which pauses. -/
def State.takeEngine (s : State) : State × Option Nat :=
  let find (p : EngineWork → Bool) : Option Nat := (s.place.engines.zipIdx.find? fun x => p x.1).map (·.2)
  match find (· == .idle) with
  | some e => (s, some e)
  | none =>
    match find fun e => match e with | .job _ _ _ _ => true | _ => false with
    | some e => (s.pauseJob e, some e)
    | none => (s, none)

/-- Start the promotion of a bundle (R147): its battens are locked; without an engine it waits for one. `heat`: a request
touched it. -/
def State.promote (s : State) (course : Nat) (heat : Bool) (waiting : List Request) : State :=
  let bundle := course / 4
  let cs := (List.range 4).map fun i => bundle * 4 + i
  let s := foldState (fun s c => (s.loadBatten c 4).lockBatten c true) s cs
  let s := s.onPlace fun p => { p with firstTouches := p.firstTouches + 1, touches := p.touches + 1 }
  let s := (s.cost 1200 64 0).onReg fun g => { g with interval := { g.interval with touches := g.interval.touches + 1 } }
  let s := s.bump 0x0C 0xFFFF
  let work : EngineWork := .promotion bundle course heat waiting
  let (s, e) := s.takeEngine
  match e with
  | some e => s.onPlace fun p => { p with engines := p.engines.set e work }
  | none => s.onPlace fun p => { p with promotionsWaiting := p.promotionsWaiting ++ [work] }

/-! ## Reads -/

/-- Costs of a read by stored form (R311); tile cache hits count as misses (R309). -/
def State.costRead (s : State) (b : Batten) (t : Nat) : State :=
  if b.plainForm t then s.cost 2 0 0
  else if b.phioz then (if b.size t = 5 then s.cost 10 0 1 else s.cost 5 0 1)
  else if b.size t = 0 then s
  else s.cost 5 0 1

/-- A missed read of a tile: it joins the tile's tracker, opens one, or goes without (R170 to R172). A class of the no-fill
mask opens none (C142h). -/
def State.missedRead (s : State) (r : Request) (b : Batten) (way : Option Nat) : State :=
  let t := r.line / 4
  let tile := tileNumber r.course t
  let l := r.line % 4
  let epoch := (s.dirOf (r.course / blockCourses)).epoch
  let empty := b.tier == .tiled && !b.phioz && b.size t == 0
  match s.trackerOf tile with
  | some (n, tr) =>
    let s := s.onCache fun c => { c with joins := c.joins + 1 }
    let here := s.dram.fetches.find? fun f => f.2.tracker == some n && (match f.2.form with | .line k => k == l | _ => true)
    match here with
    | some (k, _) => s.onFetch k fun f => { f with reads := f.reads ++ [r] }
    | none => (s.onTracker n fun x => { x with mask := tr.mask ||| BitVec.ofNat 4 (2 ^ l) }).startFetch r b (some n)
  | none =>
    let mask := if b.plainForm t then 2 ^ l else 15
    let (n, s) := s.openFill r.cls.toNat tile epoch mask way
    if empty then
      let s := s.answer r (zeros 64) false
      match n with
      | some n =>
        let listed := s.tileListed r.course t
        (s.install n epoch (maskOf 4 fun i => !bitAt listed i) (zeros 256)).closeTracker n
      | none => s
    else s.startFetch r b n

/-- A read that the ownership check lets through, of a raw or tiled course (R114, R117, R120, R168). -/
def State.permittedRead (s : State) (r : Request) (b : Batten) : State :=
  let t := r.line / 4
  let l := r.line % 4
  let s := s.addHeat r.course
  match s.gatherOf r.course t with
  | some (n, _) => (s.onGather n fun g => { g with reads := g.reads ++ [r] }).closeGather n
  | none =>
    if b.poison && s.lineListed r.course t l then s.answer r [] true
    else
      let s := s.costRead b t
      let tile := tileNumber r.course t
      match s.lookup tile (s.dirOf (r.course / blockCourses)).epoch l with
      | (.hit d, s) => s.answer (r.flag 2) d false
      | (.sectorMiss k, s) => s.missedRead r b (some k)
      | (.tagMiss, s) => s.missedRead r b none

/-! ## Writes -/

/-- The line of a write over an old line: whole, or its enabled bytes. -/
def Request.excess (r : Request) (old : List Byte) : List Byte :=
  if r.kind = .partialWrite then mergeBytes r.enables.toNat (slice r.data 0 64) (slice old 0 64) else slice r.data 0 64

/-- A tile of zeros with the write's line. -/
def Request.newTile (r : Request) : List Byte := splice (zeros 256) (64 * (r.line % 4)) (r.excess (zeros 64))

/-- Does a write cover its line whole? -/
def Request.whole (r : Request) : Bool := r.kind == .write || r.enables == BitVec.allOnes 64

/-- The tier and code that a claim of a class takes (R155, R401). -/
def State.newTier (s : State) (cls : Nat) : Tier × Bool :=
  let p := Sparse.get {} s.place.classes cls
  (if p.pin = 2 ∨ p.raw then .raw else .tiled, p.strong && s.strongReady)

/-- Does a Phioz range entry of the request's logical device cover its DPA (R126)? A request of the rafter link names no
DPA. -/
def State.inPhioz (s : State) (r : Request) : Bool :=
  match r.origin with
  | .rafter _ _ _ => false
  | _ =>
    !r.cascade && (List.range 8).any fun e =>
      let x := Sparse.get {} s.tile.ranges (r.ld.toNat * 8 + e)
      decide (x.dpa ≤ r.dpa) && decide (r.dpa < x.dpa + x.courses * 4096)

/-- Set the home sled ID at the first claim after a state in which every course is absent (R57). -/
def State.fixHome (s : State) : State :=
  if s.allLive.isEmpty then
    s.onXlat fun x => { x with homeId := if s.casc.joined then s.casc.sledId else 0 }
  else s

/-- The line of a write to a lost course: a listed line written whole becomes good, one written in part keeps its poison
and takes no byte (R121). The tile it leaves. -/
def State.settleWrite (s : State) (r : Request) : State × List Byte :=
  let t := r.line / 4
  let l := r.line % 4
  if s.lineListed r.course t l then
    if r.whole then
      let s := s.setTilePoison r.course t (maskOf 4 fun i => bitAt (s.tileListed r.course t) i && i != l)
      (s.madeGood r.course t l r.rid.toNat, r.newTile)
    else (s.notStored r.course t l (popcount 64 r.enables.toNat) r.rid.toNat, zeros 256)
  else (s, r.newTile)

/-- Has the fill of a block's table swap reached a course (R90)? -/
def State.filled (s : State) (course : Nat) : Bool :=
  match s.xlat.swaps.find? (·.block == course / blockCourses) with
  | none => true
  | some w =>
    match w.fill with
    | none => true
    | some n => w.placed && decide (course % blockCourses < n)

/-- Open a gather buffer for a tile, closing the oldest where all 64 are open (R114); none where none closes. -/
def State.openGather (s : State) (course t : Nat) (ld : LdId) : State × Option Nat :=
  let s := if s.tile.gathers.length < 64 then s
    else
      let oldest := s.tile.gathers.foldl (fun (x : Option (Nat × Nat)) g =>
        match x with
        | some (_, o) => if g.2.order < o then some (g.1, g.2.order) else x
        | none => some (g.1, g.2.order)) none
      match oldest with
      | some (n, _) => s.closeGather n
      | none => s
  match firstFrom (fun n => (s.gather n).isNone) 64 0 with
  | none => (s, none)
  | some n =>
    let g : Gather := { course, tile := t, ld, order := s.tile.nextOrder, window := s.tile.window }
    (s.onTile fun x => { x with gathers := Sparse.insert x.gathers n g, nextOrder := x.nextOrder + 1 }, some n)

/-- A write joins the gather buffer of its tile and completes (R113); the buffer closes when it is full or the window is 0
(R114). The flag tells whether it found a buffer. -/
def State.gatherWrite (s : State) (r : Request) : State × Bool :=
  let t := r.line / 4
  let l := r.line % 4
  let (s, n) := match s.gatherOf r.course t with
    | some (n, _) => (s, some n)
    | none => s.openGather r.course t r.ld
  match n with
  | none => (s, false)
  | some n =>
    let en := if r.whole then 2 ^ 64 - 1 else r.enables.toNat
    let s := s.onGather n fun g =>
      { g with
        mask := g.mask ||| BitVec.ofNat 256 (en * 2 ^ (64 * l))
        data := splice (slice g.data 0 256) (64 * l) (r.excess (slice g.data (64 * l) 64))
        writers := g.writers ++ [(r.rid, l, popcount 64 en)] }
    let s := s.completeHost r
    match s.gather n with
    | some g => if g.mask = BitVec.allOnes 256 ∨ g.window = 0 then (s.closeGather n, true) else (s, true)
    | none => (s, true)

/-- Write the slot of a raw course or an uncompressed tile (R119, R121, R179). The request waits where a stripe lock is held
(R266) or R215 wants a run that cannot be placed (R522). -/
def State.rawWrite (s : State) (r : Request) : State :=
  let t := r.line / 4
  let l := r.line % 4
  let before := s
  let b := s.batten r.course
  if s.runBusy b.run || s.stripeBusy b.run (((b.tileSlots t).1 + l) / 8) then s.waitFor r .lock
  else
    let s := s.abandonMove r.course
    let (s, eb) := s.earlyRekey r.course
    match eb with
    | none => (before.unplaced 3 (r.course / blockCourses)).waitFor r .placement
    | some b =>
      let k := (b.tileSlots t).1 + l
      let rid := r.rid.toNat
      let s := s.heatAndClass r.course r.base
      let times := if b.strong then 3 else 1
      let store (s : State) (line : List Byte) : State :=
        let (s, cs) := s.encryptAll b.ctx.toNat b.gen b.tier r.course [(4 * t + l, line)]
        let mask : BitVec 64 := if r.whole then BitVec.allOnes 64 else r.enables
        let act : List PostAction := [.cacheLine (tileNumber r.course t) l mask (slice r.data 0 64), .complete r]
        (s.writeSlots b.run (cs.map fun c => (k, c)) rid act).touchBundle r.course
      let listed := s.lineListed r.course t l
      if r.whole then
        let s := s.cost (2 * times) 0 0
        let s := if listed then
            ((s.setTilePoison r.course t (maskOf 4 fun i => bitAt (s.tileListed r.course t) i && i != l)).syncPoison r.course).madeGood r.course t l rid
          else s
        store s (slice r.data 0 64)
      else
        let s := s.cost (4 * times) 0 0
        let drop (s : State) : State := (s.notStored r.course t l (popcount 64 r.enables.toNat) rid).completeHost r
        if listed then drop s
        else
          let (s, ps) := s.readPlain r.course b b.run k (4 * t + l) 5 rid [0]
          match ps.head?.join with
          | some old => store s (r.excess old)
          | none =>
            let s := s.badTileSlots r.course (2 ^ l) 5 rid [b.run.slot k]
            drop ((s.poisonLines r.course t (2 ^ l)).syncPoison r.course)

/-- A write that claims an absent or stale course (R65, R126, R151, R202). It waits for a table swap's fill (R90), or where
its run cannot be placed (R522). -/
def State.claim (s : State) (r : Request) : State :=
  let c := r.course
  let block := c / blockCourses
  if !s.filled c then s.waitFor (r.flag 7) .fill
  else
    let before := s
    let e := s.dirOf block
    let old := s.batten c
    let s := s.fixHome
    let s := if old.stale e then s.freeCourse c else s
    let lost := old.tier == .absent && old.poison
    let gen := (s.ctx r.ctx.toNat).cur
    let (tier, strong) := s.newTier r.base.toNat
    let t := r.line / 4
    let nb : Batten := { tier, strong, ctx := r.ctx, gen, heat := 32, cls := r.base, epoch := e.epoch, poison := lost }
    let claimed (s : State) (b : Batten) : State :=
      let s := (s.commit c b).ownCount r.ctx.toNat true
      s.traceTier 1 c old.tier b.tier b.len.toNat
    let fail : State := (before.unplaced 3 block).waitFor r .placement
    let withTile (x : List Byte) : List (List Byte) := (List.replicate 16 (zeros 256)).set t x
    if s.inPhioz r then
      let (s, x) := s.settleWrite r
      let (s, p) := s.writePhioz c r.ctx.toNat gen strong (withTile x)
      match p with
      | none => fail
      | some (run, sizes) =>
        let s := s.countEncodes (withTile x)
        ((claimed s { (nb.withRun run) with tier := .tiled, phioz := true, sizes }).syncPoison c).addHeat c |>.completeHost r
    else if tier = .raw then
      let (s, x) := s.settleWrite r
      let (s, p) := s.alloc? 64 strong false
      match p with
      | none => fail
      | some run =>
        let s := s.writeTiles c r.ctx.toNat gen .raw run (rawLayout (withTile x))
        let s := s.cost ((if run.strong then 3 else 1) * (if r.whole then 2 else 4)) 0 0
        ((claimed s { (nb.withRun run) with sizes := sizesAll 4 }).syncPoison c).addHeat c |>.completeHost r
    else
      let (s, ok) := ((claimed s nb).addHeat c).gatherWrite r
      if ok then s else before.waitFor r .lock

/-- A write that the ownership check lets through (R112). -/
def State.permittedWrite (s : State) (r : Request) (b : Batten) : State :=
  if s.moveHolds r.course then s.waitFor r .course
  else if b.plainForm (r.line / 4) then s.rawWrite r
  else
    let before := s
    let (s, ok) := (s.heatAndClass r.course r.base).gatherWrite r
    if ok then s else before.waitFor r .lock

/-! ## Watermarks -/

/-- Does a lookup stall at a watermark (R91, R93): the course that a table rebuild or a discard walk takes next? -/
def State.atWatermark (s : State) (c : Nat) : Bool :=
  (match s.xlat.rebuild with
    | some r => r.begun && c == r.block * blockCourses + r.w
    | none => false)
  || (match s.xlat.discards with
    | d :: _ => s.courseOf d.ld d.dpa == some c
    | [] => false)

/-- Does a claim wait for a clearing walk that takes the course next (R89)? -/
def State.walkHolds (s : State) (c : Nat) : Bool :=
  match s.xlat.clearing with
  | some w => c == w.block * blockCourses + w.w && (s.batten c).stale (s.dirOf w.block)
  | none => false

/-- A write whose packet failed its tag, after it has been written as zeros (R223): its line is listed; a gather buffer that
holds it and cannot close lets go of it. A write that waits is not listed yet. -/
def State.listWritten (s : State) (r : Request) : State :=
  if !r.poisoned || s.reg.waiting.any (fun w => w.request.id == r.id) then s
  else
    let t := r.line / 4
    let l := r.line % 4
    let s := match s.gatherOf r.course t with
      | some (n, _) =>
        let s := s.closeGather n
        s.onGather n fun g =>
          { g with
            mask := g.mask &&& ~~~ BitVec.ofNat 256 ((2 ^ 64 - 1) * 2 ^ (64 * l))
            data := splice (slice g.data 0 256) (64 * l) (zeros 64) }
      | none => s
    (s.poisonLines r.course t (2 ^ l)).syncPoison r.course

/-- May a request reach a local course: those of the rafter link reach only segment blocks of the cascade map (R358)? -/
def State.reaches (s : State) (r : Request) : Bool :=
  match r.origin with
  | .rafter _ _ _ => s.isSegment (r.course / blockCourses)
  | _ => true

/-! ## The translation unit -/

/-- Does a request come from a port of this sled? -/
def Request.isLocal (r : Request) : Bool :=
  match r.origin with
  | .host _ _ => true
  | _ => false

/-- Serve a request at its course, whose batten is loaded: the context, the key, the tier (R47, R65, R84, R107, R205). -/
def State.serveCourse (s : State) (r : Request) (b : Batten) : State :=
  let c := r.course
  let x := s.ctx r.ctx.toNat
  let isRead := r.kind == .read
  if r.isLocal && s.foreignCtx r.ctx.toNat r.ld then
    if isRead then s.refuseRead r b.ctx.toNat 2 else s.discardWrite r b.ctx.toNat 2
  else if b.tier = .absent then
    if isRead then
      if b.poison && s.lineListed c (r.line / 4) (r.line % 4) then s.answer r [] true
      else s.answer r (zeros 64) false
    else if s.walkHolds c then s.waitFor (r.flag 7) .walk
    else if (x.gen x.cur).st = .loaded then (s.claim r).listWritten r
    else s.noKeyWrite r
  else if b.ctx ≠ r.ctx then
    if isRead then s.refuseRead r b.ctx.toNat 1 else s.discardWrite r b.ctx.toNat 1
  else if !(x.gen b.gen).usable then
    if isRead then
      (s.raise 0x0602 .failure r.rid.toNat (le 2 r.ctx.toNat ++ le 4 c ++ le 1 (b2n b.gen)) (s.blockLogs (c / blockCourses))).answer r [] true
    else s.noKeyWrite r
  else if b.tier = .thatched then s.promote c true [r.flag 6]
  else if isRead then s.permittedRead r b
  else (s.permittedWrite r b).listWritten r

/-- A request of a local course at the translation unit (R112, R141, R147, R207, R208). One of the rafter link to a block that
is no segment has no course there: poison that is not listed, as R357 has for a number outside every range. -/
def State.serveLocal (s : State) (r : Request) : State :=
  let c := r.course
  let s := s.touchEngine c
  if !s.reaches r then
    if r.kind = .read then s.answer r [] true else s.complete r false
  else if s.atWatermark c then s.waitFor (r.flag 7) .walk
  else if s.promoting (c / 4) then s.joinPromotion r
  else
    let s := s.loadBatten c 1
    let b := s.view c
    s.serveCourse { r with flags := r.flags ||| BitVec.ofNat 8 b.tier.code } b

/-! ## Remote courses -/

/-- The range of the cascade map that holds a cascade block (R356). -/
def CascadeMap.rangeAt (m : CascadeMap) (block : Nat) : Option (Nat × Range) :=
  m.ranges.find? fun r => r.2.kind != .free && decide (r.2.base ≤ block) && decide (block < r.2.base + r.2.length)

/-- The segment and the course offset in it of course `i` of a range, with the lead's for a mirrored one (R357). -/
def Range.place (r : Range) (i : Nat) : Nat × Nat :=
  let m := r.length * blockCourses / (max r.n 1)
  match r.kind with
  | .concatenated => (i / m, i % m)
  | .interleaved => (i % r.n, i / r.n)
  | .mirrored => (if r.leadIsOne then 1 else 0, i)
  | .free => (0, i)

/-- A segment of a range. -/
def CascadeMap.segment (m : CascadeMap) (r : Range) (j : Nat) : Segment := Sparse.get {} m.segments (r.first + j)

/-- Hops to a sled (R361): 0 to itself. -/
def State.hopsTo (s : State) (d : Nat) : Nat := if d = s.me then 0 else routeHops (s.route d)

/-- Does the sled hold an unretired write of range `i` (R363)? -/
def State.unretiredWrite (s : State) (i : Nat) : Bool :=
  s.link.peers.any fun p => p.2.held.any fun h =>
    match h.what with
    | .write r => (s.casc.map.rangeAt (r.global / blockCourses)).map (·.1) == some i
    | _ => false

/-- Where a cascade course number is served (R357, R363, R364): sled and local course; none outside every range or with its
segment lost. -/
def State.resolve (s : State) (x : Nat) (isRead : Bool) : Option (Nat × Nat) :=
  match s.casc.map.rangeAt (x / blockCourses) with
  | none => none
  | some (i, r) =>
    let k := x - r.base * blockCourses
    let (j, off) := r.place k
    let lead := s.casc.map.segment r j
    let pick :=
      if r.kind = .mirrored then
        let other := s.casc.map.segment r (1 - j)
        let usable := !other.lost && (!r.degraded || r.resilvering) && (!r.resilvering || decide (off < r.watermark))
        if isRead && usable && !s.unretiredWrite i && decide (s.hopsTo other.sled.toNat < s.hopsTo lead.sled.toNat) then other
        else lead
      else lead
    if pick.lost then none else some (pick.sled.toNat, pick.base.toNat * blockCourses + off)

/-- Event 0A07h: a write to a remote course is lost (R343, R349). -/
def State.remoteLost (s : State) (d : Nat) (r : Request) : State :=
  let s := s.onPeer d fun p => { p with lost := p.lost + 1 }
  s.raise 0x0A07 .failure r.rid.toNat (le 2 d ++ le 8 (r.dpa / 64 * 64) ++ le 4 1) [r.ld]

/-- Is a course of a mirrored range (R364)? -/
def State.mirrored (s : State) (r : Request) : Bool :=
  match s.casc.map.rangeAt (r.global / blockCourses) with
  | some (_, x) => x.kind == .mirrored
  | none => false

/-- Send a request to the home sled (R330, R331, R340): a write completes to its host as it enters the replay buffer. -/
def State.sendRemote (s : State) (r : Request) (d course : Nat) : State :=
  let isRead := r.kind == .read
  let u := r.urgency
  let line := (d * 2 ^ 30 + course) * 64 + r.line
  let r := (r.flag 5)
  if (s.peer d).st = .unreachable && !(s.mirrored r && !isRead) then
    if isRead then s.answer r [] true else (s.remoteLost d r).complete r false
  else
    let en := r.kind == .partialWrite
    let h : Header := { kind := if isRead then 1 else 2, enables := en, urgency := u, fabric := s.host.gfam,
                        rid := r.rid.toNat, ctx := r.ctx.toNat, line }
    let payload := if isRead then [] else slice r.data 0 64 ++ (if en then le 8 r.enables.toNat ++ zeros 8 else [])
    if isRead then s.enqueueSend d h payload true (.read r)
    else
      let s := s.complete r false
      s.enqueueSend d h payload true (.write r)

/-- A request of a cascade extent (R334, R357, R359). -/
def State.serveCascade (s : State) (r : Request) : State :=
  let isRead := r.kind == .read
  match s.resolve r.global isRead with
  | none =>
    if isRead then s.answer r [] true
    else (s.raise 0x0A07 .failure r.rid.toNat (le 2 0xFFFF ++ le 8 (r.dpa / 64 * 64) ++ le 4 1) [r.ld]).complete r false
  | some (d, course) =>
    if d = s.me then
      let r := { r with course }
      match s.behind course with
      | some why => s.waitFor r why
      | none => s.serveLocal r
    else if s.foreignCtx r.ctx.toNat r.ld then
      let r := { r with course := 0xFFFFFFFF }
      if isRead then s.refuseRead r 0 2 else s.discardWrite r 0 2
    else s.sendRemote r d course

/-- An issued request reaches the translation unit. -/
def State.serve (s : State) (r : Request) : State :=
  if r.cascade then s.serveCascade r
  else
    match s.behind r.course with
    | some why => s.waitFor r why
    | none => s.serveLocal r

/-- Serve again, in issue order, the requests that wait for one of the reasons. -/
def State.retry (s : State) (p : WaitReason → Bool) : State :=
  let again := s.reg.waiting.filter fun w => p w.reason
  let s := s.onReg fun g => { g with waiting := g.waiting.filter fun w => !p w.reason }
  foldState (fun s w => s.serve w.request) s again

/-- Try again the closes that wait for a run or a lock (R266, R522). -/
def State.retryGathers (s : State) : State := s.closeGathers (·.stuck)

/-! ## Intake and issue -/

/-- Does a host port carry CXL.mem requests: it is out of reset, its link is up and not in L2, and the hub runs? -/
def State.portServes (s : State) (p : HostPort) : Bool :=
  let x := s.port p
  x.up && !x.inReset && !x.l2 && (s.eaves.st == .active || s.eaves.st == .drowse)

/-- The cascade course number that a DPA of a logical device names, through an accepted cascade extent (R359). -/
def State.cascadeCourse (s : State) (l : LdId) (dpa : Nat) : Option Nat :=
  let b := dpa / blockBytes
  (s.casc.extents.find? fun e => e.accepted && e.ld == l && decide (e.dpaBlock ≤ b) && decide (b < e.dpaBlock + e.blocks)).map fun e =>
    (e.base + (b - e.dpaBlock)) * blockCourses + dpa / courseBytes % blockCourses

/-- A request that reaches a host port (R21, R25 to R29, R43, R58, R201, R289 to R291, R299, R303 to R307, R419, R420). A
draining device takes none; a full store holds no credit for it; an address outside every accepted extent is not accepted. -/
def State.accept (s : State) (m : MemReq) (kind : ReqKind) (data : List Byte) (enables : BitVec 64) : State :=
  if !s.portServes m.port then s
  else
    let s := s.wakeDrowse 1
    let l := s.ldOf m.port m.ldid
    let rid := s.ridOf m.port m.ldid m.pbr
    let src := portNat m.port
    if !s.storeRoom (s.usedBy src) then s
    else
      let s := s.onEaves fun e =>
        { e with consent := e.consent &&& ~~~ BitVec.ofNat 32 (2 ^ l.toNat), wholeConsent := e.wholeConsent && !s.host.gfam }
      if (s.ld l.toNat).drain.isSome then
        s.onLd l.toNat fun d => { d with drain := d.drain.map fun x => { x with discarded := x.discarded + 1 } }
      else
        let dpa := m.addr.toNat / 64 * 64
        let ctx := s.contextOf m.port m.ckid rid.toNat
        let base := s.baseClass ctx l rid.toNat
        let u := s.urgencyOf rid.toNat
        let cls := s.effClass rid.toNat base.toNat u
        let r : Request := { kind, origin := .host m.port m.tag, ld := l, rid := rid.setWidth 16, ctx, cls := BitVec.ofNat 6 cls, base, dpa,
                             line := dpa / 64 % 64, data := slice data 0 64, enables, arrived := s.clock, urgency := u }
        let s := if kind = .read then s else s.countBytes src 64 0
        match s.courseOf l dpa with
        | some c => s.enqueue { r with course := c }
        | none =>
          match s.cascadeCourse l dpa with
          | some x =>
            let away := match s.resolve x (kind == .read) with
              | some (d, _) => decide (d ≠ s.me)
              | none => true
            s.enqueue { r with cascade := true, global := x, remote := away }
          | none => s.emit (.decodeError m.port m.tag)

/-- Does the controller's stage keep an issue slot back: at C1 one request a hub cycle, at C2 one every four (R514)? -/
def State.issueBarred (s : State) : Bool :=
  match s.reg.lastIssue with
  | none => false
  | some t => decide (s.clock < t + (if s.therm.controller = 0 then 0 else if s.therm.controller = 1 then 1 else 4))

/-- One issue slot (R294, R295): the first eligible head goes to the translation unit, while it holds fewer than 4,096
issued requests. A host request is taken to the course that its DPA names now; one that no extent holds any more is not
accepted (R58). -/
def State.issue (s : State) : State :=
  if 4096 ≤ s.reg.inFlight.length || s.issueBarred then s
  else
    match s.choose with
    | none => s
    | some (qn, strict, out) =>
      match (s.queue qn).requests with
      | [] => s
      | r :: _ =>
        let s := s.takeHead qn strict out r
        let owner := match r.origin with | .host _ _ => some r.ld | _ => none
        let s := s.onReg fun g => { g with inFlight := g.inFlight ++ [(r.id, owner, false)], lastIssue := some s.clock }
        match r.origin with
        | .rafter _ _ _ => s.serve r
        | .sled => s.serve r
        | .host p tag =>
          if r.cascade then s.serve r
          else
            match s.courseOf r.ld r.dpa with
            | some c => s.serve { r with course := c }
            | none => (s.landed r).emit (.decodeError p tag)

end Sys2Proof.Machine
end

