-- ==== Sys2Proof/Machine/ThatchOps.lean ====
section
/-! DEFINITION. Thatching jobs (spec/04_thatching_and_placement.md R132, R140 to R143), promotion (R147 to R149, R185,
R522), and re-codes (R79, R80, R127, R153). -/

namespace Sys2Proof.Machine

/-! ## Jobs -/

/-- A job entry. -/
def State.job (s : State) (n : Nat) : Job := Sparse.get {} s.place.jobs n
/-- Change a job entry. -/
def State.onJob (s : State) (n : Nat) (f : Job → Job) : State :=
  s.onPlace fun p => { p with jobs := Sparse.modify {} p.jobs n f }
/-- An engine's work. -/
def State.engine (s : State) (e : Nat) : EngineWork := s.place.engines.getD e .idle
/-- The engine that holds a bundle for a job. -/
def State.engineOf (s : State) (j : Nat) : Option Nat :=
  (s.place.engines.zipIdx.find? fun x => match x.1 with | .job n _ _ _ => n == j | _ => false).map (·.2)
/-- Set an engine's work. -/
def State.setEngine (s : State) (e : Nat) (w : EngineWork) : State :=
  s.onPlace fun p => { p with engines := p.engines.set e w }
/-- An engine is free: the oldest promotion that waits for one takes it (R140). -/
def State.freeEngine (s : State) (e : Nat) : State :=
  match s.place.promotionsWaiting with
  | w :: rest => (s.setEngine e w).onPlace fun p => { p with promotionsWaiting := rest }
  | [] => s.setEngine e .idle

/-- Stop a job for a reason (R142, R143): a bundle that an engine holds is released unchanged and its plaintext kept as the
job's history, watched; event 0401h. A controller job that completes its range frees its entry (R140). -/
def State.stopJob (s : State) (j reason : Nat) : State :=
  let s := match s.engineOf j with
    | some e =>
      match s.engine e with
      | .job _ _ tiles touched =>
        (s.onJob j fun x => { x with historyValid := !tiles.isEmpty, history := tiles, taken := tiles.length, dirty := touched }).freeEngine e
      | _ => s
    | none => s
  let s := s.onPlace fun p => { p with pausedJobs := p.pausedJobs.filter (· != j) }
  let s := s.onJob j fun x =>
    if reason = 1 then { x with st := .finished, reason, historyValid := false, history := [], taken := 0, dirty := false }
    else { x with st := .stopped, reason }
  let x := s.job j
  let s := s.raise 0x0401 .informational x.requestor (le 2 j ++ le 1 reason ++ le 8 x.input ++ le 8 x.output)
    (match x.owner with | some l => [l] | none => s.lds)
  if x.controller && reason == 1 then s.onPlace fun p => { p with jobs := Sparse.erase p.jobs j } else s

/-- A job goes on to its next bundle, in local order or DPA order (R140, R161); at the end of its range it stops. -/
def State.advanceJob (s : State) (j : Nat) : State :=
  let x := s.job j
  let dpa := x.dpaStart.map (· + 16384)
  let next := match x.owner, dpa with
    | some l, some d => (s.courseOf l d).getD (x.next + 4)
    | _, _ => x.next + 4
  let s := s.onJob j fun x =>
    { x with next, dpaStart := dpa, bundlesLeft := x.bundlesLeft - 1, taken := 0, historyValid := false, history := [], dirty := false }
  if (s.job j).bundlesLeft = 0 then s.stopJob j 1 else s

/-- The battens of a bundle as lookups see them. -/
def State.bundleBattens (s : State) (first : Nat) : List Batten := (List.range 4).map fun i => s.view (first + i)

/-- The class settings of a class (R155). -/
def State.classPlace (s : State) (c : Nat) : ClassPlacement := Sparse.get {} s.place.classes c

/-- May a bundle be thatched by a job of a heat limit (R132)? Its key must be one that reads. -/
def State.eligibleBundle (s : State) (first heat : Nat) : Bool :=
  let bs := s.bundleBattens first
  match bs with
  | [] => false
  | a :: _ =>
    ((s.ctx a.ctx.toNat).gen a.gen).usable && bs.all fun b =>
      (b.tier == .raw || b.tier == .tiled) && b.ctx == a.ctx && b.gen == a.gen && !b.poison && !b.move
        && (!b.phioz || (s.ctx b.ctx.toNat).phiozConv) && (s.classPlace b.cls.toNat).pin == 0 && decide (b.heat.toNat ≤ heat)

/-- The staging of an engine: the tiles coded, newest first, the Rice parameters, the bits of the body (R134, R137). -/
structure Staging where
  done : List (List Byte) := []
  params : Thatch.Params := Thatch.Params.start
  body : List Bool := []

/-- Code one more tile into the staging under the engine's choice (R139). -/
def Staging.add (x : Staging) (tile : List Byte) : Staging :=
  let r := Thatch.putTile (Config.thatchPlan x.done.reverse tile) x.params x.done tile
  { done := tile :: x.done, params := r.2, body := x.body ++ r.1 }

/-- Data slots of the staging. -/
def Staging.slots (x : Staging) : Nat := Thatch.slotsOfBits x.body.length

/-- The bundle of a job is left as it was: one more skipped or failed (R141). -/
def State.leaveBundle (s : State) (j : Nat) (failed : Bool) : State :=
  let s := s.onJob j fun x => if failed then { x with failed := x.failed + 1 } else { x with skipped := x.skipped + 1 }
  let s := if failed then s.onPlace fun p => { p with overCap := p.overCap + 1 } else s
  s.advanceJob j

/-- The loop of R141 over the tiles of a bundle: tiles of the kept history are coded again without a read, the others are
fetched. At its end the engine holds the staged bundle. -/
def State.stageTiles (s : State) (e j first cap : Nat) (kept : List (List Byte)) : List Nat → Staging → State
  | [], x => s.setEngine e (.job j (first / 4) x.done.reverse false)
  | t :: rest, x =>
    let course := first + t / 16
    let (s, tile, bad) := match kept[t]? with
      | some d => (s, d, 0)
      | none =>
        let (s, r) := s.readTile course (s.batten course) (t % 16) 8 0xFFFF
        (if r.bad = 0 then s.onJob j fun x => { x with input := x.input + 256 } else s, r.data, r.bad)
    if bad ≠ 0 then ((s.poisonLines course (t % 16) bad).syncPoison course).leaveBundle j false
    else
      let x := x.add tile
      let s := s.onJob j fun y => { y with taken := max y.taken (t + 1) }
      let job := s.job j
      if cap < x.slots then s.leaveBundle j true
      else if !job.controller && decide (job.budget < 8 * ceilDiv x.slots 8) then
        (s.onJob j fun y => { y with historyValid := true, history := x.done.reverse, taken := t + 1, dirty := false }).stopJob j 2
      else s.stageTiles e j first cap kept rest x

/-- The bundle cap (R141). -/
def State.bundleCap (s : State) (first percent : Nat) : Nat :=
  min 255 (((s.bundleBattens first).map fun b => b.len.toNat).sum * percent / 100)

/-- The job that a free engine takes: one that was paused, oldest first, else the next running job in round robin (R140,
R143). -/
def State.nextJob (s : State) : Option Nat :=
  match s.place.pausedJobs with
  | j :: _ => some j
  | [] =>
    let free : List (Nat × Job) := s.place.jobs.filter fun j => j.2.st == .running && (s.engineOf j.1).isNone
    match free.find? fun (j : Nat × Job) => decide (s.place.nextJob < j.1) with
    | some j => some j.1
    | none => free.head?.map fun (j : Nat × Job) => j.1

/-- An engine takes the next bundle of a job in its turn (R140 to R142). A bundle with a tile lock is not taken yet (R118). -/
def State.takeBundle (s : State) (e : Nat) : State :=
  match s.engine e, s.nextJob with
  | .idle, some j =>
    let x := s.job j
    let s := s.onPlace fun p => { p with pausedJobs := p.pausedJobs.filter (· != j), nextJob := j }
    let s := s.onJob j fun x => { x with st := .running }
    let first := match x.owner, x.dpaStart with
      | some l, some d => s.courseOf l d
      | _, _ => some x.next
    match first with
    | none => s.leaveBundle j false
    | some first =>
      if !s.eligibleBundle first x.heat then s.leaveBundle j false
      else if (List.range 4).any fun i => s.gathered (first + i) then s
      else
        let kept := if x.historyValid && !x.dirty then x.history else []
        let s := s.onJob j fun x => { x with historyValid := false, history := [], dirty := false, taken := kept.length }
        s.stageTiles e j first (s.bundleCap first x.cap) kept (List.range 64) {}
  | _, _ => s

/-- The runs that a course's batten names: its own and its overflow runs (R123). -/
def State.runsOf (s : State) (course : Nat) (b : Batten) : List Run := b.run :: (s.overflowRuns course b).map (·.2)

/-- The generation that a pass over a course encrypts under, and whether it is early (R215). -/
def State.passGen (s : State) (b : Batten) : Bool × Bool :=
  if s.mustMoveGen b then ((s.ctx b.ctx.toNat).cur, true) else (b.gen, b.early)

/-- Commit the staged bundle of an engine (R141): one strong-coded run, four battens of tier 11b, the old runs freed. A
touched bundle is left; one that no stripe lath set holds stops the job with reason 6 (R522). -/
def State.commitBundle (s : State) (e : Nat) : State :=
  match s.engine e with
  | .job j bundle tiles touched =>
    let first := 4 * bundle
    if touched then (s.freeEngine e).leaveBundle j false
    else
      let x := tiles.foldl Staging.add {}
      let n := x.slots
      let before := s
      let (s, r) := s.alloc? n true true
      match r with
      | none => (before.unplaced 4 (first / blockCourses)).stopJob j 6
      | some r =>
        let b0 := s.batten first
        let (gen, early) := s.passGen b0
        let courses := (List.range 4).map fun i => ((tiles.drop (16 * i)).take 16).flatten
        let form := slice (Thatch.formBytes courses x.body) 0 (64 * n)
        let (s, cts) := s.encryptAll b0.ctx.toNat gen .thatched first ((chunks 64 n form).zipIdx.map fun y => (y.2, y.1))
        let s := s.writeRun r cts
        let cs := (List.range 4).map (first + ·)
        let old := cs.flatMap fun c => s.runsOf c (s.batten c)
        let phioz := (cs.map fun c => (s.overflowRuns c (s.batten c)).length).sum
        let s := foldState (fun s c =>
          let b := s.batten c
          let s := s.invalidateCourse c
          let s := s.commit c { (b.withRun r) with tier := .thatched, gen, early, phioz := false, move := false, sizes := sizesAll 7 }
          s.traceTier 4 c b.tier .thatched n) s cs
        let s := s.onTile fun t => { t with overflowRuns := t.overflowRuns - phioz }
        let s := s.freeEngine e
        let s := foldState State.release s old
        let s := s.onPlace fun p => { p with thatched := p.thatched + 1 }
        let s := s.bump 0x0D 0xFFFF
        let s := s.onJob j fun x =>
          { x with budget := if x.controller then x.budget else x.budget - 8 * ceilDiv n 8, output := x.output + 64 * n, committed := x.committed + 1 }
        s.advanceJob j
  | _ => s

/-! ## Promotion -/

/-- Does the ownership check let a request use a stored course (R207, R208)? -/
def State.owns (s : State) (r : Request) (b : Batten) : Bool :=
  let local_ := match r.origin with | .host _ _ => true | _ => false
  !(local_ && s.foreignCtx r.ctx.toNat r.ld) && b.ctx == r.ctx && ((s.ctx r.ctx.toNat).gen b.gen).usable

/-- Serve a request that waited for a promotion (R147 step 9, R185): a read of a promoted course with no buffer open and no
line listed is answered from the decoded plaintext, whose tile is installed; any other takes its usual path. -/
def State.serveDecoded (s : State) (plain : Nat → Option (List Byte)) (r : Request) : State :=
  let t := r.line / 4
  let b := s.view r.course
  let tile := tileNumber r.course t
  let epoch := (s.dirOf (r.course / blockCourses)).epoch
  match plain r.course with
  | none => s.serve r
  | some d =>
    if r.kind != .read || b.tier != .tiled || !s.owns r b || (s.gatherOf r.course t).isSome || (s.trackerOf tile).isSome
        || (s.matchWay tile epoch).isSome || s.lineListed r.course t (r.line % 4) then s.serve r
    else
      let data := slice d (256 * t) 256
      let s := (s.addHeat r.course).tagMiss
      let (n, s) := s.openFill r.cls.toNat tile epoch 15 none
      let s := match n with
        | some n =>
          let listed := s.tileListed r.course t
          (s.install n epoch (maskOf 4 fun i => !bitAt listed i) data).closeTracker n
        | none => s
      s.answer r (slice data (64 * (r.line % 4)) 64) false

/-- Serve a request whose bundle's runs could not be placed (R522): a read from the decoded plaintext, poison for a lost
course; a write waits for a run. -/
def State.serveUnplaced (s : State) (plain : Nat → Option (List Byte)) (r : Request) : State :=
  if !s.owns r (s.view r.course) then s.serve r
  else if r.kind != .read then s.waitFor r .placement
  else
    let s := s.addHeat r.course
    match plain r.course with
    | some d => s.answer r (slice d (64 * r.line) 64) false
    | none => s.answer r [] true

/-- Runs for the tiled layouts of a list of courses (owner class and slots of each); all or none. -/
def State.allocAll (s : State) : List (Nat × Nat) → State × Option (List Run)
  | [] => (s, some [])
  | (cls, n) :: rest =>
    let strong := (s.classPlace cls).strong && s.strongReady
    let (s, r) := s.alloc? n strong false
    match r with
    | none => (s, none)
    | some r =>
      let (s, rs) := s.allocAll rest
      match rs with
      | none => (s.unalloc r, none)
      | some rs => (s, some (r :: rs))

/-- The decoded courses of a thatched bundle (R147 steps 3 and 4, R149): the results of its four courses. -/
def State.decodeThatched (s : State) (first : Nat) (b : Batten) (rid : Nat) (source : Nat := 4) : State × List Thatch.CourseResult :=
  let (s, cs) := s.readRun b.run source rid
  let bad := (cs.zipIdx.filter fun x => x.1.isNone).map (·.2)
  let n := b.len.toNat
  let s := s.onFlash fun f => { f with decrypted := f.decrypted + n }
  let bytes := (cs.zipIdx.map fun x => match x.1 with
    | some c => s.decrypt b.ctx.toNat b.gen .thatched x.2 first c
    | none => zeros 64).flatten
  let rs := Thatch.decodeBundle bytes n bad
  let lost := ((rs.zipIdx.find? fun x => x.1 == .lost 3).map (·.2)).getD 0
  let s := foldState (fun s k => s.badSlot (b.run.slot k) 2 (first + lost) 15 source rid (s.blockLogs (first / blockCourses))) s bad
  (s, rs)

/-- A course lost at promotion (R149): event 0402h. -/
def State.loseAtPromotion (s : State) (c cause : Nat) : State :=
  let block := c / blockCourses
  let s := (s.loseCourse c).lostEvent block (c % blockCourses) 1
  let s := s.onPlace fun p => { p with lost := p.lost + 1 }
  s.raise 0x0402 .failure 0xFFFF (le 4 c ++ le 1 cause) (s.blockLogs block)

/-- Finish a promotion (R147 steps 3 to 9, R148, R149): the courses of the bundle that its batten still names are decoded,
those that fail are lost, the others take tiled runs; all or none is committed where a run cannot be placed (R522). -/
def State.finishPromotion (s : State) (bundle touched : Nat) (heat : Bool) (waiting : List Request) : State :=
  let first := 4 * bundle
  let cs := (List.range 4).map (first + ·)
  let unlock (s : State) : State := foldState (fun s c => s.lockBatten c false) s cs
  match cs.find? fun c => (s.view c).tier == .thatched with
  | none => foldState State.serve (unlock s) waiting
  | some ref =>
    let b := s.view ref
    let rid := match waiting with | r :: _ => r.rid.toNat | [] => 0xFFFF
    let (s, rs) := s.decodeThatched first b rid
    let named := cs.filter fun c => (s.view c).tier == .thatched && (s.view c).base == b.base
    let result (c : Nat) : Thatch.CourseResult := rs.getD (c - first) (.lost 2)
    let good := named.filterMap fun c => match result c with | .good d => some (c, d) | .lost _ => none
    let plain (c : Nat) : Option (List Byte) := (good.find? (·.1 == c)).map (·.2)
    let layouts := good.map fun x => tiledLayout (chunks 256 16 x.2)
    let (gen, early) := s.passGen b
    let before := s
    let (s, runs) := s.allocAll ((good.zip layouts).map fun x => ((s.batten x.1.1).cls.toNat, layoutLen x.2))
    match runs with
    | none => foldState (fun s r => s.serveUnplaced plain r) (unlock (before.unplaced 4 (first / blockCourses))) waiting
    | some runs =>
      let s := foldState (fun s (x : ((Nat × List Byte) × List (Nat × List (List Byte))) × Run) =>
        let c := x.1.1.1
        let old := s.batten c
        let s := s.countEncodes (chunks 256 16 x.1.1.2)
        let s := s.writeTiles c b.ctx.toNat gen .tiled x.2 x.1.2
        let h := if heat && c == touched && decide (old.heat.toNat < 32) then 32 else old.heat
        let s := s.commit c { (old.withRun x.2) with tier := .tiled, gen, early, phioz := false, heat := h, sizes := layoutSizes x.1.2 }
        s.traceTier 5 c .thatched .tiled x.2.len) s ((good.zip layouts).zip runs)
      let s := foldState (fun s c => match result c with | .lost k => s.loseAtPromotion c k | .good _ => s) s named
      let s := unlock (s.release b.run)
      foldState (fun s r => s.serveDecoded plain r) s waiting

/-- The promotion of an engine commits (R147); the engine is free. -/
def State.commitPromotion (s : State) (e : Nat) : State :=
  match s.engine e with
  | .promotion bundle course heat waiting => (s.freeEngine e).finishPromotion bundle course heat waiting
  | _ => s

/-- Finish every promotion of the bundles that `p` selects, those that wait for an engine too (R43, R93). -/
def State.finishPromotions (s : State) (p : Nat → Bool) : State :=
  let mine (w : EngineWork) : Bool := match w with | .promotion b _ _ _ => p b | _ => false
  let queued := s.place.promotionsWaiting.filter mine
  let s := s.onPlace fun x => { x with promotionsWaiting := x.promotionsWaiting.filter fun w => !mine w }
  let s := foldState (fun s e => if mine (s.engine e) then s.commitPromotion e else s) s (List.range 4)
  foldState (fun s w => match w with | .promotion b c h l => s.finishPromotion b c h l | _ => s) s queued

/-- Promote one thatched bundle at once, with no request (Warm Course Range, Discard Course Range, re-silvering): a
promotion of it under way is finished instead. -/
def State.promoteNow (s : State) (bundle : Nat) (touched : Nat) (heat : Bool) : State :=
  if s.promoting bundle then s.finishPromotions (· == bundle)
  else
    let cs := (List.range 4).map fun i => bundle * 4 + i
    let s := foldState (fun s c => (s.loadBatten c 4).lockBatten c true) s cs
    let s := (s.cost 1200 64 0).onReg fun g => { g with interval := { g.interval with touches := g.interval.touches + 1 } }
    let s := s.onPlace fun p => { p with firstTouches := p.firstTouches + 1, touches := p.touches + 1 }
    (s.bump 0x0C 0xFFFF).finishPromotion bundle touched heat []

/-! ## Re-codes -/

/-- The plaintext of a raw or tiled course's tiles from `t` on, as a re-code reads it (R153): a line that fails is listed,
and listed lines are zeros. -/
def State.readCourse (s : State) (course : Nat) (b : Batten) (source : Nat) : List Nat → State × List (List Byte)
  | [] => (s, [])
  | t :: rest =>
    let (s, r) := s.readTile course b t source 0xFFFF
    let s := if r.bad = 0 then s else (s.poisonLines course t r.bad).syncPoison course
    let x := zeroLines r.data (s.tileListed course t)
    let (s, xs) := s.readCourse course b source rest
    (s, x :: xs)

/-- A re-code drops its result (R153, R522). -/
def State.dropRecode (s : State) (course : Nat) : State := s.unplaced 7 (course / blockCourses)

/-- Commit a re-coded course: its new batten, its old runs freed. -/
def State.commitRecode (s : State) (course : Nat) (old nb : Batten) (oldRuns : List Run) (sub : Nat) : State :=
  let s := s.commit course { nb with poison := s.courseListed course, move := false }
  let s := if old.phioz && old.tier == .tiled then s.onTile fun t => { t with overflowRuns := t.overflowRuns - (oldRuns.length - 1) } else s
  let s := if sub = 0 then s else s.traceTier sub course old.tier nb.tier nb.len.toNat
  foldState State.release s oldRuns

/-- Re-code a course to another tier (R127, R153): a Phioz course becomes native where its context's conversion flag is set,
and is counted converted. -/
def State.recodeTier (s : State) (course : Nat) (b : Batten) (toRaw : Bool) : State :=
  let oldRuns := s.runsOf course b
  let (s, tiles) := s.readCourse course b 9 allTiles
  let b := s.batten course
  let strong := (s.classPlace b.cls.toNat).strong && s.strongReady
  let (gen, early) := s.passGen b
  let keep := b.phioz && !(s.ctx b.ctx.toNat).phiozConv
  let ctx := b.ctx.toNat
  let done (s : State) : State := if b.phioz && !keep then s.onTile fun t => { t with converted := t.converted + 1 } else s
  if !toRaw && keep then
    let (s', p) := s.writePhioz course ctx gen strong tiles
    match p with
    | none => s.dropRecode course
    | some (r, sizes) =>
      (s'.countEncodes tiles).commitRecode course b { (b.withRun r) with tier := .tiled, gen, early, phioz := true, sizes } oldRuns 3
  else
    let layout := if toRaw then rawLayout tiles else tiledLayout tiles
    let tier : Tier := if toRaw then .raw else .tiled
    if !toRaw && decide (56 < layoutLen layout) then s
    else
      let (s', r) := s.alloc? (layoutLen layout) strong false
      match r with
      | none => s.dropRecode course
      | some r =>
        let s' := if toRaw then s' else s'.countEncodes tiles
        let s' := s'.writeTiles course ctx gen tier r layout
        done (s'.commitRecode course b { (b.withRun r) with tier, gen, early, phioz := keep, sizes := layoutSizes layout } oldRuns
          (if toRaw then 2 else 3))

/-- Write a course afresh under another code, its tiles read, with the generation and the early-rekey flag of the pass (R123,
R215). -/
def State.recodeFrom (s : State) (course : Nat) (b : Batten) (strong : Bool) (old : List Run) (tiles : List (List Byte)) (g : Bool × Bool) : State :=
  if b.phioz && b.tier == .tiled then
    let (s', p) := s.writePhioz course b.ctx.toNat g.1 strong tiles
    match p with
    | none => s.dropRecode course
    | some (r, sizes) => s'.commitRecode course b { (b.withRun r) with gen := g.1, early := g.2, sizes } old 0
  else
    let layout := if b.tier = .raw then rawLayout tiles else tiledLayout tiles
    let (s', r) := s.alloc? (layoutLen layout) strong false
    match r with
    | none => s.dropRecode course
    | some r =>
      (s'.writeTiles course b.ctx.toNat g.1 b.tier r layout).commitRecode course b
        { (b.withRun r) with gen := g.1, early := g.2, sizes := layoutSizes layout } old 0

/-- Copy a course's run into a run of another code, where one can be placed. -/
def State.recodeCopy (s : State) (course : Nat) (b : Batten) (strong : Bool) : State :=
  let (s', r) := s.alloc? b.len.toNat strong false
  match r with
  | none => s.dropRecode course
  | some r =>
    if r.strong = b.strong then (s'.unalloc r).dropRecode course
    else
      let (s, tiles) := s'.copyTiles course b 9 allTiles
      let s := s.writeRun r (tiles.map (·.2)).flatten
      s.commitRecode course b { (b.withRun r) with sizes := tiles.map fun x => BitVec.ofNat 3 x.1 } [b.run] 0

/-- Re-code a course to its class's code (R153): the ciphertext is copied into a run of the other code (R80). -/
def State.recodeCode (s : State) (course : Nat) (b : Batten) : State :=
  let strong := (s.classPlace b.cls.toNat).strong && s.strongReady
  if b.strong = strong then s
  else if s.mustMoveGen b || (b.phioz && b.tier == .tiled) then
    -- a change of generation, or overflow runs that follow the course's code (R123, R215): written afresh
    let x := s.readCourse course b 9 allTiles
    x.1.recodeFrom course (x.1.batten course) strong (s.runsOf course b) x.2 (x.1.passGen (x.1.batten course))
  else s.recodeCopy course b strong

/-- A queued re-code runs (R118, R153): it waits while a tile of the course is locked or a stripe of its run is; it falls
away where the course is no longer raw or tiled. At pressure stage 1 and above a raw course hotter than H_tile goes
after every cooler one that is queued (R157). -/
def State.recodeCourse (s : State) (course : Nat) : State :=
  match Sparse.find s.place.recodes course with
  | none => s
  | some k =>
    let b := s.view course
    let cooler := decide (s.place.policy.tile < b.heat.toNat) &&
      s.place.recodes.any fun x => x.2 == .toTiled && decide ((s.view x.1).heat.toNat < b.heat.toNat) && (s.view x.1).tier == .raw
    if s.gathered course || s.runBusy b.run || s.isLocked course || b.move || (k == .toTiled && cooler) then s
    else
      let s := s.onPlace fun p => { p with recodes := Sparse.erase p.recodes course }
      if !((s.ctx b.ctx.toNat).gen b.gen).usable then s
      else
        match k, b.tier with
        | .toRaw, .tiled => s.recodeTier course b true
        | .toTiled, .raw => s.recodeTier course b false
        | .toCode, .raw => s.recodeCode course b
        | .toCode, .tiled => s.recodeCode course b
        | _, _ => s

end Sys2Proof.Machine
end

