-- ==== Sys2Proof/Machine/CapOps.lean ====
section
/-! DEFINITION. Making blocks absent (spec/02_battens_and_tiers.md R88; spec/01_host_view.md R41), the offer of capacity
and its fills (R31 to R36, R58, R526), and the disable of a logical device (R43, R44). -/

namespace Sys2Proof.Machine

/-! ## Blocks made absent -/

/-- A gather buffer whose close is stuck, of a course about to be absent: its reads are answered from the merged tile and
the buffer goes (R41, R88). -/
def State.dropGather (s : State) (n : Nat) : State :=
  match s.gather n with
  | none => s
  | some g =>
    let s := s.onTile fun t => { t with gathers := Sparse.erase t.gathers n }
    if g.reads.isEmpty then s
    else
      let (s, r) := s.readTile g.course (s.batten g.course) g.tile 5 0xFFFF
      let bad := maskOf 4 fun l => bitAt (s.tileListed g.course g.tile) l || bitAt r.bad l
      s.answerAll g.reads (mergeBytes g.mask.toNat (slice g.data 0 256) (slice r.data 0 256)) bad

/-- Before a block becomes absent (R41, R43, R88): the promotions of its bundles end, issued requests that wait are served
once more, and every gather buffer open on its courses closes. -/
def State.settleBlock (s : State) (block : Nat) : State :=
  let s := s.finishPromotions fun b => b / 16384 == block
  let mine : List Waiting := s.reg.waiting.filter fun w => !w.request.remote && w.request.course / blockCourses == block
  let s := s.onReg fun g => { g with waiting := g.waiting.filter fun w => w.request.remote || w.request.course / blockCourses != block }
  let s := foldState (fun s w => s.serve w.request) s mine
  let s := s.closeBlock block
  let left : List (Nat × Gather) := s.tile.gathers.filter fun g => g.2.course / blockCourses == block
  foldState (fun s g => s.dropGather g.1) s left

/-- Make a block absent (R88). -/
def State.clearBlock (s : State) (block : Nat) (bound : Bool) : State := (s.settleBlock block).makeAbsent block bound

/-- Has a block three walks pending, so that a command that would make it absent answers Busy (R88)? -/
def State.walksFull (s : State) (block : Nat) : Bool := (s.dirOf block).walks == 3

/-- The local blocks bound to a logical device. -/
def State.blocksOf (s : State) (l : LdId) : List Nat :=
  (s.xlat.dir.filter fun e => s.ownerOf e.1 == some l).map (·.1)

/-- Sanitize a logical device (R40, R42, R359): every block of its local capacity becomes absent. -/
def State.sanitizeLd (s : State) (l : LdId) : State := foldState (fun s b => s.clearBlock b true) s (s.blocksOf l)

/-! ## The offer of capacity -/

/-- Provisioned capacity P in blocks (R31). -/
def State.provisioned (s : State) : Nat := min s.maxBlocks (s.cap.ratio * s.usableBlocks / 100)
/-- The total that the sled offers with its joined groups (R33). -/
def State.offerTotal (s : State) : Nat :=
  let k := s.joinedCount
  if k = 0 then 0 else max 256 (s.provisioned * k / 16)

/-- Does a block lie among the static blocks 0 to 255 (R526)? -/
def isStatic (block : Nat) : Bool := decide (block < 256)

/-- Blocks of the offered total that are bound, offered, or static and filling (R33, R358). -/
def State.blocksTaken (s : State) : Nat :=
  (s.xlat.dir.filter fun e => !isStatic e.1 && (e.2.st == .bound || s.isSegment e.1)).length + s.cap.offered.length + 256

/-- May an offer take a block (R90, R358, R526)? -/
def State.blockFree (s : State) (b : Nat) : Bool :=
  let st := (s.dirOf b).st
  !isStatic b && (st == .unassigned || st == .ready) && !s.isSegment b && (Sparse.find s.cap.offered b).isNone
    && !s.xlat.fills.contains b && !s.xlat.swaps.any (·.block == b)

/-- Is a DPA block of a logical device offered or accepted, by a local block or a cascade extent (R526)? -/
def State.extTaken (s : State) (l : LdId) (ext : Nat) : Bool :=
  (s.blockAt l ext).isSome || s.cap.offered.any (fun o => o.2.1 == l && o.2.2 == ext)
    || s.casc.extents.any fun e => e.ld == l && decide (e.dpaBlock ≤ ext) && decide (ext < e.dpaBlock + e.blocks)

/-- Start the fill of a block's table run (R58, R72). A run that cannot be placed waits, event 0207h (R522). -/
def State.startFill (s : State) (b : Nat) : State :=
  let s := if s.xlat.fills.contains b then s else s.onXlat fun x => { x with fills := x.fills ++ [b] }
  let (s', r) := s.allocTable b
  match r with
  | none => s.unplaced 3 b
  | some (base, strong) => s'.onDir b fun e => { e with st := .filling, base := BitVec.ofNat 35 base, strong }

/-- Offer a block at a DPA block of a logical device in a region; it is filled first where it has no table (R526). -/
def State.offerBlock (s : State) (b : Nat) (l : LdId) (ext region : Nat) : State :=
  let s := s.onCap fun c =>
    { c with
      offered := Sparse.insert c.offered b (l, ext)
      unannounced := c.unannounced ++ [b]
      regions := Sparse.set 0 c.regions (dpaKey l ext) region }
  if (s.dirOf b).st = .ready then s else s.startFill b

/-- Offer up to `n` blocks to the growth device, at the lowest free DPAs of region 0 (R33, R526). -/
def State.offerMore (s : State) : Nat → State
  | 0 => s
  | n + 1 =>
    let l := if s.host.gfam then 0 else s.cap.growth
    match firstFrom s.blockFree s.blocks 0, firstFrom (fun x => !s.extTaken l x) (s.maxBlocks - 256) 256 with
    | some b, some x => (s.offerBlock b l x 0).offerMore n
    | _, _ => s

/-- Insert an offer by its logical device and DPA block. -/
def insertOffer (x : LdId × Nat) : List (LdId × Nat) → List (LdId × Nat)
  | [] => [x]
  | y :: rest => if dpaKey x.1 x.2 < dpaKey y.1 y.2 then x :: y :: rest else y :: insertOffer x rest

/-- Maximal runs of consecutive DPA blocks of one logical device and region: device, first block, blocks. -/
def State.offerRuns (s : State) : List (LdId × Nat) → List (LdId × Nat × Nat)
  | [] => []
  | (l, x) :: rest =>
    match s.offerRuns rest with
    | (l', x', n) :: more =>
      if l = l' ∧ x + 1 = x' ∧ s.regionOf l x = s.regionOf l x' then (l, x, n + 1) :: more else (l, x, 1) :: (l', x', n) :: more
    | [] => [(l, x, 1)]

/-- Are all blocks of the offers that have not gone out filled? -/
def State.offersFilled (s : State) : Bool := s.cap.unannounced.all fun b => (s.dirOf b).st == .ready

/-- Send the offers once their blocks are filled (R33, R58): one dynamic capacity record for each run of DPA blocks, then
event 0101h for each group that joined. -/
def State.announceOffers (s : State) : State :=
  if !s.offersFilled then s
  else
    let named := s.cap.unannounced.filterMap fun b => Sparse.find s.cap.offered b
    let runs := s.offerRuns (named.foldl (fun l x => insertOffer x l) [])
    let joins := s.cap.joinEvents
    let s := s.onCap fun c => { c with unannounced := [], joinEvents := [] }
    let s := foldState (fun s (x : LdId × Nat × Nat) =>
      s.logTo x.1 .dynamicCapacity (dcRecord 0 (s.regionOf x.1 x.2.1) (x.2.1 * blockBytes) x.2.2)) s runs
    let l := if s.host.gfam then 0 else s.cap.growth
    foldState (fun s (x : Nat × Nat) => s.raise 0x0101 .informational 0xFFFF (le 1 x.1 ++ le 4 x.2) [l]) s joins

/-- Offer what the total allows beyond what is out (R33, R34, R36). -/
def State.offerCapacity (s : State) : State :=
  let total := s.offerTotal
  let s := s.onCap fun c => { c with total := max c.total total }
  (s.offerMore (total - s.blocksTaken)).announceOffers

/-- Bind a block to a DPA block of a logical device (R58, R59). -/
def State.bindBlock (s : State) (b : Nat) (l : LdId) (ext : Nat) : State :=
  s.onDir b fun e => { e with st := .bound, owner := if s.host.gfam then 0 else l, extent := BitVec.ofNat 14 ext }

/-- Milliseconds since insertion (C340h). -/
def State.msNow (s : State) : Nat := msOf (s.clock - s.boot.inserted)

/-- Event 0D01h: a milestone of bring-up (R410). -/
def State.milestone (s : State) (n : Nat) : State := s.raiseAll 0x0D01 .informational (le 1 n ++ le 4 s.msNow)

/-- Bind the static capacity once its 256 blocks are filled: Mem_Active, STATIC_MEM (R32, R58, R399, R402, R526); never after event
0D03h (R404). -/
def State.bindStatic (s : State) : State :=
  if s.cap.memActive || s.boot.noMemory || !(List.range 256).all (fun b => (s.dirOf b).st == .ready) then s
  else
    let l := if s.host.gfam then 0 else s.cap.growth
    let s := s.onCap fun c => { c with memActive := true, staticLd := l }
    let s := foldState (fun s b => s.bindBlock b l b) s (List.range 256)
    let s := (s.setReady rdyStatic true).onBoot fun b => { b with msStatic := some (b.msStatic.getD s.msNow) }
    s.milestone 3

/-- The fill of a block ends (R58, R358): the block is ready; static blocks bind together; a segment's block is bound; offers
go out once all their blocks are filled. -/
def State.fillDone (s : State) (b : Nat) : State :=
  if !s.xlat.fills.contains b || (s.dirOf b).st != .filling then s
  else
    let s := s.onXlat fun x => { x with fills := x.fills.filter (· != b) }
    let s := s.onDir b fun e => { e with st := if s.isSegment b then .bound else .ready }
    s.bindStatic.announceOffers

/-- Place again the table runs of fills that wait for one (R522). -/
def State.retryFills (s : State) : State :=
  foldState (fun s b => if (s.dirOf b).st = .unassigned then s.startFill b else s) s s.xlat.fills

/-! ## Disabling a logical device (R43, R44) -/

/-- Stop the thatching jobs of a logical device with reason 4; how many. -/
def State.stopJobsOf (s : State) (l : LdId) (reason : Nat) : State × Nat :=
  let js : List (Nat × Job) := s.place.jobs.filter fun j => j.2.owner == some l && (j.2.st == .running || j.2.st == .paused)
  (foldState (fun s j => s.stopJob j.1 reason) s js, js.length)

/-- Take the requests of a logical device out of every queue (R43); how many. -/
def State.discardQueued (s : State) (l : LdId) : State × Nat :=
  let keep (r : Request) : Bool := !(r.ld == l && match r.origin with | .host _ _ => true | _ => false)
  let mine : List Request := s.reg.queues.flatMap fun q => q.2.requests.filter fun r => !keep r
  let qs : List Nat := Sparse.keys s.reg.queues
  let s := foldState (fun s n => s.onQueue n fun q => { q with requests := q.requests.filter keep }) s qs
  (foldState (fun s r => s.freeStore r.source r.entry) s mine, mine.length)

/-- The background walks of a logical device stop at their next boundary, with their counts (R43). -/
def State.stopWalksOf (s : State) (l : LdId) : State :=
  let s := match Sparse.find s.spare.scrubs l.toNat with
    | some x => s.askAbort 0xC202 x.path
    | none => s
  let s := foldState (State.askAbort · 0xC083 ·) s ((s.xlat.discards.filter fun d => d.ld == l).map fun d => d.path)
  foldState (State.askAbort · 0xC183 ·) s
    ((s.flash.destroys.filter fun d => d.path.map Path.carrier == some (.primary l)).map fun d => d.path)

/-- Disable a logical device (R43): intake stops, queued requests go, gather buffers close whole, promotions of its bundles
that have begun end, its jobs stop at their tile boundary, and the responses of issued requests are discarded. The counts
wait for the drain's end (R44). -/
def State.disableLd (s : State) (l : LdId) (memClear : Bool) : State :=
  let (s, gone) := s.discardQueued l
  let s := s.onReg fun g =>
    { g with inFlight := g.inFlight.map fun (x : Nat × Option LdId × Bool) => if x.2.1 == some l then (x.1, x.2.1, true) else x }
  let s := s.closeGathers fun g => g.ld == l
  let s := s.stopWalksOf l
  let (s, jobs) := s.stopJobsOf l 4
  let s := s.onLd l.toNat fun d =>
    match d.drain with
    | some x => { d with drain := some { x with discarded := x.discarded + gone, jobs := x.jobs + jobs } }
    | none => { d with drain := some { discarded := gone, jobs } }
  if memClear then s.sanitizeLd l else s

/-- Has a disabled logical device any issued request left (R44)? -/
def State.ldIdle (s : State) (l : LdId) : Bool := !s.reg.inFlight.any fun x => x.2.1 == some l

end Sys2Proof.Machine
end

