-- ==== Sys2Proof/Machine/HostLink.lean ====
section
/-! DEFINITION. The host ports and their requests (spec/01_host_view.md R21 to R26, R43, R44; spec/13_bring_up.md R395,
R408; spec/14_eaves_and_power_states.md R417, R420, R422; spec/18_sled_and_connector.md R492, R493, R499, R500). -/

namespace Sys2Proof.Machine

/-- Send a command's effect as a next state: every command of the block completes. -/
abbrev done (s : State) : Host.Outcome State Fault Refusal := .next s

/-- What arrives in a Watch exit waits and is served after its last step (R423). -/
def State.afterExit (s : State) (i : Instr) (f : State → State) : State :=
  if s.eaves.st = .watch ∧ s.eaves.exiting then s.onEaves fun e => { e with waiting := e.waiting ++ [i] } else f s

/-- Set a link bit of READINESS (R397): HP1_LINK is always 0 under the x16 strap. -/
def State.linkBit (s : State) (p : HostPort) (v : Bool) : State :=
  match p with
  | .hp0 => s.setReady rdyHp0 v
  | .hp1 => s.setReady rdyHp1 (v && !s.host.x16)

/-- Is HP1 unused because HP0 has its lanes (R22, R499)? -/
def State.absentPort (s : State) (p : HostPort) : Bool := s.host.x16 && p == .hp1

/-- A link leaves service: down, its bit clear (R397, R420). -/
def State.dropLink (s : State) (p : HostPort) : State :=
  let s := s.onPort p fun x => { x with up := false, l1 := false, l2 := false }
  s.linkBit p false

/-- IDE leaves the secure state on a port (R422). -/
def State.stopIde (s : State) (p : HostPort) : State :=
  s.onFlash fun f =>
    match p with
    | .hp0 => { f with ide0 := { f.ide0 with cxlRunning := false, pcieRunning := false } }
    | .hp1 => { f with ide1 := { f.ide1 with cxlRunning := false, pcieRunning := false } }

/-- The logical devices that the reset of a port covers whole (R43): its own; in global fabric-attached memory mode the one
device, when the other port carries no link either. -/
def State.ldsOfPort (s : State) (p : HostPort) : List LdId :=
  if s.host.gfam then
    let other := s.port (match p with | .hp0 => .hp1 | .hp1 => .hp0)
    if other.up then [] else [0]
  else s.lds.filter fun l => ldPort l == p

/-- A MemRd arrives (R21). -/
def execMemrd (r : MemReq) (s : State) : Host.Outcome State Fault Refusal :=
  done (s.afterExit (.memrd r) fun s => s.accept r .read [] 0)

/-- A MemRdData arrives: a read like MemRd for memory of this type (R21). -/
def execMemrddata (r : MemReq) (s : State) : Host.Outcome State Fault Refusal :=
  done (s.afterExit (.memrddata r) fun s => s.accept r .read [] 0)

/-- A MemWr arrives (R21). -/
def execMemwr (r : MemReq) (data : List Byte) (s : State) : Host.Outcome State Fault Refusal :=
  done (s.afterExit (.memwr r data) fun s => s.accept r .write data (BitVec.allOnes 64))

/-- A MemWrPtl arrives: a partial-line write where its byte enables cover fewer than 64 bytes (R21). -/
def execMemwrptl (r : MemReq) (data : List Byte) (enables : BitVec 64) (s : State) : Host.Outcome State Fault Refusal :=
  done (s.afterExit (.memwrptl r data enables) fun s =>
    s.accept r (if enables = BitVec.allOnes 64 then .write else .partialWrite) data enables)

/-- A MemSpecRd arrives: a hint, dropped without response (R21). -/
def execMemspecrd (_r : MemReq) (s : State) : Host.Outcome State Fault Refusal := done s

/-- An M2S opcode of an unadvertised memory type is a protocol error on the port (R21). -/
def execUnsupportedM2sOpcode (port : HostPort) (_opcode : BitVec 4) (s : State) : Host.Outcome State Fault Refusal :=
  if !s.portServes port then done s
  else done ((s.onHost fun h => { h with protocolErrors := h.protocolErrors + 1 }).emit (.protocolError port))

/-- One issue slot (R294). -/
def execRequestIssue (s : State) : Host.Outcome State Fault Refusal := done s.issue

/-- PERST# asserted on a port (R43, R408, R492): its link goes down and its logical devices are disabled; in Watch the edge is
a link wake (R422). Under the x16 strap PERST1# is ignored (R499). -/
def execPerstAssert (port : HostPort) (s : State) : Host.Outcome State Fault Refusal :=
  let s := s.onConn fun c => match port with | .hp0 => { c with perst0 := true } | .hp1 => { c with perst1 := true }
  if s.absentPort port then done s
  else
    let s := s.wakeWatch 6
    let s := (s.stopIde port).onPort port fun x => { x with inReset := true }
    let s := foldState (fun s l => s.disableLd l false) s (s.ldsOfPort port)
    done (s.dropLink port)

/-- The x16 strap is sampled (R22): under it HP1 is not enumerated. -/
def State.sampleX16 (s : State) : State :=
  let s := s.onConn fun c => { c with inForce := { c.inForce with x16 := c.now.x16 } }
  let s := s.onHost fun h => { h with x16 := s.conn.inForce.x16 }
  if s.host.x16 then s.dropLink .hp1 else s

/-- PERST# released on a port: the port may train, PERST0# samples the x16 strap (R22, R497), the port looks for its reference clock
(R500), WAKE# is released (R493); in Watch the edge is a link wake. -/
def execPerstRelease (port : HostPort) (refclk : Bool) (s : State) : Host.Outcome State Fault Refusal :=
  let s := s.onConn fun c =>
    match port with
    | .hp0 => { c with perst0 := false, refclk0 := refclk, oscillator0 := !refclk, wake0 := false }
    | .hp1 => { c with perst1 := false, refclk1 := refclk, oscillator1 := !refclk, wake1 := false }
  let s := if port = .hp0 then s.sampleX16 else s
  if s.absentPort port then done s
  else done ((s.wakeWatch 6).onPort port fun x => { x with inReset := false })

/-- A host link is up (R23, R395): it trains once its PERST# is released and the hub die is, and runs 256B flits at 64 GT/s. -/
def execHostLinkUp (port : HostPort) (rate : LinkRate) (s : State) : Host.Outcome State Fault Refusal :=
  if s.absentPort port || (s.port port).inReset || s.boot.step == .off || s.eaves.st != .active then done s
  else
    let s := s.onPort port fun x => { x with up := true, rate, l1 := false, l2 := false, failed := false }
    done (s.linkBit port true)

/-- A host link enters L1 under ASPM (R417). -/
def execLinkL1Entry (port : HostPort) (s : State) : Host.Outcome State Fault Refusal :=
  if (s.port port).up && !(s.port port).l2 then done (s.onPort port fun x => { x with l1 := true }) else done s

/-- A host link enters L2/L3 Ready (R420); its IDE streams leave the secure state (R422). -/
def execLinkL2Entry (port : HostPort) (s : State) : Host.Outcome State Fault Refusal :=
  if (s.port port).up then done ((s.stopIde port).onPort port fun x => { x with l1 := false, l2 := true }) else done s

/-- Electrical idle exit on a host lane: a link wake in Watch (R422). -/
def execLinkElectricalIdleExit (port : HostPort) (s : State) : Host.Outcome State Fault Refusal :=
  if s.absentPort port then done s else done (s.wakeWatch 6)

/-- A host link goes down (R398). -/
def execHostLinkDown (port : HostPort) (s : State) : Host.Outcome State Fault Refusal := done (s.dropLink port)

/-- A host link leaves L1 (R417). -/
def execLinkL1Exit (port : HostPort) (s : State) : Host.Outcome State Fault Refusal :=
  done (s.onPort port fun x => { x with l1 := false })

end Sys2Proof.Machine
end

