-- ==== Sys2Proof/Machine/HostCap.lean ====
section
/-! DEFINITION. Capacity as hosts and the fabric manager move it (spec/01_host_view.md R30 to R39, R58, R526), sanitize
(R40 to R42), resets and drains (R43, R44), poison commands (R46 to R48; spec/06_flashing.md R211), and the commands C040h
to C045h. Standard CXL payloads follow notes/assumptions/29.md. -/

namespace Sys2Proof.Machine

/-! ## Fills and extents -/

/-- The table run of a block is filled (R58). -/
def execBlockFillComplete (block : BitVec 14) (s : State) : Host.Outcome State Fault Refusal := done (s.fillDone block.toNat)

/-- The DPA blocks of extents; none where one is misaligned, empty or past the DPA space (R34, R59). -/
def extBlocks : List Extent → Option (List Nat)
  | [] => some []
  | e :: rest =>
    let first := e.dpa.toNat / blockBytes
    if e.dpa.toNat % blockBytes ≠ 0 ∨ e.blocks = 0 ∨ 16384 < first + e.blocks.toNat then none
    else (extBlocks rest).map fun l => (List.range e.blocks.toNat).map (first + ·) ++ l

/-- A dynamic capacity command of a logical device: through its own mailbox, numbered as CXL numbers it. -/
def State.dcCommand (s : State) (i : Instr) (l : LdId) (op : Nat) (f : State → State × ReturnCode) : State :=
  s.command i (.primary l 0) op fun s =>
    let (s, rc) := f s
    (s, rc, [])

/-- The parts of an unaccepted cascade extent that a host accepts (R359, R526): maximal runs of its blocks. -/
def acceptExtent (e : CascadeExtent) (exts : List Nat) : List CascadeExtent :=
  ((List.range e.blocks).filter fun i => exts.contains (e.dpaBlock + i)).foldr (fun i l =>
    let one : CascadeExtent := { e with dpaBlock := e.dpaBlock + i, base := e.base + i, blocks := 1, accepted := true }
    match l with
    | x :: rest => if x.dpaBlock = one.dpaBlock + 1 then { one with blocks := x.blocks + 1 } :: rest else one :: l
    | [] => [one]) []

/-- Accept what a logical device takes of the extents offered to it (R526): each accepted block is bound where it was
offered; the others return to the pool with their tables. A block that is not offered is Invalid Input. -/
def State.acceptOffers (s : State) (l : LdId) (exts : List Nat) : State × ReturnCode :=
  let offers : Sparse (LdId × Nat) := s.cap.offered.filter fun o => o.2.1 == l && !s.cap.unannounced.contains o.1
  let cascade := s.casc.extents.filter fun e => e.ld == l && !e.accepted
  let known (x : Nat) : Bool :=
    offers.any (fun o => o.2.2 == x) || cascade.any fun e => decide (e.dpaBlock ≤ x) && decide (x < e.dpaBlock + e.blocks)
  if !exts.all known then (s, .invalidInput)
  else
    let s := foldState (fun s (o : Nat × LdId × Nat) =>
      let s := s.onCap fun c => { c with offered := Sparse.erase c.offered o.1 }
      if exts.contains o.2.2 then s.bindBlock o.1 l o.2.2
      else s.onCap fun c => { c with regions := Sparse.set 0 c.regions (dpaKey l o.2.2) 0 }) s offers
    let s := s.onCasc fun c =>
      { c with extents := c.extents.flatMap fun e => if e.ld == l && !e.accepted then acceptExtent e exts else [e] }
    (s, .success)

/-- A host accepts all, part or none of what is offered to it (R526). -/
def execAddDcResponse (ld : LdId) (accepted : List Extent) (s : State) : Host.Outcome State Fault Refusal :=
  done (s.dcCommand (.addDcResponse ld accepted) ld 0x4802 fun s =>
    match extBlocks accepted with
    | none => (s, .invalidInput)
    | some exts => s.acceptOffers (if s.host.gfam then 0 else ld) exts)

/-- Is a DPA block of a logical device static capacity (R32, R526)? -/
def State.staticExt (s : State) (l : LdId) (ext : Nat) : Bool := s.cap.memActive && l == s.cap.staticLd && decide (ext < 256)

/-- Take a DPA block out of the releases asked for (R38). -/
def State.metRelease (s : State) (l : LdId) (ext : Nat) : State :=
  s.onCap fun c => { c with wait := c.wait.map fun w => { w with named := w.named.filter fun n => n != (l, ext) },
                            regions := Sparse.set 0 c.regions (dpaKey l ext) 0 }

/-- A block released by its host: absent at once, and back in the pool (R34, R88, R90). -/
def State.releaseBlock (s : State) (b : Nat) : State :=
  let s := s.clearBlock b false
  if s.xlat.swaps.any (·.block == b) then s else s.onDir b fun e => { e with st := .ready }

/-- The pieces of a cascade extent that are left when DPA blocks are released. -/
def keepExtent (e : CascadeExtent) (exts : List Nat) : List CascadeExtent :=
  (acceptExtent e ((List.range e.blocks).map (e.dpaBlock + ·) |>.filter fun x => !exts.contains x)).map fun x => { x with accepted := e.accepted }

/-- Release accepted dynamic capacity (R34); static capacity and blocks not accepted are Invalid Input. -/
def State.releaseExts (s : State) (l : LdId) (exts : List Nat) : State × ReturnCode :=
  let mine (x : Nat) : Bool :=
    (!s.staticExt l x && (s.blockAt l x).isSome)
      || s.casc.extents.any fun e => e.ld == l && e.accepted && decide (e.dpaBlock ≤ x) && decide (x < e.dpaBlock + e.blocks)
  if !exts.all mine then (s, .invalidInput)
  else
    let s := foldState (fun s x =>
      let s := match s.blockAt l x with
        | some b => s.releaseBlock b
        | none => s
      s.metRelease l x) s exts
    (s.onCasc fun c => { c with extents := c.extents.flatMap fun e => if e.ld == l && e.accepted then keepExtent e exts else [e] }, .success)

/-- A host releases extents (R34, R88). -/
def execReleaseDcCapacity (ld : LdId) (released : List Extent) (s : State) : Host.Outcome State Fault Refusal :=
  done (s.dcCommand (.releaseDcCapacity ld released) ld 0x4803 fun s =>
    match extBlocks released with
    | none => (s, .invalidInput)
    | some exts => s.releaseExts (if s.host.gfam then 0 else ld) exts)

/-- The free blocks of the pool, lowest first, at most `n`. -/
def State.poolBlocks (s : State) (n : Nat) : List Nat := ((List.range s.blocks).filter s.blockFree).take n

/-- The fabric manager places dynamic capacity in regions 1 to 7 of a logical device, from the pool of R33 (R27, R34). -/
def execFmInitiateDcAdd (ld : LdId) (region : BitVec 3) (extent : Extent) (s : State) : Host.Outcome State Fault Refusal :=
  done (s.command (.fmInitiateDcAdd ld region extent) (.fabric (some ld)) 0x5604 fun s =>
    let l := if s.host.gfam then 0 else ld
    match extBlocks [extent] with
    | none => refuse s .invalidInput
    | some exts =>
      let blocks := s.poolBlocks exts.length
      if region = 0 || !s.ldExists l || exts.any (s.extTaken l) || blocks.length ≠ exts.length
          || decide (s.offerTotal < s.blocksTaken + exts.length) then refuse s .invalidInput
      else
        let s := foldState (fun s (x : Nat × Nat) => s.offerBlock x.1 l x.2 region.toNat) s (blocks.zip exts)
        (s.announceOffers, .success, []))

/-- The fabric manager asks a logical device for the release of accepted extents (R27, R34, R37). -/
def execFmInitiateDcRelease (ld : LdId) (extent : Extent) (s : State) : Host.Outcome State Fault Refusal :=
  done (s.command (.fmInitiateDcRelease ld extent) (.fabric (some ld)) 0x5605 fun s =>
    let l := if s.host.gfam then 0 else ld
    match extBlocks [extent] with
    | none => refuse s .invalidInput
    | some exts =>
      let held (x : Nat) : Bool := !s.staticExt l x &&
        ((s.blockAt l x).isSome
          || s.casc.extents.any fun e => e.ld == l && e.accepted && decide (e.dpaBlock ≤ x) && decide (x < e.dpaBlock + e.blocks))
      if !exts.all held then refuse s .invalidInput
      else
        let first := exts.headD 0
        let region := s.regionOf l first
        let s := s.logTo l .dynamicCapacity (dcRecord 1 region (first * blockBytes) exts.length)
        (s.raise 0x0104 .warning 0xFFFF (le 1 region ++ le 4 exts.length) [l], .success, []))

/-- The release wait expires with extents unreleased: event 0105h, and stage 3 (R38, R156). -/
def execReleaseWaitExpiry (s : State) : Host.Outcome State Fault Refusal :=
  match s.cap.wait with
  | none => done s
  | some w =>
    let s := s.onCap fun c => { c with wait := none }
    if w.named.isEmpty then done s
    else
      let s := s.raise 0x0105 .failure 0xFFFF (le 4 w.named.length) s.lds
      done (if s.place.stage = 2 then s.stageUp true else s)

/-- Every 100 ms at stage 3 and above: the throttle doubles its divisor, to 64, while F keeps falling (R159, R302). -/
def execWriteThrottleStep (s : State) : Host.Outcome State Fault Refusal :=
  if s.place.divisor = 0 then done s
  else if s.free < s.place.lastFree ∧ s.place.divisor < 64 then done (s.setThrottle (min 64 (2 * s.place.divisor)))
  else done (s.onPlace fun p => { p with lastFree := s.free })

/-! ## Sanitize and resets -/

/-- The work of Sanitize and Secure Erase (R40, R88): Busy where a block has three walks pending. -/
def State.sanitizeCommand (s : State) (p : Path) (op : Nat) : State × Option ReturnCode :=
  let l := s.issuing p
  if (s.blocksOf l).any s.walksFull then (s, some .busy)
  else ((s.sanitizeLd l).finishBackground (some p) op .success [], none)

/-- Sanitize (R40). -/
def execSanitize (p : Path) (s : State) : Host.Outcome State Fault Refusal :=
  done (s.background (.sanitize p) p 0x4400 fun s => s.sanitizeCommand p 0x4400)

/-- Secure Erase (R40). -/
def execSecureErase (p : Path) (s : State) : Host.Outcome State Fault Refusal :=
  done (s.background (.secureErase p) p 0x4401 fun s => s.sanitizeCommand p 0x4401)

/-- A per-logical-device reset (R43). -/
def execLdReset (ld : LdId) (s : State) : Host.Outcome State Fault Refusal :=
  if s.ldExists ld then done (s.disableLd ld false) else done s

/-- A CXL Reset, with its memory-clear option (R42, R43). -/
def execCxlReset (ld : LdId) (memClear : Bool) (s : State) : Host.Outcome State Fault Refusal :=
  if s.ldExists ld then done (s.disableLd ld memClear) else done s

/-- The fabric manager unbinds a logical device (R43). -/
def execFmUnbindLd (ld : LdId) (s : State) : Host.Outcome State Fault Refusal :=
  if s.ldExists ld then done (s.disableLd ld false) else done s

/-- Every issued request of a disabled logical device has finished: event 0106h, and intake resumes (R44). -/
def execLdDrainComplete (ld : LdId) (s : State) : Host.Outcome State Fault Refusal :=
  match (s.ld ld.toNat).drain with
  | none => done s
  | some d =>
    if !s.ldIdle ld then done s
    else
      let s := s.onLd ld.toNat fun x => { x with drain := none }
      done (s.raise 0x0106 .informational 0xFFFF (le 4 d.discarded ++ le 4 d.finished ++ le 2 d.jobs) [ld])

/-! ## Poison -/

/-- Lines that Inject Poison has put on a list (R48). -/
def LdState.injected (d : LdState) : Nat := ((d.poison.filter (·.injected)).map (·.len)).sum

/-- Inject Poison (R48): the line is listed without touching its data, and goes out of the tile cache. -/
def execInjectPoison (p : Path) (dpa : BitVec 64) (s : State) : Host.Outcome State Fault Refusal :=
  done (s.command (.injectPoison p dpa) p 0x4301 fun s =>
    let l := s.issuing p
    let a := dpa.toNat
    match s.courseOf l a with
    | none => refuse s .invalidInput
    | some c =>
      if a % 64 ≠ 0 then refuse s .invalidInput
      else
        let t := a / 256 % 16
        let line := a / 64 % 4
        if s.lineListed c t line then (s, .success, [])
        else if 64 ≤ (s.ld l.toNat).injected then refuse s .poisonLimit
        else
          let s := (s.loadBatten c 0).enlist l.toNat { dpa := a, len := 1, injected := true }
          ((s.invalidateLine (tileNumber c t) line).syncPoison c, .success, []))

/-- The context under which Clear Poison writes (R211): the course's own, else the default context of the command's source,
else 0000h. -/
def State.clearContext (s : State) (p : Path) (c : Nat) : BitVec 13 :=
  let b := s.view c
  if b.tier = .absent then match s.sourceRid p with | some rid => s.defaultCtx rid | none => 0
  else b.ctx

/-- Clear Poison (R48, R211): the 64 B are written to the line under the whole-line rule of R121. -/
def execClearPoison (p : Path) (dpa : BitVec 64) (data : List Byte) (s : State) : Host.Outcome State Fault Refusal :=
  done (s.command (.clearPoison p dpa data) p 0x4302 fun s =>
    let l := s.issuing p
    let a := dpa.toNat
    match s.courseOf l a with
    | none => refuse s .invalidInput
    | some c =>
      if a % 64 ≠ 0 then refuse s .invalidInput
      else
        let s := s.loadBatten c 0
        let s := if (s.view c).tier = .thatched then s.promoteNow (c / 4) c true else s
        let t := a / 256 % 16
        let ctx := s.clearContext p c
        let cls := (s.ctx ctx.toNat).cls
        let r : Request := { id := s.reg.nextId, kind := .write, origin := .sled, ld := l, rid := BitVec.ofNat 16 ((s.sourceRid p).getD 0xFFFF), ctx,
                             cls, base := cls, dpa := a, line := a / 64 % 64, course := c, data, enables := BitVec.allOnes 64, arrived := s.clock }
        let s := s.onReg fun g => { g with nextId := g.nextId + 1 }
        let s := (s.serve r).closeGathers fun g => g.course == c && g.tile == t
        (s, .success, []))

/-- Get Poison List (R46): the entries in a range of DPA, at most 254 a reply. -/
def execGetPoisonList (p : Path) (dpa : BitVec 64) (length : BitVec 64) (s : State) : Host.Outcome State Fault Refusal :=
  done (s.command (.getPoisonList p dpa length) p 0x4300 fun s =>
    let d := s.ld (s.issuing p).toNat
    let lo := dpa.toNat / 64 * 64
    let hi := lo + 64 * length.toNat
    let all := d.poison.filter fun e => decide (e.dpa < hi) && decide (lo < e.dpa + 64 * e.len)
    let some_ := all.take 254
    let flags := b2n (decide (254 < all.length)) + 2 * b2n d.poisonOverflow.isSome
    let out := le 1 flags ++ [0] ++ le 8 (d.poisonOverflow.getD 0) ++ le 2 some_.length ++ zeros 20
      ++ some_.flatMap fun e => le 8 (e.dpa + if e.injected then 3 else 2) ++ le 4 e.len ++ zeros 4
    (s, .success, out))

/-! ## Commands C040h to C045h -/

/-- Get Capacity Status (C040h). -/
def execGetCapacityStatus (p : Path) (s : State) : Host.Outcome State Fault Refusal :=
  done (s.command (.getCapacityStatus p) p 0xC040 fun s =>
    let accepted := (s.xlat.dir.filter fun e => e.2.st == .bound && !s.isSegment e.1).length
    (s, .success, le 2 0 ++ le 2 s.cap.joined.toNat ++ le 2 s.cap.withheld.toNat ++ le 2 s.cap.ratio ++ le 4 s.usableBlocks
      ++ le 4 s.provisioned ++ le 4 s.cap.total ++ le 4 accepted ++ le 4 (s.inUse / 2 ^ 22) ++ le 1 s.place.stage
      ++ le 1 (if s.host.gfam then 0 else s.cap.growth.toNat) ++ zeros 2))

/-- Accepted capacity in blocks, static included (R36). -/
def State.acceptedBlocks (s : State) : Nat := (s.xlat.dir.filter fun e => e.2.st == .bound && !s.isSegment e.1).length

/-- Set Overcommit Ratio (C041h, R31, R36). -/
def execSetOvercommitRatio (p : Path) (ratio : BitVec 16) (s : State) : Host.Outcome State Fault Refusal :=
  done (s.privileged (.setOvercommitRatio p ratio) p 0xC041 fun s =>
    let n := ratio.toNat
    if n < 100 ∨ 240 < n then refuse s .invalidInput
    else
      let s := (s.onCap fun c => { c with ratio := n }).offerCapacity
      let excess := s.acceptedBlocks - s.provisioned
      let s := if 0 < excess then s.requestRelease ((s.releaseOrder.map (·.1)).take excess) else s
      (s, .success, s.status (b2n (decide (0 < excess))) true ++ zeros 2 ++ le 4 s.provisioned))

/-- May a path name a requestor (R371, C042h)? -/
def State.ownsRid (s : State) (p : Path) (rid : Nat) : Bool :=
  match p with
  | .primary l _ => s.host.gfam || (s.ridOfLd l).toNat == rid
  | .secondary l _ => s.host.gfam || (s.ridOfLd l).toNat == rid
  | _ => true

/-- Set Default Context (C042h, R29). -/
def execSetDefaultContext (p : Path) (rid : BitVec 12) (ctx : BitVec 13) (s : State) : Host.Outcome State Fault Refusal :=
  done (s.command (.setDefaultContext p rid ctx) p 0xC042 fun s =>
    if !s.ownsRid p rid.toNat then refuse s .invalidInput
    else
      let x := s.ctx ctx.toNat
      let loaded := (x.gen x.cur).st == .loaded
      let s := s.onHost fun h => { h with defaultContext := Sparse.set 0 h.defaultContext rid.toNat ctx }
      (s, .success, le 2 (if loaded then 0 else 2)))

/-- Get Default Context (C043h). -/
def execGetDefaultContext (p : Path) (rid : BitVec 12) (s : State) : Host.Outcome State Fault Refusal :=
  done (s.command (.getDefaultContext p rid) p 0xC043 fun s =>
    if !s.ownsRid p rid.toNat then refuse s .invalidInput
    else (s, .success, le 2 0 ++ le 2 (s.defaultCtx rid.toNat).toNat))

/-- Set Release Wait (C044h, R38). -/
def execSetReleaseWait (p : Path) (ms : BitVec 32) (s : State) : Host.Outcome State Fault Refusal :=
  done (s.privileged (.setReleaseWait p ms) p 0xC044 fun s =>
    if ms.toNat < 100 ∨ 60000 < ms.toNat then refuse s .invalidInput
    else (s.onCap fun c => { c with releaseWaitMs := ms.toNat }, .success, le 2 0))

/-- Set Growth Device (C045h, R526). -/
def execSetGrowthDevice (p : Path) (ld : LdId) (s : State) : Host.Outcome State Fault Refusal :=
  done (s.privileged (.setGrowthDevice p ld) p 0xC045 fun s =>
    if s.host.gfam then (s, .success, le 2 1)
    else if !s.ldExists ld then refuse s .invalidInput
    else (s.onCap fun c => { c with growth := ld }, .success, s.status 0 true))

end Sys2Proof.Machine
end

