-- ==== Sys2Proof/Machine/RekeyOps.lean ====
section
/-! DEFINITION. The rekey pass (spec/06_flashing.md R213 to R217, R522, R523). -/

namespace Sys2Proof.Machine

/-- The next course of a walk over the bound blocks: the one at the given place where its block is bound, else the first of
the next bound block; none past the last (R152, R216, R218). -/
def State.boundFrom (s : State) (at_ : Nat) : Option Nat :=
  if (s.dirOf (at_ / blockCourses)).st = .bound then some at_
  else
    match s.xlat.dir.find? fun e => decide (at_ / blockCourses < e.1) && e.2.st == .bound with
    | some e => some (e.1 * blockCourses)
    | none => none

/-- End the running pass (R216): the retiring key is destroyed, its generation is empty, event 0605h; a deferred rekey starts
(R213), and the next context's pass begins. -/
def State.endRekey (s : State) (r : RekeyPass) : State :=
  let x := s.ctx r.ctx
  let s := s.onCtx r.ctx fun x => { (x.setGen (!x.cur) {}) with rekey := false }
  let s := s.onFlash fun f => { f with pass := none }
  let s := s.raise 0x0605 .informational 0xFFFF (le 2 r.ctx ++ le 4 r.done ++ le 4 r.skipped) (s.ctxLogs r.ctx)
  let s := if x.deferred then s.startRekeyOf r.ctx 1 else s
  s.nextPass

/-- The courses of a bundle that name its thatched run. -/
def State.bundleNamed (s : State) (c : Nat) (b : Batten) : List Nat :=
  ((List.range 4).map (c / 4 * 4 + ·)).filter fun x => (s.view x).tier == .thatched && (s.view x).base == b.base

/-- Re-encrypt a thatched bundle's run under a generation (R216): its battens name the new run. None where no stripe lath set
holds it; a bundle with a slot that no code corrects is promoted instead, so that its lost courses are reported (R149,
notes/assumptions/32.md). -/
def State.rekeyBundle (s : State) (c : Nat) (b : Batten) (gen : Bool) : Option State :=
  let first := c / 4 * 4
  let (s', r) := s.alloc? b.len.toNat true true
  match r with
  | none => none
  | some r =>
    let (s', cs) := s'.readRun b.run 10 0xFFFF
    if !cs.all (·.isSome) then some ((s'.unalloc r).promoteNow (c / 4) c false)
    else
      let plain := cs.zipIdx.map fun x => (x.2, s'.decrypt b.ctx.toNat b.gen .thatched x.2 first (x.1.getD []))
      let s' := s'.onFlash fun f => { f with decrypted := f.decrypted + cs.length }
      let (s', cts) := s'.encryptAll b.ctx.toNat gen .thatched first plain
      let s' := s'.writeRun r cts
      let s' := foldState (fun s x => s.commit x { ((s.batten x).withRun r) with gen, early := false, move := false }) s' (s'.bundleNamed c b)
      some (s'.release b.run)

/-- The pass goes on to the next course. -/
def State.stepPass (s : State) (r : RekeyPass) (c : Nat) (done skipped : Nat) : State :=
  s.onFlash fun f => { f with pass := some { r with w := c + 1, done := r.done + done, skipped := r.skipped + skipped, waiting := false } }

/-- The pass waits at a course for a run, event 0207h (R522). -/
def State.holdPass (s : State) (r : RekeyPass) (c : Nat) : State :=
  (s.onFlash fun f => { f with pass := some { r with w := c, waiting := true } }).unplaced 5 (c / blockCourses)

/-- Re-encrypt what a pass has reached: a thatched bundle whole, else the course (R215, R216). -/
def State.rekeyCourse (s : State) (r : RekeyPass) (c : Nat) (cs : List Nat) (cur : Bool) : State :=
  let b := s.view c
  if b.tier = .thatched then
    match s.rekeyBundle c b cur with
    | none => s.holdPass r c
    | some s' => if (s'.view c).gen = cur then s'.stepPass r c cs.length 0 else s'
  else
    match s.reencrypt c b cur false with
    | (_, none) => s.holdPass r c
    | (s', some _) => s'.stepPass r c 1 0

/-- One course of the running pass (R216). It waits for tile locks, batten locks and stripe locks of the course or bundle. -/
def State.rekeyStep (s : State) : State :=
  match s.flash.pass with
  | none => s
  | some r =>
    match s.boundFrom r.w with
    | none => s.endRekey r
    | some c =>
      let s := if (s.cachedBatten c).isSome then s else s.readTableSlot c 10
      let b := s.view c
      let cur := (s.ctx r.ctx).cur
      if b.tier = .absent || b.ctx.toNat != r.ctx then s.stepPass r c 0 0
      else if b.gen = cur then
        let s := if b.early then s.commit c { s.batten c with early := false } else s
        s.stepPass r c 0 (b2n (b.tier != .thatched || b.early || s.bundleLead c b))
      else
        let cs := if b.tier = .thatched then s.bundleNamed c b else [c]
        if cs.any (fun x => s.gathered x || s.isLocked x || s.moveHolds x) || s.runBusy b.run then s
        else (foldState State.abandonMove s cs).rekeyCourse r c cs cur

end Sys2Proof.Machine
end

