-- ==== Sys2Proof/Machine/Translation.lean ====
section
/-! DEFINITION. Moves, walks, table rebuilds and table swaps (spec/02_battens_and_tiers.md R85, R88 to R94, R522), and the
commands C080h to C084h. A walk takes one course a step. -/

namespace Sys2Proof.Machine

/-! ## Moves (R85, R283) -/

/-- Is a lath a compaction victim now: closed, below the victim threshold, of the fewest live slots on a channel that has
fewer empty laths than the low mark (R85)? -/
def State.isVictim (s : State) (key : Nat) : Bool :=
  let ch := key / 16384
  let low (x : Lath) : Bool := x.st == .closed && decide (x.live * 100 < s.alloc.victim * lathData)
  let x := Sparse.get {} s.alloc.laths key
  decide (s.emptyLaths ch < s.alloc.lowMark) && low x
    && !s.alloc.laths.any fun e => e.1 / 16384 == ch && low e.2 && decide (0 < e.2.live) && decide (e.2.live < x.live)

/-- Does a run lie in a victim? -/
def State.inVictim (s : State) (r : Run) : Bool := r.laths.any s.isVictim

/-- The overflow runs of a course (R123). -/
def State.overflowOf (s : State) (c : Nat) (b : Batten) : List (Nat × Run) := s.overflowRuns c b

/-- Does any run of a course lie on storage that a decision retires? -/
def State.courseOn (s : State) (r : Retirement) (c : Nat) (b : Batten) : Bool :=
  (b.run :: (s.overflowOf c b).map (·.2)).any fun x => x.members.any (r.covers s.dram.masks)

/-- The place of a batten in the order of R283: bundles, other strong-coded runs, light-coded runs. -/
def Batten.moveRank (b : Batten) : Nat := if b.tier = .thatched then 0 else if b.strong then 1 else 2

/-- May a retirement move a course now: its tables and the courses before it in the order of R283 have gone, or are on
their way? -/
def State.retireTurn (s : State) (r : Retirement) (c : Nat) (b : Batten) : Bool :=
  s.courseOn r c b && (s.tablesOn (r.covers s.dram.masks)).isEmpty
    && !s.allLive.any fun x => decide (x.2.moveRank < b.moveRank) && !x.2.move && s.courseOn r x.1 x.2

/-- Does a course have an urgent move (R271)? Urgent moves wait through an activation pause (R384). -/
def State.urgentNow (s : State) (c : Nat) : Bool := !s.purlin.paused && s.spare.urgent.contains c

/-- Why a course may be moved: for a retirement or an urgent move (true), for compaction (false). -/
def State.moveWanted (s : State) (c : Nat) (b : Batten) : Option Bool :=
  if s.urgentNow c || s.spare.moving.any (fun m => s.retireTurn m.1 c b) then some true
  else if s.inVictim b.run || (s.overflowOf c b).any (fun o => s.inVictim o.2) then some false
  else none

/-- The courses whose battens a move changes: the course, or the live courses of its bundle. -/
def State.moveCourses (s : State) (c : Nat) (b : Batten) : List Nat :=
  if b.tier = .thatched then ((List.range 4).map (c / 4 * 4 + ·)).filter fun x => (s.view x).tier == .thatched && (s.view x).base == b.base
  else [c]

/-- Set or clear the move flag of courses. -/
def State.flagMove (s : State) (cs : List Nat) (v : Bool) : State :=
  foldState (fun s c => s.commit c { s.batten c with move := v }) s cs

/-- Compaction or retirement begins to move a course's run (R85). -/
def State.startMove (s : State) (c : Nat) : State :=
  let s := if (s.dirOf (c / blockCourses)).st = .unassigned then s else s.loadBatten c 7
  let b := s.view c
  if b.tier = .absent || b.move || s.isLocked c || s.promoting (c / 4) then s
  else
    match s.moveWanted c b with
    | none => s
    | some retirement =>
      let before := s
      let (s, r) := s.alloc? b.len.toNat b.strong true
      let (s, r) := match r with
        | some r => (s, some r)
        | none => if b.strong then (s, none) else s.alloc? b.len.toNat false false
      match r with
      | none => before.unplaced 6 (c / blockCourses)
      | some r =>
        let s := s.flagMove (s.moveCourses c b) true
        s.onXlat fun x => { x with moves := x.moves ++ [{ course := c, retirement, old := b.run, new := r }] }

/-- Move the overflow runs of a Phioz course that should move (R125): new runs of the same code, the ciphertext copied, the
pointer forms rewritten in the home slots. -/
def State.moveOverflow (s : State) (c : Nat) (b : Batten) : State :=
  foldState (fun s (o : Nat × Run) =>
    let wanted := s.inVictim o.2 || s.spare.moving.any (fun m => o.2.members.any (m.1.covers s.dram.masks)) || s.urgentNow c
    if !wanted then s
    else
      let (s, r) := s.readPhioz c b o.1 7 0xFFFF
      if r.bad ≠ 0 then (s.poisonLines c o.1 15).syncPoison c
      else
        let before := s
        let (s, n) := s.alloc? 4 b.strong b.strong
        match n with
        | none => before.unplaced 6 (c / blockCourses)
        | some n =>
          let (s, cts) := s.readSlots o.2 7 0xFFFF (List.range 4)
          let s := s.writeRun n (cts.map fun x => x.getD (zeros 64))
          (s.storeInPlace c b o.1 (slotsOf (TileCode.phiozPointer n.base r.data)) 0xFFFF).release o.2) s (s.overflowOf c b)

/-- Retirements whose storage holds nothing live any more are done (R283; Retire Storage, C206h). -/
def State.settleRetirements (s : State) : State :=
  foldState (fun s (m : Retirement × Option Path × Nat × Nat) =>
    let left := s.leftOn m.1
    if left.1.isEmpty && left.2.isEmpty && !(s.allLive.any fun x => x.2.phioz && s.courseOn m.1 x.1 x.2) then
      let s := s.onSpare fun p => { p with moving := p.moving.filter (·.1 != m.1) }
      s.finishBackground m.2.1 opRetireStorage .success (le 2 0 ++ zeros 2 ++ le 4 m.2.2.1 ++ le 4 m.2.2.2)
    else s) s s.spare.moving

/-- Count a moved run for the retirements that it served. -/
def State.countMoved (s : State) (r : Run) : State :=
  let masks := s.dram.masks
  s.onSpare fun p =>
    { p with moving := p.moving.map fun m =>
        if r.members.any (m.1.covers masks) then (m.1, m.2.1, m.2.2.1 + 1, m.2.2.2) else m }

/-- The copy of a move ends (R85, R523): the new slot base commits, or, where a write cleared the flag or a clear made the
course stale, the new run is freed. -/
def State.endMove (s : State) (c : Nat) : State :=
  match s.xlat.moves.find? (·.course == c) with
  | none => s
  | some m =>
    let s := s.onXlat fun x => { x with moves := x.moves.filter (·.course != c) }
    let b := s.view c
    if !b.move || b.tier == .absent || b.run != m.old then s.unalloc m.new
    else
      let cs := s.moveCourses c b
      let commit (s : State) (cts : List (List Byte)) (f : Batten → Batten) : State :=
        let s := s.writeRun m.new cts
        let s := foldState (fun s c => s.commit c (f { ((s.batten c).withRun m.new) with move := false })) s cs
        let s := (s.countMoved m.old).release m.old
        let s := s.onXlat fun x =>
          { x with abandons := Sparse.erase x.abandons c, runsMoved := x.runsMoved + b2n (!m.retirement) }
        let s := if b.phioz && b.tier == .tiled then s.moveOverflow c (s.batten c) else s
        let s := s.onSpare fun p => { p with urgent := p.urgent.filter (· != c) }
        ((s.settleRetirements).retry fun w => w == .course).retryGathers
      if b.tier = .thatched then
        let (s, cts) := s.readRun b.run 7 0xFFFF
        if cts.all (·.isSome) then commit s (cts.map fun x => x.getD []) id
        else ((s.flagMove cs false).unalloc m.new).promoteNow (c / 4) c false
      else
        let (s, tiles) := s.copyTiles c b 7 allTiles
        commit s (tiles.map (·.2)).flatten fun x => { x with sizes := tiles.map fun t => BitVec.ofNat 3 t.1, poison := s.courseListed c }

/-- Compaction or retirement sets a course's move flag and starts copying its run (R85). -/
def execRunMoveStart (course : BitVec 30) (s : State) : Host.Outcome State Fault Refusal :=
  done (if s.hubRuns then s.startMove course.toNat else s)

/-- The copy ends (R85). -/
def execRunMoveCommit (course : BitVec 30) (s : State) : Host.Outcome State Fault Refusal := done (s.endMove course.toNat)

/-! ## Table rebuilds (R91) -/

/-- Event 0203h's reason. -/
def RebuildReason.code : RebuildReason → Nat
  | .command => 1 | .retirement => 2 | .lightToStrong => 3 | .compaction => 4

/-- Insert a block into a rising list. -/
def insertNat (x : Nat) : List Nat → List Nat
  | [] => [x]
  | y :: rest => if x ≤ y then x :: y :: rest else y :: insertNat x rest

/-- Begin the rebuild of the lowest block that waits (R91, R92); one whose new run cannot be placed waits on, event 0207h. -/
def State.beginRebuild (s : State) : State :=
  match s.xlat.rebuild, ((s.xlat.rebuildsWaiting.map (·.block)).foldl (fun l b => insertNat b l) []).head? with
  | none, some block =>
    match s.xlat.rebuildsWaiting.find? (·.block == block) with
    | none => s
    | some r =>
      let (s', p) := s.allocTable block
      match p with
      | none => s.unplaced 2 block
      | some (base, strong) =>
        let rest := (s.xlat.rebuildsWaiting.takeWhile fun x => x.block != block) ++ (s.xlat.rebuildsWaiting.dropWhile fun x => x.block != block).drop 1
        let s := s'.onXlat fun x =>
          { x with rebuildsWaiting := rest, rebuild := some { r with begun := true, w := 0, base, strong, recorded := (s.dirOf block).walks.toNat } }
        s.onDir block fun e => { e with rebuild := true }
  | _, _ => s

/-- Rebuilds of the table runs that lie in compaction victims (R91). -/
def State.wantCompaction (s : State) : State :=
  foldState (fun s (e : Nat × DirEntry) =>
    if (e.2.st == .bound || e.2.st == .ready) && (tableRuns e.2.base.toNat e.2.strong).any s.inVictim then s.wantRebuild e.1 .compaction none
    else s) s s.xlat.dir

/-- Free the run of a stale batten and write the batten absent (R89). Whether it did. -/
def State.clearStale (s : State) (c source : Nat) : State × Bool :=
  let s := match s.cachedBatten c with
    | some _ => s
    | none => if c % 4 = 0 then s.readTableSlot c source else s
  let b := s.batten c
  if b.stale (s.dirOf (c / blockCourses)) then (s.freeCourse c, true) else (s, false)

/-- The end of a rebuild (R91): the table base switches, the old run is freed, event 0203h. -/
def State.endRebuild (s : State) (r : Rebuild) : State :=
  let e := s.dirOf r.block
  let s := s.onDir r.block fun e =>
    { e with base := BitVec.ofNat 35 r.base, strong := r.strong, rebuild := false, walks := e.walks - BitVec.ofNat 2 r.recorded }
  let s := s.onXlat fun x => { x with rebuild := none }
  let s := s.freeTable e.base.toNat e.strong
  let s := s.raise 0x0203 .informational 0xFFFF (le 2 r.block ++ le 1 r.reason.code ++ le 4 r.freed) (s.blockLogs r.block)
  let s := s.finishBackground r.path 0xC082 .success (le 2 0 ++ zeros 2 ++ le 4 r.copied ++ le 4 r.freed)
  s.settleRetirements

/-- One step of the rebuild under way: the batten at its watermark is copied, a stale one's run freed (R91). -/
def State.rebuildStep (s : State) : State :=
  match s.xlat.rebuild with
  | none => s
  | some r =>
    let (s, freed) := s.clearStale (r.block * blockCourses + r.w) 11
    let r := { r with w := r.w + 1, copied := r.copied + 1, freed := r.freed + b2n freed }
    let s := (s.onXlat fun x => { x with rebuild := some r }).progress r.path 0xC082 (r.w * 100 / blockCourses)
    if r.w = blockCourses then s.endRebuild r else s

/-- The table rebuild copies the batten at its watermark; with none under way the next begins (R91, R92). -/
def execTableRebuildStep (s : State) : Host.Outcome State Fault Refusal :=
  match s.xlat.rebuild with
  | some _ => done s.rebuildStep
  | none =>
    if s.xlat.clearing.isSome then done s
    else
      let s := s.wantCompaction.beginRebuild
      done s.rebuildStep

/-! ## Clearing walks (R89, R93) -/

/-- A live or lost course becomes absent under a discard walk (R93, R218): its buffers close first, its run is freed once no
other course names it, its lines leave the poison list. Whether it held data, and whether its run was freed. -/
def State.discardCourse (s : State) (c : Nat) : State × Bool × Bool :=
  let s := s.finishPromotions (· == c / 4)
  let s := s.closeCourse c
  let s := foldState (fun s (g : Nat × Gather) => s.dropGather g.1) s (s.tile.gathers.filter fun g => g.2.course == c)
  let s := if (s.cachedBatten c).isSome then s else s.readTableSlot c 11
  let b := s.view c
  let (h, base) := s.poisonHome c
  let s := s.unlist h base 64
  if b.tier = .absent then
    (if b.poison then s.commit c {} else s, false, false)
  else
    let s := s.ownCount b.ctx.toNat false
    if b.tier = .thatched then
      let s := (s.commit c {}).invalidateCourse c
      let named := (List.range 4).any fun i => (s.batten (c / 4 * 4 + i)).tier == .thatched && (s.batten (c / 4 * 4 + i)).base == b.base
      (if named then s else s.release b.run, true, !named)
    else ((s.freeCourse c).commit c {}, true, true)

/-- End a discard: its counts (C083h). -/
def State.endDiscard (s : State) (d : Discard) (rc : ReturnCode) : State :=
  let s := s.onXlat fun x => { x with discards := x.discards.drop 1 }
  s.finishBackground d.path 0xC083 rc (le 2 0 ++ le 2 d.whole ++ le 4 d.discarded ++ le 4 d.already)

/-- Skip the whole blocks at the front of a discard, which are absent already (R88). -/
def Discard.skip (d : Discard) : Nat → Discard
  | 0 => d
  | n + 1 =>
    if d.dpa % blockBytes = 0 ∧ blockCourses ≤ d.courses then
      ({ d with dpa := d.dpa + blockBytes, courses := d.courses - blockCourses }).skip n
    else d

/-- One course of the first discard (R93). The walk over its courses of one block ends with that block's last course or with
the discard's, and event 0206h reports the runs it freed (R89). -/
def State.discardStep (s : State) : State :=
  match s.xlat.discards with
  | [] => s
  | d :: rest =>
    let d := d.skip (d.courses / blockCourses + 1)
    if s.abortWanted d.path 0xC083 then s.endDiscard d .aborted
    else if d.courses = 0 then s.endDiscard d .success
    else
      let s := if d.discarded + d.already = 0 then
          match s.courseOf d.ld d.dpa with
          | some c => s.traceTier 6 c (s.view c).tier .absent 0
          | none => s
        else s
      let (s, held, freed) := match s.courseOf d.ld d.dpa with
        | some c => s.discardCourse c
        | none => (s, false, false)
      let at' := s.courseOf d.ld d.dpa
      let d := ({ d with dpa := d.dpa + courseBytes, courses := d.courses - 1, discarded := d.discarded + b2n held,
                         already := d.already + b2n (!held), freed := d.freed + b2n freed } : Discard)
      let walkEnds := d.courses = 0 ∨ d.dpa % blockBytes = 0
      let s := match at' with
        | some c => if walkEnds then
            s.raise 0x0206 .informational 0xFFFF (le 2 (c / blockCourses) ++ le 4 d.freed) (s.blockLogs (c / blockCourses))
          else s
        | none => s
      let d := if walkEnds then { d with freed := 0 } else d
      let d := d.skip (d.courses / blockCourses + 1)
      let s := (s.onXlat fun x => { x with discards := d :: rest }).progress d.path 0xC083 ((d.total - d.courses) * 100 / max d.total 1)
      if d.courses = 0 then s.endDiscard d .success else s

/-- The block of the next clearing walk: the lowest with walks pending (R89). -/
def State.nextWalk (s : State) : Option Nat :=
  (s.xlat.dir.find? fun e => e.2.walks != 0 && e.2.st != .unassigned && !s.xlat.swaps.any (·.block == e.1)).map (·.1)

/-- One course of a clearing walk; at its end event 0206h (R89). -/
def State.walkStep (s : State) (w : Clearing) : State :=
  let c := w.block * blockCourses + w.w
  let s := if w.w = 0 then s.traceTier 6 c (s.batten c).tier .absent 0 else s
  let (s, freed) := s.clearStale c 11
  let w := { w with w := w.w + 1, freed := w.freed + b2n freed }
  if w.w = blockCourses then
    let s := s.onXlat fun x => { x with clearing := none }
    let s := s.onDir w.block fun e => { e with walks := e.walks - BitVec.ofNat 2 w.recorded }
    s.raise 0x0206 .informational 0xFFFF (le 2 w.block ++ le 4 w.freed) (s.blockLogs w.block)
  else s.onXlat fun x => { x with clearing := some w }

/-- The clearing walk takes the next course of its block, or of a discard (R89, R92, R93). Rebuilds and drain walks go
first; one walk runs at a time. -/
def execClearingWalkStep (s : State) : Host.Outcome State Fault Refusal :=
  match s.xlat.clearing with
  | some w => done (s.walkStep w)
  | none =>
    let s := if s.xlat.rebuild.isNone then s.beginRebuild else s
    if s.xlat.rebuild.isSome || s.xlat.swaps.any (·.drain.isSome) then done s
    else if !s.xlat.discards.isEmpty then done s.discardStep
    else
      match s.nextWalk with
      | none => done s
      | some b => done (s.walkStep { block := b, recorded := (s.dirOf b).walks.toNat })

/-! ## Table swaps (R90) -/

/-- A swap is over when its fill and its drain are: a released block is ready. -/
def State.endSwap (s : State) (w : Swap) : State :=
  if w.fill.isSome || w.drain.isSome then s.onXlat fun x => { x with swaps := x.swaps.map fun y => if y.block == w.block then w else y }
  else
    let s := s.onXlat fun x => { x with swaps := x.swaps.filter (·.block != w.block) }
    s.onDir w.block fun e => { e with st := if e.st = .filling then (if w.bound then .bound else .ready) else e.st }

/-- The fill writes the next absent batten into the new run; at its end a block still bound returns to bound (R90). -/
def execTableFillStep (s : State) : Host.Outcome State Fault Refusal :=
  match s.xlat.swaps.find? fun w => w.placed && w.fill.isSome with
  | none => done s
  | some w =>
    let n := w.fill.getD 0 + 1
    if n < blockCourses then done (s.endSwap { w with fill := some n })
    else
      let s := if w.bound then s.onDir w.block fun e => { e with st := .bound } else s
      done (s.endSwap { w with fill := none })

/-- Free what a drained batten names: its run once for a bundle, and its overflow runs. -/
def State.drainBatten (s : State) (old : Sparse Batten) (c : Nat) (b : Batten) : State :=
  let again := b.tier == .thatched && (List.range (c % 4)).any fun i =>
    let x := Sparse.get {} old (c / 4 * 4 + i)
    x.tier == .thatched && x.base == b.base
  let os := s.overflowRuns c b
  let s := foldState (fun s (o : Nat × Run) => (s.release o.2).onTile fun e => { e with overflowRuns := e.overflowRuns - 1 }) s os
  let s := if again then s else s.release b.run
  s.invalidateCourse c

/-- The drain walk takes the next course of the old run; at its end the old table is freed, event 0206h (R90). -/
def execDrainWalkStep (s : State) : Host.Outcome State Fault Refusal :=
  match s.xlat.swaps.find? (·.drain.isSome) with
  | none => done s
  | some w =>
    if s.xlat.rebuild.isSome || s.xlat.clearing.isSome then done s
    else
      let n := w.drain.getD 0
      let c := w.block * blockCourses + n
      let s := if n = 0 then s.traceTier 6 c (Sparse.get {} w.old c).tier .absent 0 else s
      let (s, freed) := match Sparse.find w.old c with
        | some b => (s.drainBatten w.old c b, 1)
        | none => (s, 0)
      let w := { w with freed := w.freed + freed }
      if n + 1 < blockCourses then done (s.endSwap { w with drain := some (n + 1) })
      else
        let s := s.freeTable w.oldBase w.oldStrong
        let s := s.onDir w.block fun e => { e with walks := 0 }
        let s := s.raise 0x0206 .informational 0xFFFF (le 2 w.block ++ le 4 w.freed) (s.blockLogs w.block)
        let s := s.endSwap { w with drain := none }
        done (if w.placed then s else s.placeSwap w.block)

/-! ## Retries -/

/-- Slots are freed: table runs are placed first, then what waits for a run tries again (R90, R91, R522). -/
def execPlacementRetry (s : State) : Host.Outcome State Fault Refusal :=
  let s := foldState (fun s (w : Swap) => if w.placed then s else s.placeSwap w.block) s s.xlat.swaps
  let s := if s.xlat.clearing.isNone then s.beginRebuild else s
  let s := s.retryFills
  let s := match s.flash.pass with
    | some r => if r.waiting then s.rekeyStep else s
    | none => s
  done ((s.retry fun w => w == .placement).retryGathers)

/-- Lookups that stalled at a watermark are served again (R89 to R91, R93). -/
def execWatermarkStallEnd (s : State) : Host.Outcome State Fault Refusal :=
  done (s.retry fun w => w == .walk || w == .fill)

/-! ## Commands -/

/-- The local course that a command names by address kind 0 (a DPA of its logical device) or 1 (a local course number,
privileged paths only); the error otherwise (R94, R128, R189). -/
def State.namedCourse (s : State) (p : Path) (kind addr : Nat) : Except ReturnCode Nat :=
  if kind = 0 then
    match s.courseOf (s.issuing p) addr with
    | some c => .ok c
    | none => .error .invalidInput
  else if kind = 1 then
    if !Path.privileged p then .error .unsupported
    else if addr < s.blocks * blockCourses then .ok addr
    else .error .invalidInput
  else .error .invalidInput

/-- Get Batten (C080h). -/
def execGetBatten (p : Path) (kind : BitVec 8) (addr : BitVec 64) (s : State) : Host.Outcome State Fault Refusal :=
  done (s.command (.getBatten p kind addr) p 0xC080 fun s =>
    match s.namedCourse p kind.toNat addr.toNat with
    | .error rc => refuse s rc
    | .ok c =>
      let e := s.dirOf (c / blockCourses)
      let b := s.batten c
      let above := match s.xlat.rebuild with
        | some r => r.begun && r.block == c / blockCourses && decide (r.w < c % blockCourses)
        | none => false
      let (cached, dirty) := match s.cachedBatten c with
        | some x => (true, x.dirty)
        | none => (false, false)
      (s, .success, le 2 0 ++ zeros 2 ++ le 4 c ++ le 8 e.toBits ++ le 16 b.toBits
        ++ le 1 (b2n cached + 2 * b2n dirty + 4 * b2n (b.stale e) + 8 * b2n above) ++ zeros 3))

/-- Get Translation Status (C081h). -/
def execGetTranslationStatus (p : Path) (s : State) : Host.Outcome State Fault Refusal :=
  done (s.command (.getTranslationStatus p) p 0xC081 fun s =>
    let count (f : DirEntry → Bool) : Nat := (s.xlat.dir.filter fun e => f e.2).length
    let at_ : Nat × Nat := match s.xlat.rebuild, s.xlat.swaps.find? (·.drain.isSome), s.xlat.clearing with
      | some r, _, _ => (r.block, r.w)
      | none, _, some w => (w.block, w.w)
      | none, some w, none => (w.block, w.drain.getD 0)
      | none, none, none => (0xFFFF, 0)
    let used := (s.alloc.laths.filter fun e => e.2.st != .empty).length
    let low := (s.alloc.laths.filter fun e => e.2.st == .closed && decide (e.2.live * 100 < s.alloc.victim * lathData)).length
    (s, .success, le 2 0 ++ le 2 (count fun e => e.st != .unassigned && !e.strong) ++ le 2 (count fun e => e.st == .bound)
      ++ le 2 (count fun e => e.walks != 0) ++ le 8 s.xlat.hits ++ le 8 s.xlat.misses
      ++ le 4 (s.xlat.cache.filter fun e => e.2.dirty).length ++ le 2 at_.1 ++ le 2 at_.2 ++ le 4 (128 * s.laths - used) ++ le 4 low
      ++ le 8 s.xlat.runsMoved ++ le 8 s.xlat.movesAbandoned ++ le 8 s.xlat.repacks))

/-- Rebuild Batten Block (C082h). -/
def execRebuildBattenBlock (p : Path) (block : BitVec 16) (s : State) : Host.Outcome State Fault Refusal :=
  done (s.privilegedBackground (.rebuildBattenBlock p block) p 0xC082 fun s =>
    let b := block.toNat
    if s.blocks ≤ b then (s, some .invalidInput)
    else if (s.dirOf b).st = .unassigned then (s.finishBackground (some p) 0xC082 .success (le 2 1 ++ zeros 10), none)
    else (s.onXlat fun x => { x with rebuildsWaiting := x.rebuildsWaiting ++ [{ block := b, path := some p }] }, none))

/-- The DPA block numbers that a range covers whole (R88). -/
def wholeExts (dpa n : Nat) : List Nat :=
  let first := (dpa + blockBytes - 1) / blockBytes
  let last := (dpa + 4096 * n) / blockBytes
  (List.range (last - first)).map (first + ·)

/-- Discard Course Range (C083h, R88, R93). -/
def execDiscardCourseRange (p : Path) (dpa : BitVec 64) (courses : BitVec 32) (s : State) : Host.Outcome State Fault Refusal :=
  done (s.background (.discardCourseRange p dpa courses) p 0xC083 fun s =>
    let l := s.issuing p
    let n := courses.toNat
    if !s.rangeOk l dpa.toNat n then (s, some .invalidInput)
    else
      let blocks := (wholeExts dpa.toNat n).filterMap (s.blockAt l)
      if blocks.any s.walksFull then (s, some .busy)
      else
        let s := foldState (fun s b => s.clearBlock b true) s blocks
        let d : Discard := { path := some p, ld := l, dpa := dpa.toNat, courses := n, total := n, whole := blocks.length }
        let d := d.skip (n / blockCourses + 1)
        if d.courses = 0 then
          (s.finishBackground (some p) 0xC083 .success (le 2 0 ++ le 2 d.whole ++ zeros 8), none)
        else (s.onXlat fun x => { x with discards := x.discards ++ [d] }, none))

/-- Set Compaction Policy (C084h). -/
def execSetCompactionPolicy (p : Path) (lowMark : BitVec 16) (victim : BitVec 8) (share : BitVec 8) (s : State) : Host.Outcome State Fault Refusal :=
  done (s.privileged (.setCompactionPolicy p lowMark victim share) p 0xC084 fun s =>
    if lowMark.toNat < 8 ∨ 1024 < lowMark.toNat ∨ victim.toNat < 10 ∨ 90 < victim.toNat ∨ share.toNat < 1 ∨ 50 < share.toNat then
      refuse s .invalidInput
    else
      (s.onAlloc fun a => { a with lowMark := lowMark.toNat, victim := victim.toNat, share := share.toNat }, .success, le 2 0))

end Sys2Proof.Machine
end

