-- ==== Sys2Proof/Machine/TileCoding.lean ====
section
/-! DEFINITION. The commands of tile coding (spec/03_tile_coding.md): gather buffers that close, and C0C0h to C0C5h. -/

namespace Sys2Proof.Machine

/-! ## Gather buffers -/

/-- The gather window of an open buffer expires, which closes it (R114). -/
def execGatherWindowExpiry (buffer : BitVec 6) (s : State) : Host.Outcome State Fault Refusal :=
  done (s.closeGather buffer.toNat)

/-- A gather buffer closes under the tile lock of its tile (R115). -/
def execGatherClose (buffer : BitVec 6) (s : State) : Host.Outcome State Fault Refusal :=
  done (s.closeGather buffer.toNat)

/-! ## Commands -/

/-- Get Tile Coding Status (C0C0h). -/
def execGetTileCodingStatus (p : Path) (s : State) : Host.Outcome State Fault Refusal :=
  done (s.command (.getTileCodingStatus p) p 0xC0C0 fun s =>
    let t := s.tile
    (s, .success, le 2 0 ++ zeros 2 ++ le 8 t.encoded ++ le 8 t.decoded ++ le 8 t.over192 ++ le 8 t.whole ++ le 8 t.partials
      ++ le 8 t.merged ++ le 8 t.mismatches ++ le 8 t.faults ++ le 8 t.poisonedPartials ++ le 4 t.overflowRuns
      ++ le 8 t.converted ++ t.perPredictor.flatMap (le 8)))

/-- Set Write Gather (C0C1h): a new window applies to buffers that open from now on (R114). -/
def execSetWriteGather (p : Path) (window : BitVec 8) (s : State) : Host.Outcome State Fault Refusal :=
  done (s.privileged (.setWriteGather p window) p 0xC0C1 fun s =>
    (s.onTile fun t => { t with window := window.toNat }, .success, le 2 0))

/-- A Phioz range entry of a logical device; 0 courses where it is clear (R126). -/
def State.phiozRange (s : State) (l : LdId) (e : Nat) : PhiozRange := Sparse.get {} s.tile.ranges (l.toNat * 8 + e)

/-- Courses of a range that are claimed (C0C2h), block by block. -/
def State.claimedIn (s : State) (l : LdId) (dpa n : Nat) : Nat :=
  let first := dpa / 4096
  ((List.range ((first + n - 1) / blockCourses + 1 - first / blockCourses)).map fun i =>
    let ext := first / blockCourses + i
    match s.blockAt l ext with
    | none => 0
    | some b =>
      ((s.listedCourses b).filter fun c =>
        let x := ext * blockCourses + c % blockCourses
        decide (first ≤ x) && decide (x < first + n) && (s.view c).tier != .absent).length).sum

/-- Do two ranges share a course? -/
def PhiozRange.overlaps (r : PhiozRange) (dpa n : Nat) : Bool :=
  decide (r.dpa < dpa + 4096 * n) && decide (dpa < r.dpa + 4096 * r.courses)

/-- Set Phioz Range (C0C2h, R126). -/
def execSetPhiozRange (p : Path) (entry : BitVec 8) (action : BitVec 8) (dpa : BitVec 64) (courses : BitVec 32) (s : State) : Host.Outcome State Fault Refusal :=
  done (s.command (.setPhiozRange p entry action dpa courses) p 0xC0C2 fun s =>
    let l := s.issuing p
    let e := entry.toNat
    let key := l.toNat * 8 + e
    let n := courses.toNat
    if 8 ≤ e ∨ 2 ≤ action.toNat then refuse s .invalidInput
    else if action.toNat = 0 then
      (s.onTile fun t => { t with ranges := Sparse.set {} t.ranges key {} }, .success, le 2 0 ++ zeros 2 ++ le 4 0)
    else if !s.rangeOk l dpa.toNat n then refuse s .invalidInput
    else if (List.range 8).any fun i => i != e && (s.phiozRange l i).overlaps dpa.toNat n then refuse s .invalidInput
    else
      let claimed := s.claimedIn l dpa.toNat n
      (s.onTile fun t => { t with ranges := Sparse.set {} t.ranges key { dpa := dpa.toNat, courses := n } }, .success,
        le 2 (b2n (decide (0 < claimed))) ++ zeros 2 ++ le 4 claimed))

/-- Get Phioz Range (C0C3h). -/
def execGetPhiozRange (p : Path) (entry : BitVec 8) (s : State) : Host.Outcome State Fault Refusal :=
  done (s.command (.getPhiozRange p entry) p 0xC0C3 fun s =>
    if 8 ≤ entry.toNat then refuse s .invalidInput
    else
      let r := s.phiozRange (s.issuing p) entry.toNat
      (s, .success, le 2 0 ++ le 1 (b2n (decide (0 < r.courses))) ++ zeros 5 ++ le 8 r.dpa ++ le 4 r.courses))

/-- Set Phioz Conversion (C0C4h, R127): kept in the log store. -/
def execSetPhiozConversion (p : Path) (ctx : BitVec 13) (allow : BitVec 8) (s : State) : Host.Outcome State Fault Refusal :=
  done (s.privileged (.setPhiozConversion p ctx allow) p 0xC0C4 fun s =>
    if 2 ≤ allow.toNat then refuse s .invalidInput
    else (s.onCtx ctx.toNat fun c => { c with phiozConv := allow.toNat == 1 }, .success, s.status 0 true))

/-- Get Tile Form (C0C5h): a tile check failure that it finds is handled as for a read (R120). A tile whose key
generation is gone cannot be decoded: only its batten's form is told (notes/assumptions/30.md). -/
def execGetTileForm (p : Path) (kind : BitVec 8) (tile : BitVec 8) (addr : BitVec 64) (s : State) : Host.Outcome State Fault Refusal :=
  done (s.command (.getTileForm p kind tile addr) p 0xC0C5 fun s =>
    match s.namedCourse p kind.toNat addr.toNat with
    | .error rc => refuse s rc
    | .ok c =>
      let t := if kind.toNat = 0 then addr.toNat / 256 % 16 else tile.toNat
      if 16 ≤ t then refuse s .invalidInput
      else
        let b := s.view c
        let answer (s : State) (size form len header : Nat) : State × ReturnCode × List Byte :=
          (s, .success, le 2 0 ++ le 1 size ++ le 1 form ++ le 1 len ++ le 1 header ++ le 1 (s.tileListed c t) ++ zeros 1)
        match b.tier with
        | .absent => answer s 0 0 0 0
        | .thatched => answer s (b.size t) 7 0 0
        | _ =>
          if b.tier = .tiled ∧ !b.phioz ∧ b.size t = 0 then answer s 0 0 0 0
          else if b.plainForm t then answer s (b.size t) 2 0 0
          else if !((s.ctx b.ctx.toNat).gen b.gen).usable then
            answer s (b.size t) (if !b.phioz then 1 else if b.size t = 5 then 4 else 3) 0 0
          else
            let (s, r) := s.readTile c b t 0 ((s.sourceRid p).getD 0xFFFF)
            let s := if r.bad = 0 then s else (s.poisonLines c t r.bad).syncPoison c
            answer s (b.size t) r.form r.len r.header)

end Sys2Proof.Machine
end

