-- ==== Sys2Proof/Machine/Placement.lean ====
section
/-! DEFINITION. Thatching jobs, promotions, the placement scan and the thresholds (spec/04_thatching_and_placement.md R140 to
R157), and the commands C100h to C107h. -/

namespace Sys2Proof.Machine

/-! ## Engines -/

/-- A thatch engine takes the next bundle of a job (R141); none while the sled sleeps (R418) or the controller stands at C2 (R514). -/
def execThatchBundleTake (engine : BitVec 2) (s : State) : Host.Outcome State Fault Refusal :=
  done (if s.strongReady && s.hubRuns && decide (s.therm.controller < 2) then s.takeBundle engine.toNat else s)

/-- An engine's bundle ends: it commits, or is left as it was (R141). -/
def execThatchBundleCommit (engine : BitVec 2) (s : State) : Host.Outcome State Fault Refusal := done (s.commitBundle engine.toNat)

/-- Run a stopped job again: with its history unless the watch entry's dirty bit is set (R142). -/
def State.resumeJob (s : State) (j add : Nat) : State :=
  s.onJob j fun x =>
    let x := { x with st := .running, reason := 0, budget := min (x.budget + add) 0xFFFFFFFF }
    if x.historyValid && x.dirty then { x with historyValid := false, history := [], taken := 0, dirty := false } else x

/-- A controller job stopped for Watch or for want of stripe laths resumes when the reason clears (R140). -/
def execThatchJobAutoResume (job : BitVec 10) (s : State) : Host.Outcome State Fault Refusal :=
  let j := job.toNat
  let x := s.job j
  let clear := (x.reason == 5 && s.eaves.st == .active) || (x.reason == 6 && s.canStripe)
  done (if x.controller && x.st == .stopped && clear then s.resumeJob j 0 else s)

/-- The promotion that an engine runs commits (R147). -/
def execPromotionCommit (engine : BitVec 2) (s : State) : Host.Outcome State Fault Refusal := done (s.commitPromotion engine.toNat)

/-! ## The scan -/

/-- What a visit asks for (R153). -/
inductive ScanAction where
  | none | queue (k : RecodeKind) | addBundle
  deriving DecidableEq, Repr

/-- The first row of R153's table that applies to a course and that its class allows; at stage 1 and above every raw course
of an unpinned class is re-coded tiled (R157). -/
def State.scanAction (s : State) (c : Nat) (b : Batten) : ScanAction :=
  let p := s.classPlace b.cls.toNat
  let heat := b.heat.toNat
  let stored := b.tier == .raw || b.tier == .tiled
  if b.tier = .tiled ∧ (s.place.rawMark ≤ heat ∨ 60 ≤ b.len.toNat) then .queue .toRaw
  else if b.tier = .raw ∧ p.pin ≠ 2 ∧ (heat ≤ s.place.policy.tile ∨ (1 ≤ s.place.stage ∧ p.pin = 0)) then .queue .toTiled
  else if stored && b.strong != p.strong && (!p.strong || (s.strongReady && s.canStripe)) then .queue .toCode
  else if stored && c % 4 == 3 && p.pin == 0 &&
      ((List.range 4).all fun i => decide ((s.view (c - 3 + i)).heat.toNat ≤ s.place.cold)) then .addBundle
  else .none

/-- Add a bundle to a controller job of the present limit, or open a free controller entry for it (R140). -/
def State.addBundle (s : State) (first : Nat) : State :=
  let cold := s.place.cold
  match s.place.jobs.find? fun (j : Nat × Job) => j.2.controller && j.2.st == .running && j.2.last + 1 == first && j.2.heat == cold with
  | some j => s.onJob j.1 fun x => { x with last := first + 3, bundlesLeft := x.bundlesLeft + 1 }
  | none =>
    match (List.range 256).find? fun n => (Sparse.find s.place.jobs n).isNone with
    | none => s
    | some n =>
      s.onJob n fun _ =>
        { st := .running, next := first, last := first + 3, bundlesLeft := 1, heat := cold, budget := 0xFFFFFFFF,
          cap := s.place.policy.cap, controller := true }

/-- Visit a course: halve its heat and queue the action of R153 (R152). -/
def State.visit (s : State) (c : Nat) : State :=
  let s := if (s.cachedBatten c).isSome then s else s.readTableSlot c 0
  if (s.view c).tier = .absent then s
  else
    let s := s.commitHeat c fun b => { b with heat := b.heat / 2 }
    match s.scanAction c (s.view c) with
    | .none => s
    | .queue k => s.onPlace fun p => { p with recodes := Sparse.insert p.recodes c k }
    | .addBundle => s.addBundle (c - 3)

/-- The placement scan visits the next course (R152); past the last bound block a lap ends. It pauses in Drowse
(R418). -/
def execPlacementScanVisit (s : State) : Host.Outcome State Fault Refusal :=
  if !s.hubRuns then done s else
  let endLap (s : State) : State := s.onPlace fun p => { p with lapMs := msOf (s.clock - p.lapStart), lapStart := s.clock }
  match s.boundFrom s.place.scan with
  | some c => done ((s.visit c).onPlace fun p => { p with scan := c + 1 })
  | none =>
    let s := endLap s
    match s.boundFrom 0 with
    | some c => done ((s.visit c).onPlace fun p => { p with scan := c + 1 })
    | none => done (s.onPlace fun p => { p with scan := 0 })

/-- A queued re-code runs (R153). -/
def execRecode (course : BitVec 30) (s : State) : Host.Outcome State Fault Refusal := done (if s.hubRuns then s.recodeCourse course.toNat else s)

/-! ## Thresholds -/

/-- Is physical use over a share, in percent, of usable physical capacity (R154)? -/
def State.occupied (s : State) (percent : Nat) : Bool := decide (percent * s.pressureCapacity < s.inUse * 100)

/-- O in permille (R154). -/
def State.permille (s : State) : Nat := if s.pressureCapacity = 0 then 0 else s.inUse * 1000 / s.pressureCapacity

/-- The thresholds after one interval with `ft` first touches a second (R154). -/
def State.adjusted (s : State) (ft : Nat) : Nat × Nat :=
  let p := s.place.policy
  let cold := s.place.cold
  let raw := s.place.rawMark
  if 1 ≤ s.place.stage then (min (cold + 4) 127, 127)
  else if p.ftTarget < ft then (cold - 1, max (raw - 4) p.rawMin)
  else if s.occupied p.occupancy then (min (cold + 1) p.coldMax, min (raw + 4) 127)
  else if s.inUse * 100 < (p.occupancy - 5) * s.pressureCapacity then (cold - 1, max (raw - 4) p.rawMin)
  else (cold, raw)

/-- Physical slots in use for courses of pinned classes (R155). -/
def State.pinnedSlots (s : State) : Nat :=
  ((s.allLive.filter fun x => (s.classPlace x.2.cls.toNat).pin != 0).map fun x => x.2.run.physical).sum

/-- Event 0405h: the exit mark of the stage would be met without the pinned courses' slots, and is not met with them (R155). -/
def State.pinnedRelief (s : State) : State :=
  let g := s.place.stage
  if g = 0 then s
  else
    let mark := stageExit s.place.stageByExpiry g * s.pressureCapacity
    let pinned := s.pinnedSlots
    if s.free * 1000 < mark ∧ mark ≤ (s.free + pinned) * 1000 then
      s.raiseLimited 0x0405 0 .warning 0xFFFF (le 4 (pinned / 2 ^ 22)) [] [] s.lds
    else s

/-- The controller adjusts its thresholds (R154), with events 0403h and 0405h. -/
def State.adjustThresholds (s : State) : State :=
  let ft := s.place.touches * 10
  let (cold, raw) := s.adjusted ft
  let top := if 1 ≤ s.place.stage then 127 else s.place.policy.coldMax
  let excess := if s.occupied s.place.policy.occupancy && decide (top ≤ cold) then s.place.overTarget + 1 else 0
  let s := s.onPlace fun p => { p with cold, rawMark := raw, lastTouches := ft, touches := 0, overTarget := excess % 10 }
  let s := if excess = 10 then s.raiseLimited 0x0403 0 .warning 0xFFFF (le 2 s.permille ++ le 1 cold) [] [] s.lds else s
  s.pinnedRelief

/-- THRESHOLD_ADJUST: every 100 ms (R154); in an activation pause the adjustment is deferred (R384), and none is made in Drowse
(R418). -/
def execThresholdAdjust (s : State) : Host.Outcome State Fault Refusal :=
  done (if !s.hubRuns then s else if s.purlin.paused then s.onPlace fun p => { p with adjustDue := true } else s.adjustThresholds)

/-! ## Commands -/

/-- Courses of a tier in the bound blocks. -/
def State.tierCount (s : State) (t : Tier) : Nat :=
  ((s.xlat.dir.filter fun e => e.2.st == .bound).map fun e =>
    ((s.listedCourses e.1).filter fun c => (s.view c).tier == t).length).sum

/-- Get Placement Status (C100h). -/
def execGetPlacementStatus (p : Path) (s : State) : Host.Outcome State Fault Refusal :=
  done (s.command (.getPlacementStatus p) p 0xC100 fun s =>
    let x := s.place
    let jobs (f : Job → Bool) : Nat := (x.jobs.filter fun j => f j.2).length
    (s, .success, le 2 0 ++ le 1 x.stage ++ le 1 x.cold ++ le 1 x.rawMark ++ le 1 x.policy.tile ++ le 2 s.permille
      ++ le 4 x.lastTouches ++ le 4 (s.free / 2 ^ 22) ++ le 8 (s.tierCount .raw) ++ le 8 (s.tierCount .tiled)
      ++ le 8 (s.tierCount .thatched) ++ le 8 x.thatched ++ le 8 x.firstTouches ++ le 8 x.overCap
      ++ le 2 (jobs fun j => j.st == .running || j.st == .paused) ++ le 2 (jobs fun j => j.st == .stopped) ++ le 4 x.lapMs))

/-- The ranges of Set Placement Policy. -/
def PlacementPolicy.ok (x : PlacementPolicy) : Bool :=
  let within (v lo hi : Nat) : Bool := decide (lo ≤ v) && decide (v ≤ hi)
  within x.occupancy.toNat 50 95 && within x.coldMax.toNat 0 64 && within x.rawMin.toNat 32 127 && within x.tile.toNat 0 63
    && within x.ftTarget.toNat 0 1000000 && within x.scanRate.toNat 1000 64000 && within x.share.toNat 1 50
    && within x.cap.toNat 25 95 && within x.ceiling.toNat 0 59 && decide (x.tile.toNat < x.rawMin.toNat)

/-- Set Placement Policy (C101h). A ceiling changed under the throttle changes the limit, event 0404h. -/
def execSetPlacementPolicy (p : Path) (policy : PlacementPolicy) (s : State) : Host.Outcome State Fault Refusal :=
  done (s.privileged (.setPlacementPolicy p policy) p 0xC101 fun s =>
    if !PlacementPolicy.ok policy then refuse s .invalidInput
    else
      let x := policy
      let old := s.place.policy.ceiling
      let s := s.onPlace fun y =>
        { y with
          policy := { occupancy := x.occupancy.toNat, coldMax := x.coldMax.toNat, rawMin := x.rawMin.toNat, tile := x.tile.toNat,
                      ftTarget := x.ftTarget.toNat, scanRate := x.scanRate.toNat, share := x.share.toNat, cap := x.cap.toNat,
                      ceiling := x.ceiling.toNat }
          cold := min y.cold x.coldMax.toNat
          rawMark := max y.rawMark x.rawMin.toNat }
      let d := s.place.divisor
      (if d ≠ 0 ∧ old ≠ x.ceiling.toNat then s.setThrottle d else s, .success, le 2 0))

/-- Set Class Placement (C102h, R155). -/
def execSetClassPlacement (p : Path) (cls : BitVec 8) (tier : BitVec 8) (pin : BitVec 8) (strong : Bool) (s : State) : Host.Outcome State Fault Refusal :=
  done (s.privileged (.setClassPlacement p cls tier pin strong) p 0xC102 fun s =>
    if 64 ≤ cls.toNat ∨ tier.toNat < 1 ∨ 2 < tier.toNat ∨ 2 < pin.toNat then refuse s .invalidInput
    else
      let old := s.classPlace cls.toNat
      let new : ClassPlacement := { raw := tier.toNat == 1, pin := pin.toNat, strong }
      (s.onPlace fun x => { x with classes := Sparse.set {} x.classes cls.toNat new }, .success,
        le 2 0 ++ le 1 (if old.raw then 1 else 2) ++ le 1 old.pin ++ le 1 (b2n old.strong) ++ zeros 3))

/-- May a path use a job entry (R161)? -/
def State.ownJob (s : State) (p : Path) (j : Nat) : Bool :=
  decide (j < 1024) && (Path.privileged p || (s.job j).owner == some (s.issuing p))

/-- Start Thatching Job (C103h). -/
def execStartThatchingJob (p : Path) (kind : BitVec 8) (heat : BitVec 8) (cap : BitVec 8) (budget : BitVec 32) (start : BitVec 64) (bundles : BitVec 32) (s : State) : Host.Outcome State Fault Refusal :=
  done (s.command (.startThatchingJob p kind heat cap budget start bundles) p 0xC103 fun s =>
    let k := kind.toNat
    let l := s.issuing p
    let at_ := start.toNat
    let n := bundles.toNat
    let inRange := if k = 0 then at_ % 16384 == 0 && s.rangeOk l at_ (4 * n)
      else at_ % 4 == 0 && decide (1 ≤ n) && decide (at_ + 4 * n ≤ s.blocks * blockCourses)
    if k = 1 ∧ !Path.privileged p then refuse s .unsupported
    else if 1 < k ∨ 127 < heat.toNat ∨ (cap.toNat ≠ 0 ∧ (cap.toNat < 25 ∨ 95 < cap.toNat)) ∨ budget.toNat = 0 ∨ budget.toNat % 8 ≠ 0
        ∨ !inRange then refuse s .invalidInput
    else
      match (List.range 768).find? fun i => (Sparse.find s.place.jobs (256 + i)).isNone with
      | none => refuse s .busy
      | some i =>
        let base := if k = 0 then s.courseAt l at_ else at_
        let stop := if k = 0 then s.courseAt l (at_ + 16384 * (n - 1)) else at_ + 4 * (n - 1)
        let job : Job :=
          { st := .running, next := base, last := stop + 3, owner := if k = 0 then some l else none,
            dpaStart := if k = 0 then some at_ else none, bundlesLeft := n, heat := heat.toNat, budget := budget.toNat,
            cap := if cap.toNat = 0 then s.place.policy.cap else cap.toNat, requestor := (s.sourceRid p).getD 0xFFFF }
        (s.onJob (256 + i) fun _ => job, .success, le 2 0 ++ le 2 (256 + i)))

/-- The code of a job state (R144). -/
def JobState.code : JobState → Nat
  | .free => 0 | .running => 1 | .paused => 2 | .stopped => 3 | .finished => 4

/-- Bytes 0 to 63 of a job context (R144). -/
def Job.context (x : Job) (j : Nat) : List Byte :=
  slice (le 2 j ++ le 1 x.st.code ++ le 1 x.reason ++ le 4 x.next ++ le 4 x.last ++ le 1 x.taken ++ le 1 (b2n x.historyValid)
    ++ le 1 (match x.owner with | some l => 128 + l.toNat | none => 0) ++ le 1 x.heat ++ le 8 x.input ++ le 8 x.output
    ++ le 4 x.budget ++ le 4 x.committed ++ le 4 x.failed ++ le 4 x.skipped ++ le 1 x.cap) 0 64

/-- Get Thatching Job (C104h). -/
def execGetThatchingJob (p : Path) (job : BitVec 16) (s : State) : Host.Outcome State Fault Refusal :=
  done (s.command (.getThatchingJob p job) p 0xC104 fun s =>
    if !s.ownJob p job.toNat then refuse s .invalidInput
    else
      let x : Job := match Sparse.find s.place.jobs job.toNat with
        | some x => x
        | none => { cap := 0 }
      (s, .success, le 2 0 ++ zeros 2 ++ x.context job.toNat))

/-- Resume Thatching Job (C105h). -/
def execResumeThatchingJob (p : Path) (job : BitVec 16) (add : BitVec 32) (s : State) : Host.Outcome State Fault Refusal :=
  done (s.command (.resumeThatchingJob p job add) p 0xC105 fun s =>
    let j := job.toNat
    let x := s.job j
    if !s.ownJob p j ∨ x.st ≠ .stopped ∨ add.toNat % 8 ≠ 0 then refuse s .invalidInput
    else
      let s := s.resumeJob j add.toNat
      (s, .success, le 2 (b2n (x.historyValid && x.dirty)) ++ zeros 2 ++ le 4 (s.job j).budget))

/-- Stop Thatching Job (C106h). -/
def execStopThatchingJob (p : Path) (job : BitVec 16) (free : Bool) (s : State) : Host.Outcome State Fault Refusal :=
  done (s.command (.stopThatchingJob p job free) p 0xC106 fun s =>
    let j := job.toNat
    let x := s.job j
    if !s.ownJob p j ∨ x.st = .free then refuse s .invalidInput
    else
      let s := if x.st = .running ∨ x.st = .paused then s.stopJob j 3 else s
      (if free then s.onPlace fun y => { y with jobs := Sparse.erase y.jobs j } else s, .success, le 2 0))

/-- The thatched bundles that hold a course of a range of a logical device. -/
def State.thatchedIn (s : State) (l : LdId) (dpa n : Nat) : List Nat :=
  let first := dpa / 4096
  ((List.range ((first + n - 1) / blockCourses + 1 - first / blockCourses)).flatMap fun i =>
    let ext := first / blockCourses + i
    match s.blockAt l ext with
    | none => []
    | some b =>
      ((s.listedCourses b).filter fun c =>
        let x := ext * blockCourses + c % blockCourses
        decide (first ≤ x) && decide (x < first + n) && (s.view c).tier == .thatched).map (· / 4)).eraseDups

/-- Is a course of a bundle thatched? -/
def State.bundleThatched (s : State) (bundle : Nat) : Bool := (List.range 4).any fun i => (s.view (4 * bundle + i)).tier == .thatched

/-- Warm Course Range (C107h): each thatched bundle of the range is promoted, no course's heat being set. -/
def execWarmCourseRange (p : Path) (dpa : BitVec 64) (courses : BitVec 32) (s : State) : Host.Outcome State Fault Refusal :=
  done (s.background (.warmCourseRange p dpa courses) p 0xC107 fun s =>
    let l := s.issuing p
    if !s.rangeOk l dpa.toNat courses.toNat then (s, some .invalidInput)
    else
      let lost := s.place.lost
      let (s, n) := (s.thatchedIn l dpa.toNat courses.toNat).foldl (fun (x : State × Nat) b =>
        if x.1.bundleThatched b then
          let s := x.1.promoteNow b (4 * b) false
          (s, x.2 + b2n (!s.bundleThatched b))
        else x) (s, 0)
      (s.finishBackground (some p) 0xC107 .success (le 2 0 ++ zeros 2 ++ le 4 n ++ le 4 (s.place.lost - lost)), none))

end Sys2Proof.Machine
end

