-- ==== Sys2Proof/Machine/TileCacheCommands.lean ====
section
/-! DEFINITION. The commands of the tile cache (spec/05_tile_cache.md R181, R182, R190): C140h to C143h. -/

namespace Sys2Proof.Machine

/-- Get Tile Cache Status (C140h). -/
def execGetTileCacheStatus (p : Path) (s : State) : Host.Outcome State Fault Refusal :=
  done (s.command (.getTileCacheStatus p) p 0xC140 fun s =>
    let c := s.cache
    (s, .success, le 2 0 ++ le 1 (b2n c.enable) ++ zeros 1 ++ le 4 s.fencedWays ++ le 8 c.hits ++ le 8 c.rescues
      ++ le 8 c.sectorMisses ++ le 8 c.tagMisses ++ le 8 c.joins ++ le 8 c.installed ++ le 8 c.staleFills ++ le 8 c.noWay
      ++ le 8 c.updates ++ le 8 c.invalidated ++ le 8 c.dropped))

/-- The tiles, cached or being filled, of the courses that `p` selects. -/
def State.cachedTiles (s : State) (p : Nat → Bool) : List Nat :=
  let ways := (s.cache.ways.filter fun (w : Nat × Way) => w.2.valid || w.2.evicting).map fun w => w.2.tag.toNat * 6144 + w.1 / 16
  ((ways ++ s.cache.trackers.map fun (t : Nat × Tracker) => t.2.tile).filter fun t => p (t / 16)).eraseDups

/-- Invalidate the tiles of the courses that `p` selects (R181, R182): tiles invalidated, fills marked stale. -/
def State.invalidateWhere (s : State) (p : Nat → Bool) : State × Nat × Nat :=
  let fresh := (s.cache.trackers.filter fun (t : Nat × Tracker) => p (t.2.tile / 16) && !t.2.stale).length
  let before := s.cache.invalidated
  let s := foldState State.invalidate s (s.cachedTiles p)
  (s, s.cache.invalidated - before, fresh)

/-- Does a local course serve a DPA course of a range of a logical device? -/
def State.servesRange (s : State) (l : LdId) (first n c : Nat) : Bool :=
  let x := (s.dirOf (c / blockCourses)).extent.toNat * blockCourses + c % blockCourses
  s.ownerOf (c / blockCourses) == some l && decide (first ≤ x) && decide (x < first + n)

/-- Invalidate Tile Cache Range (C141h). -/
def execInvalidateTileCacheRange (p : Path) (kind : BitVec 8) (start : BitVec 64) (courses : BitVec 32) (s : State) : Host.Outcome State Fault Refusal :=
  done (s.command (.invalidateTileCacheRange p kind start courses) p 0xC141 fun s =>
    let k := kind.toNat
    let a := start.toNat
    let n := courses.toNat
    let l := s.issuing p
    let clear (s : State) (f : Nat → Bool) : State × ReturnCode × List Byte :=
      let (s, tiles, fills) := s.invalidateWhere f
      (s, .success, le 2 0 ++ zeros 2 ++ le 4 tiles ++ le 4 fills)
    if 2 < k then refuse s .invalidInput
    else if 1 ≤ k ∧ !Path.privileged p then refuse s .unsupported
    else if k = 2 then clear s fun _ => true
    else if k = 1 then
      if n = 0 ∨ s.blocks * blockCourses < a + n then refuse s .invalidInput
      else clear s fun c => decide (a ≤ c) && decide (c < a + n)
    else if !s.rangeOk l a n then refuse s .invalidInput
    else clear s (s.servesRange l (a / 4096) n))

/-- Set Tile Cache Policy (C142h): kept in the log store; disabling invalidates every entry (R181). -/
def execSetTileCachePolicy (p : Path) (enable : Bool) (noFill : BitVec 64) (s : State) : Host.Outcome State Fault Refusal :=
  done (s.privileged (.setTileCachePolicy p enable noFill) p 0xC142 fun s =>
    let s := s.onCache fun c => { c with enable, noFill }
    let s := if enable then s else (s.invalidateWhere fun _ => true).1
    (s, .success, s.status 0 true))

/-- Get Tile Cache Set (C143h). -/
def execGetTileCacheSet (p : Path) (set : BitVec 16) (s : State) : Host.Outcome State Fault Refusal :=
  done (s.privileged (.getTileCacheSet p set) p 0xC143 fun s =>
    let n := set.toNat
    if 6144 ≤ n then refuse s .invalidInput
    else
      (s, .success, le 2 0 ++ le 2 (Sparse.get 0 s.cache.trees n).toNat ++ le 2 (Sparse.get 0 s.cache.fences n).toNat ++ zeros 2
        ++ (setWays n).flatMap fun k => le 4 (s.way k).toBits))

end Sys2Proof.Machine
end

