-- ==== Sys2Proof/Machine/Flashing.lean ====
section
/-! DEFINITION. The flashing engine's commands (spec/06_flashing.md): the rekey pass and the destroy walk (R216, R218), IDE
(R219), SPDM and TSP (R203, R205), link key rotation (R222), and C180h to C188h. -/

namespace Sys2Proof.Machine

/-! ## Walks -/

/-- The rekey pass takes the course at its watermark (R216). -/
def execRekeyPassCourse (s : State) : Host.Outcome State Fault Refusal := done s.rekeyStep

/-- Destroy Context Key with discard. -/
abbrev opDestroyKey : Nat := 0xC183

/-- Where a walk stands over the bound courses, in percent. -/
def State.boundPercent (s : State) (w : Nat) : Nat :=
  let blocks := (s.xlat.dir.filter fun e => e.2.st == .bound).map (·.1)
  let below := (blocks.filter fun b => decide (b < w / blockCourses)).length * blockCourses
    + (if blocks.contains (w / blockCourses) then w % blockCourses else 0)
  below * 100 / max (blocks.length * blockCourses) 1

/-- End a discard walk of a destroyed context (R218, R377). -/
def State.endDestroy (s : State) (d : DestroyWalk) (rc : ReturnCode) : State :=
  (s.onFlash fun f => { f with destroys := f.destroys.drop 1 }).finishBackground d.path opDestroyKey rc
    (le 2 0 ++ zeros 2 ++ le 4 d.owned ++ le 4 d.discarded)

/-- One course of the discard walk of a destroyed context (R218). -/
def State.destroyStep (s : State) : State :=
  match s.flash.destroys with
  | [] => s
  | d :: rest =>
    if s.abortWanted d.path opDestroyKey then s.endDestroy d .aborted
    else
      match s.boundFrom d.w with
      | none => s.endDestroy d .success
      | some c =>
        let s := if (s.cachedBatten c).isSome then s else s.readTableSlot c 11
        let b := s.view c
        let (s, held, _) := if b.tier != .absent && b.ctx.toNat == d.ctx then s.discardCourse c else (s, false, false)
        let d := { d with w := c + 1, discarded := d.discarded + b2n held }
        let s := (s.onFlash fun f => { f with destroys := d :: rest }).progress d.path opDestroyKey (s.boundPercent d.w)
        if (s.boundFrom d.w).isNone then s.endDestroy d .success else s

/-- The discard walk of a destroyed context takes the next course (R218). -/
def execDestroyDiscardWalkStep (s : State) : Host.Outcome State Fault Refusal := done s.destroyStep

/-! ## IDE, SPDM -/

/-- IDE of a port. -/
def State.ide (s : State) (p : HostPort) : IdePort := match p with | .hp0 => s.flash.ide0 | .hp1 => s.flash.ide1
/-- Change the IDE of a port. -/
def State.onIde (s : State) (p : HostPort) (f : IdePort → IdePort) : State :=
  s.onFlash fun x => match p with
    | .hp0 => { x with ide0 := f x.ide0 }
    | .hp1 => { x with ide1 := f x.ide1 }

/-- An IDE integrity failure: as CXL and PCIe define, the port's streams leave the secure state (R219,
notes/assumptions/31.md). -/
def execIdeIntegrityFailure (port : HostPort) (s : State) : Host.Outcome State Fault Refusal :=
  if s.portServes port && ((s.ide port).cxlRunning || (s.ide port).pcieRunning) then
    done ((s.onIde port fun x => { x with failures := x.failures + 1 }).stopIde port)
  else done s

/-- The keys of a stream after a KEY_PROG message: one key for each of the message's first eight bytes. -/
def putIdeKey (keys : List (List Byte)) (m : List Byte) : List (List Byte) := keys.filter (fun k => k.take 8 != m.take 8) ++ [m]

/-- An IDE_KM message (notes/assumptions/31.md): object 0 query, 2 key programming, 4 key set go, 5 key set stop; the answer is
the next object's header, its status 0. -/
def State.ideMessage (s : State) (port : HostPort) (cxl : Bool) (m : List Byte) : State :=
  let obj := (m.getD 1 0).toNat
  let answer (s : State) (n : Nat) : State := s.emit (.doe port (le 1 0 ++ le 1 n ++ slice m 2 6))
  let running (s : State) (v : Bool) : State :=
    s.onIde port fun x => if cxl then { x with cxlRunning := v } else { x with pcieRunning := v }
  if !s.portServes port then s
  else if obj = 0 then answer s 1
  else if obj = 2 then
    answer (s.onIde port fun x =>
      if cxl then { x with cxlKeys := putIdeKey x.cxlKeys m } else { x with pcieKeys := putIdeKey x.pcieKeys m }) 3
  else if obj = 4 then answer (running s true) 6
  else if obj = 5 then answer (running s false) 6
  else s

/-- A CXL_IDE_KM message programs CXL.mem IDE (R219). -/
def execCxlIdeKm (port : HostPort) (message : List Byte) (s : State) : Host.Outcome State Fault Refusal :=
  done (s.afterExit (.cxlIdeKm port message) fun s => s.ideMessage port true message)

/-- A PCIe IDE_KM message programs CXL.io IDE (R219). -/
def execPcieIdeKm (port : HostPort) (message : List Byte) (s : State) : Host.Outcome State Fault Refusal :=
  done (s.afterExit (.pcieIdeKm port message) fun s => s.ideMessage port false message)

/-- SPDM GET_CERTIFICATE reads the sled's certificate chain (R203). -/
def execSpdmGetCertificate (port : HostPort) (offset : BitVec 16) (length : BitVec 16) (s : State) : Host.Outcome State Fault Refusal :=
  done (s.afterExit (.spdmGetCertificate port offset length) fun s =>
    if s.portServes port then s.emit (.doe port ((List.range length.toNat).map fun i => Config.chain (offset.toNat + i))) else s)

/-! ## Wrapping keys -/

/-- The wrapping key of a path (R203). -/
def State.wrapKey (s : State) (k : KeyPath) : Option (List Byte) := (s.flash.wrapping.find? fun x => x.1 == k).map fun x => x.2

/-- A relay wrapping key is used: of 64 the least recently used is replaced (R379). -/
def State.useRelay (s : State) (k : KeyPath) : State :=
  match k with
  | .relay o p =>
    let l := s.purlin.relayKeys.filter (fun x => x != (o, p)) ++ [(o, p)]
    let gone := l.take (l.length - 64)
    let s := s.onPurlin fun x => { x with relayKeys := l.drop (l.length - 64) }
    s.onFlash fun f =>
      { f with wrapping := f.wrapping.filter fun x => !gone.any fun g => x.1 == KeyPath.relay g.1 g.2 }
  | _ => s

/-- Set the wrapping key of a path; an exchange replaces the one before (R203). -/
def State.setWrapKey (s : State) (k : KeyPath) (key : List Byte) : State :=
  (s.onFlash fun f => { f with wrapping := f.wrapping.filter (fun x => x.1 != k) ++ [(k, key)] }).useRelay k

/-- An ephemeral P-384 private key from the random generator (R195, R203). -/
def State.ephemeral (s : State) : Nat × State :=
  let (d, s) := s.draw
  (ofLe d % (Crypto.n384 - 1) + 1, s)

/-- The public key of a private one, X then Y. -/
def publicKey (d : Nat) : List Byte := Crypto.bytesOfPoint (Crypto.ecMul 384 d (some Crypto.g384))

/-- The ASCII string "HM4 KEK" (R203). -/
def kekInfo : List Byte := [0x48, 0x4D, 0x34, 0x20, 0x4B, 0x45, 0x4B]

/-- The wrapping key of an exchange (R203). -/
def State.wrapFrom (s : State) (d : Nat) (peer : List Byte) : List Byte :=
  Crypto.hkdf32 (Crypto.ecdhX d (Crypto.pointOf peer)) (be 8 s.serial.toNat) kekInfo

/-- The attestation signature over a message (R203). -/
def attest (m : List Byte) : List Byte := be 96 (Config.attestation (BitVec.ofNat 384 (ofBe (Crypto.sha384 m)))).toNat

/-- A key command answers Busy before FLASHING_READY (R400). -/
def State.keyed (s : State) (f : State → State × ReturnCode × List Byte) : State × ReturnCode × List Byte :=
  if s.ready rdyFlashing then f s else refuse s .busy

/-- Establish Wrapping Key (C181h, R203, R379). -/
def execEstablishWrappingKey (p : Path) (ownerKey : List Byte) (s : State) : Host.Outcome State Fault Refusal :=
  done (s.command (.establishWrappingKey p ownerKey) p 0xC181 fun s => s.keyed fun s =>
    let owner := slice ownerKey 0 96
    if !Crypto.onCurve (Crypto.pointOf owner) then refuse s .invalidInput
    else
      let (d, s) := s.ephemeral
      let mine := publicKey d
      let s := s.setWrapKey (Path.keyPath p) (s.wrapFrom d owner)
      (s, .success, le 2 0 ++ zeros 2 ++ mine ++ attest (owner ++ mine)))

/-! ## Loading a key -/

/-- May a context be named: any on a privileged path (none), else one that is unowned, the device's own, or 0000h (R226)? -/
def State.mayName (s : State) (owner : Option LdId) (c : Nat) : Bool :=
  match owner with
  | none => true
  | some l => !s.foreignCtx c l

/-- The logical device whose scope a path has; none on a privileged path. -/
def State.scope (s : State) (p : Path) : Option LdId :=
  match p with
  | .primary _ _ => some (s.issuing p)
  | .secondary _ _ => some (s.issuing p)
  | _ => none

/-- Event 0608h. -/
def State.keyChanged (s : State) (c action rid : Nat) (tag : BitVec 32) : State :=
  s.raise 0x0608 .informational rid (le 2 c ++ le 1 action ++ le 4 tag.toNat) (s.ctxLogs c)

/-- Event 060Ah. -/
def State.loadRefused (s : State) (c cause rid : Nat) : State :=
  s.raise 0x060A .warning rid (le 2 c ++ le 1 cause) (s.ctxLogs c)

/-- The key check value of a generation: the first 4 bytes of AES-256 under K1 of a zero block; 0 when not loaded. -/
def Generation.check (g : Generation) : List Byte :=
  if g.st = .loaded then (Crypto.aesEnc (g.key.take 32) (zeros 16)).take 4 else zeros 4

/-- Why an unwrapped key is refused (R204): the causes of event 060Ah. -/
def keyFault (c : Nat) (k : List Byte) : Option Nat :=
  if fieldLe k 0 2 ≠ c then some 2
  else if fieldLe k 2 1 ≠ 1 then some 3
  else if slice k 8 32 = slice k 40 32 then some 4
  else none

/-- Where a key load goes (R206): the generation and whether it is the next one, or the refusal. -/
inductive LoadPlace where
  | current | next | fresh | refused (rc : ReturnCode)
  deriving DecidableEq, Repr

/-- The outcome of R206's table by the state of the context. -/
def Context.loadPlace (x : Context) (next : Bool) : LoadPlace :=
  let cur := (x.gen x.cur).st
  let other := (x.gen (!x.cur)).st
  if cur = .destroyed then (if 0 < x.courses then .refused .busy else .fresh)
  else if cur = .empty then .current
  else if !next then .refused .invalidInput
  else if other = .retiring then .refused .busy
  else if other = .loaded then .refused .invalidInput
  else if other = .destroyed then (if 0 < x.courses then .refused .busy else .next)
  else .next

/-- Put a key into a generation. -/
def State.putKey (s : State) (c : Nat) (gen : Bool) (k : List Byte) : State :=
  s.onCtx c fun x =>
    x.setGen gen { st := .loaded, key := slice k 8 64, counter := 0, tag := BitVec.ofNat 32 (fieldLe k 4 4) }

/-- Load Context Key (C182h, R204, R206) on a path of scope `owner` with the wrapping key of `kp`. -/
def State.loadKey (s : State) (kp : KeyPath) (owner : Option LdId) (rid c : Nat) (next : Bool) (wrapped : List Byte) : State × ReturnCode × List Byte :=
  if c = 0 ∨ !s.mayName owner c then refuse s .invalidInput
  else
    match s.wrapKey kp with
    | none => refuse (s.loadRefused c 5 rid) .invalidInput
    | some kek =>
      let s := s.useRelay kp
      match Crypto.keyUnwrap kek (slice wrapped 0 80) with
      | none => refuse (s.loadRefused c 1 rid) .invalidInput
      | some k =>
        match keyFault c k with
        | some cause => refuse (s.loadRefused c cause rid) .invalidInput
        | none =>
          let x := s.ctx c
          let finish (s : State) (gen isNext : Bool) : State × ReturnCode × List Byte :=
            let s := s.putKey c gen k
            let s := s.keyChanged c (if isNext then 2 else 1) rid (BitVec.ofNat 32 (fieldLe k 4 4))
            (s, .success, le 2 (b2n isNext) ++ le 1 (b2n gen) ++ zeros 1 ++ ((s.ctx c).gen gen).check)
          let own (s : State) : State := match owner with
            | some l => s.onCtx c fun x => { x with owned := true, owner := l }
            | none => s
          match x.loadPlace next with
          | .refused rc => refuse s rc
          | .current => finish (own s) x.cur false
          | .fresh => finish (own (s.onCtx c fun x => { x with g0 := {}, g1 := {} })) x.cur false
          | .next => finish s (!x.cur) true

/-- Load Context Key (C182h). -/
def execLoadContextKey (p : Path) (ctx : BitVec 13) (next : Bool) (wrapped : List Byte) (s : State) : Host.Outcome State Fault Refusal :=
  done (s.command (.loadContextKey p ctx next wrapped) p 0xC182 fun s => s.keyed fun s =>
    s.loadKey (Path.keyPath p) (s.scope p) ((s.sourceRid p).getD 0xFFFF) ctx.toNat next wrapped)

/-! ## Destroying a key -/

/-- What was issued before a destroy completes uses the state from before it (R210): gather buffers and promotions of the
context's courses are finished, and an engine lets go of its bundles. -/
def State.settleContext (s : State) (c : Nat) : State :=
  let mine (s : State) (x : Nat) : Bool := (s.view x).tier != .absent && (s.view x).ctx.toNat == c
  let s := s.finishPromotions fun b => (List.range 4).any fun i => mine s (4 * b + i)
  let s := s.closeGathers fun g => mine s g.course
  let s := foldState (fun s (g : Nat × Gather) => s.dropGather g.1) s (s.tile.gathers.filter fun g => mine s g.2.course)
  foldState (fun s e => match s.engine e with
    | .job _ bundle _ _ => if mine s (4 * bundle) then s.touchBundle (4 * bundle) else s
    | _ => s) s (List.range 4)

/-- Destroy a context's keys (R218): both generations destroyed, a rekey cancelled or stopped, the counters zero; event 0608h. -/
def State.destroyKey (s : State) (c rid : Nat) : State :=
  let s := s.settleContext c
  let x := s.ctx c
  let tag := (x.gen x.cur).tag
  let gone (g : Generation) : Generation := { st := .destroyed, tag := g.tag }
  let s := s.onCtx c fun x => { x with g0 := gone x.g0, g1 := gone x.g1, rekey := false, deferred := false }
  let s := s.onFlash fun f =>
    { f with
      queue := f.queue.filter (· != c)
      pass := match f.pass with
        | some r => if r.ctx = c then none else some r
        | none => none }
  s.nextPass.keyChanged c 3 rid tag

/-- Destroy Context Key (C183h, R218). -/
def execDestroyContextKey (p : Path) (ctx : BitVec 13) (discard : Bool) (s : State) : Host.Outcome State Fault Refusal :=
  let c := ctx.toNat
  let i : Instr := .destroyContextKey p ctx discard
  if discard then
    done (s.background i p opDestroyKey fun s =>
      if !s.ready rdyFlashing then (s, some .busy)
      else if c = 0 ∨ !s.mayName (s.scope p) c then (s, some .invalidInput)
      else
        let owned := (s.ctx c).courses
        let s := s.destroyKey c ((s.sourceRid p).getD 0xFFFF)
        (s.onFlash fun f => { f with destroys := f.destroys ++ [{ ctx := c, path := some p, owned }] }, none))
  else
    done (s.command i p opDestroyKey fun s => s.keyed fun s =>
      if c = 0 ∨ !s.mayName (s.scope p) c then refuse s .invalidInput
      else
        let owned := (s.ctx c).courses
        (s.destroyKey c ((s.sourceRid p).getD 0xFFFF), .success, le 2 0 ++ zeros 2 ++ le 4 owned ++ le 4 0))

/-! ## TSP -/

/-- Answer a TSP request on a port that serves. -/
def State.tspAnswer (s : State) (ld : LdId) (session : BitVec 16) (f : State → State × ReturnCode × List Byte) : State :=
  if !s.portServes (ldPort ld) || !s.ldExists ld then s
  else
    let (s, rc, out) := s.keyed f
    s.emit (.tsp ld session rc out)

/-- A TSP set is handled as a load (R205). -/
def execTspSetKey (ld : LdId) (session : BitVec 16) (ctx : BitVec 13) (wrapped : List Byte) (s : State) : Host.Outcome State Fault Refusal :=
  done (s.afterExit (.tspSetKey ld session ctx wrapped) fun s => s.tspAnswer ld session fun s =>
    s.loadKey (.session ld session) (some ld) (s.ridOfLd ld).toNat ctx.toNat false wrapped)

/-- A TSP replacement is handled as a load with the next flag (R205). -/
def execTspReplaceKey (ld : LdId) (session : BitVec 16) (ctx : BitVec 13) (wrapped : List Byte) (s : State) : Host.Outcome State Fault Refusal :=
  done (s.afterExit (.tspReplaceKey ld session ctx wrapped) fun s => s.tspAnswer ld session fun s =>
    s.loadKey (.session ld session) (some ld) (s.ridOfLd ld).toNat ctx.toNat true wrapped)

/-- A TSP clear is handled as a destroy without discard (R205). -/
def execTspClearKey (ld : LdId) (session : BitVec 16) (ctx : BitVec 13) (s : State) : Host.Outcome State Fault Refusal :=
  done (s.afterExit (.tspClearKey ld session ctx) fun s => s.tspAnswer ld session fun s =>
    if ctx.toNat = 0 ∨ !s.mayName (some ld) ctx.toNat then refuse s .invalidInput
    else (s.destroyKey ctx.toNat (s.ridOfLd ld).toNat, .success, []))

/-- Any other TSP request returns the unsupported-request error (R205). -/
def execTspUnsupportedRequest (ld : LdId) (session : BitVec 16) (_opcode : BitVec 8) (s : State) : Host.Outcome State Fault Refusal :=
  done (s.afterExit (.tspUnsupportedRequest ld session _opcode) fun s =>
    if !s.portServes (ldPort ld) || !s.ldExists ld then s else s.emit (.tspError ld session))

/-! ## Link keys -/

/-- The other members of the cascade that are not lost. -/
def State.otherMembers (s : State) : List Nat :=
  (s.casc.map.members.filter fun (m : Nat × Member) => m.1 != s.me && !m.2.lost).map fun m => m.1

/-- What a rotation has reached (R222): senders switch once every member has confirmed the new key; the old key is withdrawn
once every sender has stopped using it, and the command completes. -/
def State.settleRotation (s : State) : State :=
  match s.flash.rotation with
  | none => s
  | some r =>
    let others := s.otherMembers
    let all (l : List (BitVec 10)) : Bool := others.all fun m => l.contains (BitVec.ofNat 10 m)
    let old := s.flash.linkId
    let s := if old ≠ r.newId ∧ all r.confirmed then
        let s := (s.onFlash fun f => { f with linkId := r.newId }).onLink fun l => { l with sealedCount := 0 }
        foldState (fun s m => s.emit (.control (some (BitVec.ofNat 10 m)) (.linkKeyConfirm r.newId false))) s others
      else s
    if s.flash.linkId = r.newId ∧ all r.stopped then
      let s := foldState (fun s m => s.emit (.control (some (BitVec.ofNat 10 m)) (.linkKeyConfirm r.newId true))) s others
      let s := s.onFlash fun f => { f with linkKeys := Sparse.erase f.linkKeys (r.newId - 1).toNat, rotation := none }
      s.finishBackground r.path 0xC188 .success (le 2 0 ++ le 1 r.newId.toNat ++ zeros 1)
    else s

/-- The ridge rotates to a new link key (R222): drawn, and sent to each member under its wrapping key. -/
def State.beginRotation (s : State) (p : Option Path) : State :=
  let id := s.flash.linkId + 1
  let (key, s) := s.draw
  let s := s.onFlash fun f => { f with linkKeys := Sparse.set [] f.linkKeys id.toNat key, rotation := some { newId := id, path := p } }
  let s := foldState (fun s m =>
    match s.wrapKey (.member (BitVec.ofNat 10 m)) with
    | some k => s.emit (.control (some (BitVec.ofNat 10 m)) (.linkKey id (Crypto.keyWrap k key)))
    | none => s) s s.otherMembers
  s.settleRotation

/-- Rotate Rafter Key (C188h): on the ridge alone. -/
def execRotateRafterKey (p : Path) (s : State) : Host.Outcome State Fault Refusal :=
  done (s.privilegedBackground (.rotateRafterKey p) p 0xC188 fun s =>
    if s.casc.role ≠ .ridge then (s, some .unsupported)
    else if s.flash.rotation.isSome || !s.ready rdyFlashing then (s, some .busy)
    else (s.beginRotation (some p), none))

/-! ## Status and attributes -/

/-- Where a context stands in the rekey queue (C184h byte 44). -/
def State.rekeyPosition (s : State) (c : Nat) : Nat :=
  if (s.flash.pass.map (·.ctx)) = some c then 0
  else
    match s.flash.queue.findIdx? (· == c) with
    | some i => i + 1
    | none => 0xFFFF

/-- Get Flashing Status (C180h). -/
def execGetFlashingStatus (p : Path) (s : State) : Host.Outcome State Fault Refusal :=
  done (s.command (.getFlashingStatus p) p 0xC180 fun s =>
    let f := s.flash
    let count (g : Context → Bool) : Nat := (f.contexts.filter fun (x : Nat × Context) => g x.2).length
    let (c, w) := match f.pass with
      | some r => (r.ctx, r.w)
      | none => (0xFFFF, 0)
    (s, .success, le 2 0 ++ le 2 (count fun x => x.g0.st == .loaded || x.g1.st == .loaded) ++ le 2 (count (·.rekey)) ++ le 2 c
      ++ le 4 w ++ zeros 4 ++ le 8 f.encrypted ++ le 8 f.decrypted ++ le 8 f.wrongReads ++ le 8 f.wrongWrites
      ++ le 8 f.noKeyWrites ++ le 8 f.early ++ le 8 f.tagFailures ++ le 1 f.linkId.toNat ++ zeros 3))

/-- Get Context (C184h). -/
def execGetContext (p : Path) (ctx : BitVec 13) (s : State) : Host.Outcome State Fault Refusal :=
  done (s.command (.getContext p ctx) p 0xC184 fun s =>
    let c := ctx.toNat
    if !s.mayName (s.scope p) c then refuse s .invalidInput
    else
      let x := s.ctx c
      (s, .success, le 2 0 ++ zeros 2 ++ le 4 x.toBits ++ le 8 x.g0.counter ++ le 8 x.g1.counter ++ le 8 x.limit ++ le 4 x.courses
        ++ x.g0.check ++ x.g1.check ++ le 2 (s.rekeyPosition c) ++ zeros 2))

/-- The owner byte of a context: [7] owned, [4:0] port and LD-ID. -/
def Context.ownerByte (x : Context) : Nat := b2n x.owned * 128 + x.owner.toNat

/-- Set Context Attributes (C185h). -/
def execSetContextAttributes (p : Path) (ctx : BitVec 13) (cls : BitVec 8) (owner : BitVec 8) (s : State) : Host.Outcome State Fault Refusal :=
  done (s.privileged (.setContextAttributes p ctx cls owner) p 0xC185 fun s =>
    let c := ctx.toNat
    let x := s.ctx c
    let owned := bitAt owner.toNat 7
    let l : LdId := BitVec.ofNat 5 owner.toNat
    let changes := decide (c ≠ 0) && (owned != x.owned || (owned && l != x.owner))
    if 64 ≤ cls.toNat then refuse s .invalidInput
    else if changes ∧ 0 < x.courses then refuse s .busy
    else
      let s := s.onCtx c fun x => { x with cls := BitVec.ofNat 6 cls.toNat }
      let s := if c = 0 then s else s.onCtx c fun x => { x with owned, owner := l }
      (s, .success, le 2 0 ++ le 1 x.cls.toNat ++ le 1 x.ownerByte))

/-- Start Rekey (C186h, R213). -/
def execStartRekey (p : Path) (ctx : BitVec 13) (s : State) : Host.Outcome State Fault Refusal :=
  done (s.command (.startRekey p ctx) p 0xC186 fun s => s.keyed fun s =>
    let c := ctx.toNat
    let x := s.ctx c
    let other := (x.gen (!x.cur)).st
    if !s.mayName (s.scope p) c ∨ (x.gen x.cur).st ≠ .loaded then refuse s .invalidInput
    else if other = .retiring then refuse s .busy
    else
      let s := s.startRekeyOf c 2
      (s, .success, le 2 0 ++ le 1 (b2n (!x.cur)) ++ le 1 (if other = .loaded then 1 else 2) ++ le 2 (s.rekeyPosition c)))

/-- Set Write Counter Limit (C187h, R213, R215, R217): a counter at or past a mark acts at once. -/
def execSetWriteCounterLimit (p : Path) (ctx : BitVec 13) (limit : BitVec 64) (s : State) : Host.Outcome State Fault Refusal :=
  done (s.command (.setWriteCounterLimit p ctx limit) p 0xC187 fun s =>
    let c := ctx.toNat
    let n := limit.toNat
    if !s.mayName (s.scope p) c ∨ n < 2 ^ 32 ∨ 2 ^ 40 < n then refuse s .invalidInput
    else
      let fresh (g : Generation) : Generation := { g with limitRaised := g.limitRaised && decide (n ≤ g.counter) }
      let s := s.onCtx c fun x => { x with limit := n, g0 := fresh x.g0, g1 := fresh x.g1 }
      let x := s.ctx c
      let g := x.gen x.cur
      let marked := g.st == .loaded && decide (n - n / 8 ≤ g.counter)
      let s := if marked then s else s.onCtx c fun x => { x with deferred := false }
      let s := (s.countWrites c x.cur 0).countWrites c (!x.cur) 0
      let s := if (s.ctx c).cur = x.cur then s else s.countWrites c x.cur 0
      let y := s.ctx c
      let retiring := (y.gen (!y.cur)).st == .retiring
      let reached := retiring && (decide (n ≤ (y.gen (!y.cur)).counter) || decide (n ≤ (y.gen y.cur).counter))
      (s, .success, le 2 (b2n marked + 2 * b2n reached)))

end Sys2Proof.Machine
end

