-- ==== Sys2Proof/Machine/Channels.lean ====
section
/-! DEFINITION. The commands of chapter 07 (spec/07_lpddr4x_channels.md): the work of the channels' queues and buffers,
maintenance, power-down of channels and groups, and commands C1C0h to C1C7h. Training attempts are with bring-up. -/

namespace Sys2Proof.Machine

/-! ## Queue and buffer -/

/-- QUEUE_HEAD_EXECUTE (R233 to R237): the head of an awake channel's queue, or a marker at the head of a sleeping one's. -/
def execQueueHeadExecute (ch : ChannelId) (s : State) : Host.Outcome State Fault Refusal :=
  done (if s.executes ch.toNat then s.execHead ch.toNat else s.execMarkers ch.toNat 1)

/-- An uncorrectable word of the key store (R464): the generation is destroyed, event 1004h. -/
def State.loseKey (s : State) (c : Nat) (gen : Bool) : State :=
  let s := s.onSram fun m => { m with keyErrors := Sparse.erase m.keyErrors (c * 2 + b2n gen) }
  let s := s.onCtx c fun x => x.setGen gen { x.gen gen with st := .destroyed, key := [] }
  s.raise 0x1004 .failure 0xFFFF (le 2 c ++ le 1 (b2n gen)) s.lds

/-- The codec's answer for a slot read that comes back (R234, R267, R270, R272). A write that reached the slot since the read
issued counts as newer than the write-back. -/
def State.slotBack (s : State) (ch : Nat) (x : InFlight) (f : Fetch) : State :=
  let rid := match f.reads with
    | r :: _ => r.rid.toNat
    | [] => 0xFFFF
  match Gf.correct (x.data ++ x.check) with
  | (.clean, some d) => s.setSlot x.fetch x.index (.good d)
  | (.corrected p _, some d) =>
    let s := if s.codeword x.slot == x.data ++ x.check then s.writeBack x.slot p d 1 rid
      else
        let s := (s.onSpare fun p => { p with corrections := p.corrections + 1, unclassified := p.unclassified + 1 }).bump 0x11 ch
        (s.countCorrections ch 1 0 rid).fault x.slot 6 p 1 1 true
    s.setSlot x.fetch x.index (.good d)
  | _ =>
    match (s.channel ch).holds.find? fun h => h.slot == x.slot with
    | some h => (s.onSpare fun p => { p with corrections := p.corrections + 1 }).setSlot x.fetch x.index (.good h.data)
    | none =>
      if f.batten.strong then
        s.onChannel ch fun c => { c with rebuilds := c.rebuilds ++ [{ slot := x.slot, fetch := x.fetch, index := x.index, cause := 1 }] }
      else s.setSlot x.fetch x.index .bad

/-- SLOT_READ_COMPLETE: the oldest slot read that DRAM has not answered comes back. -/
def execSlotReadComplete (ch : ChannelId) (s : State) : Host.Outcome State Fault Refusal :=
  match (s.channel ch.toNat).inFlight with
  | [] => done s
  | x :: rest =>
    let s := s.onChannel ch.toNat fun c => { c with inFlight := rest }
    match s.fetch x.fetch with
    | none => done s
    | some f =>
      let c := f.batten.ctx.toNat
      if Sparse.get false s.sram.keyErrors (c * 2 + b2n f.batten.gen) then
        done ((s.loseKey c f.batten.gen).endFetch x.fetch f (zeros 256) 15 0)
      else done ((s.slotBack ch.toNat x f).settleFetch x.fetch)

/-- BUFFER_DRAIN: the oldest entry of an awake channel's buffer drains (R234, R235), unless the channel retrains (R246). -/
def execBufferDrain (ch : ChannelId) (s : State) : Host.Outcome State Fault Refusal :=
  done (if s.executes ch.toNat && !(s.channel ch.toNat).retraining then s.drainOne ch.toNat else s)

/-! ## Refresh and maintenance -/

/-- An item of maintenance enters the queue; on an empty queue it executes. -/
def State.enterItem (s : State) (ch : Nat) (e : QueueEntry) : State :=
  let idle := (s.channel ch).queue.isEmpty
  let s := s.onChannel ch fun c => { c with queue := c.queue ++ [e] }
  if idle then s.execHead ch else s

/-- REFRESH_DUE (R239, R246): a per-bank refresh enters at the tail; in a retraining it runs inside it. -/
def execRefreshDue (ch : ChannelId) (s : State) : Host.Outcome State Fault Refusal :=
  let n := ch.toNat
  done (if !s.executes n then s
    else if (s.channel n).retraining then s.onChannel n fun c => { c with refreshAt := (c.refreshAt + 1) % 16 }
    else s.enterItem n .refresh)

/-- MR4_POLL (R239, R240, R246): mode register 4 of the four dies is read; in self-refresh no poll runs (R249). -/
def execMr4Poll (ch : ChannelId) (codes : BitVec 12) (s : State) : Host.Outcome State Fault Refusal :=
  done (if s.executes ch.toNat then s.enterItem ch.toNat (.modeRead codes) else s)

/-- Enter a maintenance item, or defer it while the channel sleeps (R249). -/
def State.maintain (s : State) (ch : Nat) (e : QueueEntry) : State :=
  let c := s.channel ch
  if s.executes ch then s.enterItem ch e
  else if c.trained && c.asleep && !c.outOfService then s.onChannel ch fun c => { c with deferred := c.deferred ++ [e] }
  else s

/-- ZQ_CALIBRATION_DUE (R245): one rank, the ranks alternating. -/
def execZqCalibrationDue (ch : ChannelId) (passed : Bool) (stallNs : BitVec 32) (s : State) : Host.Outcome State Fault Refusal :=
  let rank := (s.channel ch.toNat).nextZq
  let s := s.onChannel ch.toNat fun c => { c with nextZq := 1 - rank }
  done (s.maintain ch.toNat (.zq rank passed stallNs.toNat))

/-- DQS_CHECK_DUE (R245): the check will find `drift`. -/
def execDqsCheckDue (ch : ChannelId) (drift : BitVec 16) (s : State) : Host.Outcome State Fault Refusal :=
  done (s.maintain ch.toNat (.dqsCheck drift))

/-- Is any channel in write DQ retraining (R247)? -/
def State.anyRetraining (s : State) : Bool := s.dram.channels.any fun c => c.2.retraining

/-- The retraining of a channel starts (R246): its queue runs, its buffer drains to empty. -/
def State.startRetraining (s : State) (ch : Nat) : State :=
  let s := s.runChannel ch
  let s := s.drainTo ch 0
  let c := s.channel ch
  let s := s.onChannel ch fun c => { c with retraining := true, retried := false, wantsTurn := false, since := s.clock }
  (s.trace 3 3 0xFFFF 0xFFFF (le 1 ch ++ le 1 1 ++ le 1 4 ++ le 4 (min (usOf (s.clock - c.since)) 0xFFFFFFFF))).recompute

/-- WRITE_DQ_RETRAIN_TURN (R246, R247): the turn of the channel that fell due first; the drift is measured again, and within the
threshold the retraining is dropped unless it was commanded (R245). A sleeping channel's turn comes after the others' (R249). -/
def execWriteDqRetrainTurn (ch : ChannelId) (drift : BitVec 16) (s : State) : Host.Outcome State Fault Refusal :=
  let n := ch.toNat
  if s.dram.turns.head? != some n || s.anyRetraining then done s
  else
    let c := s.channel n
    if !s.executes n then done (s.onDram fun d => { d with turns := d.turns.drop 1 ++ [n] })
    else
      let s := s.onDram fun d => { d with turns := d.turns.drop 1 }
      let s := s.onChannel n fun c => { c with drift }
      if decide (drift.toNat ≤ s.dram.driftPs) && !c.wantsTurn then done s else done (s.startRetraining n)

/-- WRITE_DQ_RETRAIN_DONE (R250): a pass raises event 0703h; a failure is retried once, a second takes the channel out of
service. -/
def execWriteDqRetrainDone (ch : ChannelId) (passed : Bool) (stallNs : BitVec 32) (s : State) : Host.Outcome State Fault Refusal :=
  let n := ch.toNat
  let c := s.channel n
  if !c.retraining then done s
  else if !passed && !c.retried then done (s.onChannel n fun c => { c with retried := true })
  else
    let us := stallNs.toNat / 1000
    let s := s.onChannel n fun c =>
      { c with retraining := false, longestStall := max c.longestStall us, since := s.clock }
    let s := s.trace 3 4 0xFFFF 0xFFFF (le 1 n ++ le 1 4 ++ le 1 (if passed then 1 else 5) ++ le 4 us)
    if passed then
      let s := s.onChannel n fun c => { c with retrainings := c.retrainings + 1 }
      let s := s.raiseLimited 0x0703 n .informational 0xFFFF
        (le 1 n ++ le 2 c.drift.toNat ++ le 2 (min us 65535) ++ zeros 4) [(5, 4)] [1] s.lds
      done (((s.finishRetrain n 1 0 stallNs.toNat).runChannel n).recompute)
    else done (s.takeOut n 1).recompute

/-! ## Sleep -/

/-- The segments of a channel whose laths are all empty, as the mask of one rank (R241). -/
def State.emptySegments (s : State) (ch : Nat) : Nat :=
  let live := (s.alloc.laths.filter fun e => e.1 / 16384 == ch && e.2.st != .empty).map fun e => lathSegment s.small (e.1 % 16384)
  maskOf 8 fun i => !live.contains i

/-- The array places of masked segments lose their contents (R241; notes/assumptions/34.md). -/
def State.loseMasked (s : State) (ch mask : Nat) : State :=
  let gone (a : Nat) : Bool := slotChannel (a / 64) == ch && bitAt mask (lathSegment s.small (slotLath (a / 64)))
  let n := s.dram.losses
  s.onDram fun d =>
    { d with
      losses := n + 1
      cells := ((d.cells.filter fun c => gone c.1).map fun c => c.1).foldl (fun m a => Memory.write m a (Config.lostByte n a)) d.cells }

/-- A channel enters self-refresh: its buffer drains to empty, its empty segments are masked (R235, R241). -/
def State.sleepChannel (s : State) (ch : Nat) : State :=
  let c := s.channel ch
  if c.asleep || !c.trained || c.outOfService then s
  else
    let s := s.drainTo ch 0
    let m := s.emptySegments ch
    let s := s.loseMasked ch m
    s.onChannel ch fun c =>
      { c with asleep := true, masks := BitVec.ofNat 16 (m * 257), maskInForce := decide (m ≠ 0), srEntries := c.srEntries + 1 }

/-- Is a channel idle: no entry waits and nothing is under way? -/
def Channel.idle (c : Channel) : Bool := c.queue.isEmpty && !c.retraining && c.inFlight.isEmpty

/-- CHANNEL_SELF_REFRESH_ENTRY (R251): an idle channel of a live group. -/
def execChannelSelfRefreshEntry (ch : ChannelId) (s : State) : Host.Outcome State Fault Refusal :=
  let c := s.channel ch.toNat
  done (if s.executes ch.toNat && c.idle && c.buffer.isEmpty then s.sleepChannel ch.toNat else s)

/-- The channels of a group. -/
def groupChannels (g : Nat) : List Nat := (List.range 8).map fun i => 8 * g + i

/-- A group's channels are asleep and its switch open (R252), with its power trace record. -/
def State.downGroup (s : State) (g : Nat) : State :=
  let s := foldState State.sleepChannel s (groupChannels g)
  let old := (s.group g).since
  let s := s.onGroup g fun x => { x with st := .poweredDown, waking := false, since := s.clock }
  s.trace 3 1 0xFFFF 0xFFFF (le 1 g ++ le 1 1 ++ le 1 2 ++ le 4 (min (usOf (s.clock - old)) 0xFFFFFFFF))

/-- GROUP_POWER_DOWN_ENTRY (R252, R254): a group with every channel idle powers down, or a request came before the point of no
return and the entry is abandoned. -/
def execGroupPowerDownEntry (g : GroupId) (abandoned : Bool) (s : State) : Host.Outcome State Fault Refusal :=
  let x := s.group g.toNat
  if x.st != .live || !x.enable || !(groupChannels g.toNat).all fun ch => (s.channel ch).idle then done s
  else if abandoned then
    done ((foldState State.sleepChannel s (groupChannels g.toNat)).onGroup g.toNat fun x => { x with abandoned := x.abandoned + 1 })
  else done (s.downGroup g.toNat)

/-- A group is live again; the channels with entries leave self-refresh (R253). -/
def State.upGroup (s : State) (g ns : Nat) : State :=
  let old := (s.group g).since
  let spent := s.clock - old
  let s := s.onGroup g fun x =>
    { x with
      st := .live, waking := false, wakes := x.wakes + 1, lastWake := ns, longestWake := max x.longestWake ns
      downCycles := x.downCycles + spent, since := s.clock }
  let s := s.trace 3 2 0xFFFF 0xFFFF (le 1 g ++ le 1 2 ++ le 1 1 ++ le 4 (min (usOf spent) 0xFFFFFFFF))
  foldState (fun s ch => if (s.channel ch).waking then s.leaveSelfRefresh ch else s) s (groupChannels g)

/-- GROUP_WAKE_COMPLETE (R253): `ns` is the time the wake took. -/
def execGroupWakeComplete (g : GroupId) (ns : BitVec 32) (s : State) : Host.Outcome State Fault Refusal :=
  let x := s.group g.toNat
  done (if x.st == .poweredDown && x.waking then s.upGroup g.toNat ns.toNat else s)

/-! ## Commands -/

/-- The code of a group's state (C1C1h byte 2). -/
def GroupState.code : GroupState → Nat
  | .untrained => 0 | .live => 1 | .poweredDown => 2 | .withheld => 3

/-- C1C0h Get Channel Status. -/
def execGetChannelStatus (p : Path) (ch : BitVec 8) (s : State) : Host.Outcome State Fault Refusal :=
  done (s.command (.getChannelStatus p ch) p 0xC1C0 fun s =>
    if 127 < ch.toNat then refuse s .invalidInput
    else
      let c := s.channel ch.toNat
      (s, .success,
        le 2 0 ++ le 1 (s.channelCode ch.toNat) ++ le 1 (s.group (ch.toNat / 8)).speed
          ++ ((List.range 4).flatMap fun d => le 1 (bits c.codes.toNat (3 * d + 2) (3 * d)))
          ++ le 1 (min 16 c.queue.length) ++ le 1 c.buffer.length ++ le 2 c.drift.toNat ++ le 2 c.longestStall ++ le 2 c.masks.toNat
          ++ le 8 c.reads ++ le 8 c.drained ++ le 8 c.hazards ++ le 8 c.srEntries ++ le 4 c.zqs ++ le 4 c.retrainings))

/-- C1C1h Get Group Status. -/
def execGetGroupStatus (p : Path) (g : BitVec 8) (s : State) : Host.Outcome State Fault Refusal :=
  done (s.command (.getGroupStatus p g) p 0xC1C1 fun s =>
    if 15 < g.toNat then refuse s .invalidInput
    else
      let n := g.toNat
      let x := s.group n
      let down := x.downCycles + if x.st = .poweredDown then s.clock - x.since else 0
      (s, .success,
        le 2 0 ++ le 1 x.st.code ++ le 1 x.speed ++ le 1 (maskOf 8 fun i => s.serving (8 * n + i))
          ++ le 1 (maskOf 8 fun i => (s.channel (8 * n + i)).fenced) ++ le 2 x.sensor.toNat ++ le 8 x.wakes ++ le 8 x.abandoned
          ++ le 8 (msOf down) ++ le 4 x.lastWake ++ le 4 x.longestWake ++ le 1 (b2n x.enable) ++ zeros 3))

/-- C1C2h Set Group Power Policy. -/
def execSetGroupPowerPolicy (p : Path) (g : BitVec 8) (enable : Bool) (groupUs chan100ns : BitVec 32) (s : State) : Host.Outcome State Fault Refusal :=
  done (s.privileged (.setGroupPowerPolicy p g enable groupUs chan100ns) p 0xC1C2 fun s =>
    let u := groupUs.toNat
    let c := chan100ns.toNat
    if 15 < g.toNat ∧ g.toNat ≠ 255 then refuse s .invalidInput
    else if u < 1 ∨ 100000 < u ∨ c < 5 ∨ 10000 < c ∨ 10 * u < c then refuse s .invalidInput
    else
      let gs := if g.toNat = 255 then List.range 16 else [g.toNat]
      let s := foldState (fun s n => s.onGroup n fun x =>
        { x with enable, groupUs := u, chan100ns := c, waking := x.waking || (!enable && x.st == .poweredDown) }) s gs
      (s, .success, s.status 0 true))

/-- C1C3h Set Training Policy. -/
def execSetTrainingPolicy (p : Path) (zqMs : BitVec 16) (checkMs driftPs pollMs : BitVec 8) (s : State) : Host.Outcome State Fault Refusal :=
  done (s.privileged (.setTrainingPolicy p zqMs checkMs driftPs pollMs) p 0xC1C3 fun s =>
    let z := zqMs.toNat
    let c := checkMs.toNat
    let d := driftPs.toNat
    let m := pollMs.toNat
    if z < 32 ∨ 1000 < z ∨ c < 1 ∨ 64 < c ∨ d < 4 ∨ 40 < d ∨ m < 1 ∨ 32 < m then refuse s .invalidInput
    else
      let s := s.onDram fun x => { x with zqMs := z, checkMs := c, driftPs := d, pollMs := m }
      (s, .success, s.status 0 true))

/-- C1C4h Set DRAM Speed: from the next bring-up on (R229). -/
def execSetDramSpeed (p : Path) (speed : BitVec 8) (s : State) : Host.Outcome State Fault Refusal :=
  done (s.privileged (.setDramSpeed p speed) p 0xC1C4 fun s =>
    if 2 < speed.toNat then refuse s .invalidInput
    else
      let s := s.onDram fun d => { d with speedPending := speed.toNat }
      (s, .success, s.status 0 true ++ le 1 s.dram.speed ++ le 1 speed.toNat))

/-- C1C5h Set Bank Hash Masks: from the next bring-up on (R231, R232). -/
def execSetBankHashMasks (p : Path) (m0 m1 m2 : BitVec 64) (s : State) : Host.Outcome State Fault Refusal :=
  done (s.privileged (.setBankHashMasks p m0 m1 m2) p 0xC1C5 fun s =>
    if !(maskValid 0 m0.toNat && maskValid 1 m1.toNat && maskValid 2 m2.toNat) then refuse s .invalidInput
    else
      let s := s.onDram fun d => { d with masksPending := [m0.toNat, m1.toNat, m2.toNat] }
      (s, .success, s.status 0 true))

/-- C1C6h Get Address Map (R230, R231, R261). -/
def execGetAddressMap (p : Path) (slot : BitVec 64) (s : State) : Host.Outcome State Fault Refusal :=
  done (s.command (.getAddressMap p slot) p 0xC1C6 fun s =>
    let a := slot.toNat % 2 ^ 35
    if s.small && bitAt a 27 then refuse s .invalidInput
    else
      let masks (l : List Nat) : List Byte := l.flatMap fun m => le 8 m
      (s, .success,
        le 2 0 ++ le 1 (slotChannel a) ++ le 1 (slotRank a + 2 * slotBank s.dram.masks a) ++ le 4 (slotRow a) ++ le 2 (32 * (a % 32))
          ++ zeros 6 ++ le 8 (checkSlot a) ++ masks s.dram.masks ++ masks s.dram.masksPending))

/-- C1C7h Retrain Channel (R245, R247, R249): kind 1 takes its turn; kind 2 waits for a calibration of each rank. -/
def execRetrainChannel (p : Path) (ch kind : BitVec 8) (s : State) : Host.Outcome State Fault Refusal :=
  done (s.privilegedBackground (.retrainChannel p ch kind) p 0xC1C7 fun s =>
    let n := ch.toNat
    let k := s.channelCode n
    if 127 < n ∨ (kind.toNat ≠ 1 ∧ kind.toNat ≠ 2) ∨ k = 5 ∨ k = 6 ∨ k = 0 then (s, some .invalidInput)
    else if (s.channel n).asleep then
      let s := if kind.toNat = 1 then (s.onChannel n fun c => { c with wantsTurn := true }).wantTurn n
        else s.onChannel n fun c => { c with zqWanted := 2 }
      (s.finishBackground (some p) 0xC1C7 .success (le 2 1 ++ le 2 (s.channel n).drift.toNat ++ zeros 4), none)
    else
      let s := s.onDram fun d => { d with commands := d.commands ++ [(n, kind.toNat, p)] }
      if kind.toNat = 1 then ((s.onChannel n fun c => { c with wantsTurn := true }).wantTurn n, none)
      else (s.onChannel n fun c => { c with zqWanted := 2 }, none))

end Sys2Proof.Machine
end

