-- ==== Sys2Proof/Machine/Sparing.lean ====
section
/-! DEFINITION. The commands of chapter 08 (spec/08_codes_scrub_sparing.md): stripe rebuilds and locks, re-reads, retirement
moves, the patrol and range scrubs, and commands C200h to C208h. -/

namespace Sys2Proof.Machine

/-! ## Stripes and re-reads -/

/-- STRIPE_REBUILD (R250, R267): the first slot of the channel that a fetch needs from its stripe. A light-coded slot handed
over is lost; a held lock is waited for (R266). -/
def execStripeRebuild (ch : ChannelId) (s : State) : Host.Outcome State Fault Refusal :=
  match (s.channel ch.toNat).rebuilds with
  | [] => done s
  | x :: rest =>
    let popped := s.onChannel ch.toNat fun c => { c with rebuilds := rest }
    match s.fetch x.fetch with
    | none => done popped
    | some f =>
      let (r, k) := f.place x.index
      let rid := match f.reads with
        | q :: _ => q.rid.toNat
        | [] => 0xFFFF
      if !f.batten.strong then done ((popped.setSlot x.fetch x.index .bad).settleFetch x.fetch)
      else if s.stripeBusy r (k / 8) then done s
      else
        let (s, d) := popped.rebuildMember r (k / 8) (k % 8) x.cause 1 rid
        let got : SlotResult := match d with
          | some d => .good d
          | none => .bad
        done ((s.setSlot x.fetch x.index got).settleFetch x.fetch)

/-- STRIPE_LOCK_GRANT (R266): the requests that wait for stripe locks are tried again in issue order. -/
def execStripeLockGrant (s : State) : Host.Outcome State Fault Refusal := done ((s.retry (· == .lock)).retryGathers)

/-- REREAD_CLASSIFY (R271): an awake channel's queue runs through its first re-read. -/
def execRereadClassify (ch : ChannelId) (s : State) : Host.Outcome State Fault Refusal :=
  let n := ch.toNat
  let isReread (e : QueueEntry) : Bool := match e with | .reread _ _ _ _ => true | _ => false
  done (match (s.channel n).queue.findIdx? isReread with
    | some i => if s.executes n then s.execMany n (i + 1) else s
    | none => s)

/-! ## Retirement moves -/

/-- RETIREMENT_MOVES_RESUME (R286): deferred moves go on once F reaches the exit mark of stage 3, 4 %. -/
def execRetirementMovesResume (s : State) : Host.Outcome State Fault Refusal :=
  if s.free * 1000 < 40 * s.pressureCapacity then done s
  else
    let rs := s.spare.deferred
    let s := s.onSpare fun p => { p with deferred := [], moving := p.moving ++ rs.map fun r => (r, none, 0, 0) }
    done (foldState (fun s r => foldState (fun s b => s.wantRebuild b .retirement none) s (s.leftOn r).2) s rs)

/-! ## Scrubbing -/

/-- What a scrub makes of a raw or tiled course whose main run reads as `xs` (R274, R275): each tile with a lost slot is
poisoned: the line of a raw slot, all four lines of a coded tile, whose reservation counts as occupied since a scrub
decrypts nothing. -/
def State.scrubTiles (s : State) (c : Nat) (b : Batten) (xs : List (Option (List Byte))) (source : Nat) : State :=
  (foldState (fun s t =>
    let (first, n) := b.tileSlots t
    let lost := (List.range n).filter fun i => (xs.getD (first + i) none).isNone
    if lost.isEmpty then s
    else
      let mask := if b.plainForm t then (lost.map fun i => 2 ^ i).sum else 15
      (s.badTileSlots c mask source 0xFFFF (lost.map fun i => b.run.slot (first + i))).poisonLines c t mask) s allTiles).syncPoison c

/-- Read the overflow runs of a Phioz course (R123); a lost slot poisons its tile. -/
def State.scrubOverflow (s : State) (c : Nat) (b : Batten) (source : Nat) : State :=
  foldState (fun s (o : Nat × Run) =>
    let (s, xs) := s.readRun o.2 source 0xFFFF
    let lost := (List.range o.2.len).filter fun i => (xs.getD i none).isNone
    if lost.isEmpty then s
    else ((s.badTileSlots c 15 source 0xFFFF (lost.map o.2.slot)).poisonLines c o.1 15).syncPoison c) s (s.overflowRuns c b)

/-- A scrub reads every stored slot of a course; a thatched bundle with a lost slot is promoted at once (R274). -/
def State.scrubCourse (s : State) (c : Nat) (b : Batten) (source : Nat) : State :=
  let (s, xs) := s.readRun b.run source 0xFFFF
  if b.tier = .thatched then (if xs.all Option.isSome then s else s.promoteNow (c / 4) c false)
  else (s.scrubTiles c b xs source).scrubOverflow c b source

/-- Stored slots of a course, check members included. -/
def State.storedSlots (s : State) (c : Nat) (b : Batten) : Nat := ((s.runsOf c b).map fun r => r.members.length).sum

/-- The channels that hold a course's stored slots. -/
def State.storedOn (s : State) (c : Nat) (b : Batten) : List Nat :=
  ((s.runsOf c b).flatMap fun r => r.members.map slotChannel).eraseDups

/-- Is the lap still younger than its target (R276)? -/
def State.lapYoung (s : State) : Bool := decide (secOf (s.clock - s.spare.lapStart) < 60 * s.spare.targetMin)

/-- The patrol reads a course where its channels let it: each queue empty, each buffer at 8 entries or fewer (R275). -/
def State.patrolCourse (s : State) (c : Nat) (b : Batten) (next : Sparing → Sparing) : State :=
  let chs := s.storedOn c b
  if !chs.all fun ch => (s.channel ch).queue.isEmpty && decide ((s.channel ch).buffer.length ≤ 8) then s
  else
    let before := s.spare
    let n := s.storedSlots c b
    let s := s.scrubCourse c b 2
    s.onSpare fun p =>
      next { p with
        patrolSlots := p.patrolSlots + n
        lapCorrected := p.lapCorrected + (p.corrections - before.corrections)
        lapBad := p.lapBad + (p.uncorrectable - before.uncorrectable) }

/-- Does any channel of a course sleep? -/
def State.sleepsOn (s : State) (c : Nat) (b : Batten) : Bool := (s.storedOn c b).any fun ch => (s.channel ch).asleep

/-- The batten table runs of the bound blocks are read (R78, R275): their contents matter where a slot holds an error. -/
def State.patrolTables (s : State) : State :=
  foldState (fun s slot =>
    match s.xlat.dir.find? fun e => e.2.st != .unassigned && (tableRuns e.2.base.toNat e.2.strong).any fun r => r.members.contains slot with
    | none => s
    | some e =>
      match (List.range 16384).find? fun k => tableSlot e.2 (4 * k) == slot with
      | some k => s.readTableSlot (e.1 * blockCourses + 4 * k) 2
      | none => s) s (Sparse.keys s.xlat.tableErrors)

/-- The end of a patrol lap (R276): event 080Ch. -/
def State.endLap (s : State) : State :=
  let lap := secOf (s.clock - s.spare.lapStart)
  let s := s.raiseAll 0x080C .informational (le 4 lap ++ le 4 s.spare.lapCorrected ++ le 4 s.spare.lapBad)
  s.onSpare fun p =>
    { p with
      position := 0, lapStart := s.clock, lastLap := lap, overdue := false, patrolSlots := 0, lapCorrected := 0, lapBad := 0 }

/-- The next step of the patrol (R275, R276): the next course in order, then the skipped ones, then the tables and the end of the
lap. A young lap leaves sleeping channels asleep. -/
def State.patrolStep (s : State) : State :=
  let live := s.allLive.filter fun x => (s.dirOf (x.1 / blockCourses)).st == .bound
  let ahead := (live.filter fun x => decide (s.spare.position ≤ x.1)).foldl (fun (m : Option (Nat × Batten)) x =>
    match m with
    | some y => if x.1 < y.1 then some x else some y
    | none => some x) none
  match ahead with
  | some (c, b) =>
    if s.lapYoung && s.sleepsOn c b then s.onSpare fun p => { p with skipped := p.skipped ++ [c], position := c + 1 }
    else s.patrolCourse c b fun p => { p with position := c + 1 }
  | none =>
    match s.spare.skipped with
    | c :: rest =>
      match live.find? fun x => x.1 == c with
      | none => s.onSpare fun p => { p with skipped := rest }
      | some (c, b) =>
        if s.lapYoung && s.sleepsOn c b then s.onSpare fun p => { p with skipped := rest ++ [c] }
        else s.patrolCourse c b fun p => { p with skipped := rest }
    | [] => s.patrolTables.endLap

/-- PATROL_READ: in Active, with the patrol enabled and PATROL set (R275, R276, R397). -/
def execPatrolRead (s : State) : Host.Outcome State Fault Refusal :=
  done (if s.eaves.st == .active && s.spare.patrol && s.ready rdyPatrol then s.patrolStep else s)

/-- PATROL_LAP_OVERDUE (R276): the lap has lasted twice its target; event 080Dh, once a lap. -/
def execPatrolLapOverdue (s : State) : Host.Outcome State Fault Refusal :=
  if s.spare.overdue then done s
  else
    let s := s.onSpare fun p => { p with overdue := true }
    done (s.raiseAll 0x080D .warning (le 4 (secOf (s.clock - s.spare.lapStart)) ++ le 4 s.spare.targetMin))

/-! ## Range scrubs -/

/-- The opcode of Start Range Scrub. -/
abbrev opRangeScrub : Nat := 0xC202

/-- A range scrub ends (R43, R277, R377): event 080Eh to its logical device, and its counts. -/
def State.endScrub (s : State) (l : LdId) (x : RangeScrub) (rc : ReturnCode) : State :=
  let s := s.onSpare fun p => { p with scrubs := Sparse.erase p.scrubs l.toNat }
  let s := s.raise 0x080E .informational 0xFFFF (le 8 x.slots ++ le 4 x.corrected ++ le 4 x.bad ++ le 4 x.rows) [l]
  s.finishBackground x.path opRangeScrub rc
    (le 2 0 ++ zeros 2 ++ le 8 x.slots ++ le 8 x.corrected ++ le 8 x.bad ++ le 4 x.rows ++ le 4 x.failures ++ le 4 x.absent)

/-- Deep checks of a course (R277): the tile checks of its coded tiles, or the course checks of its bundle, which is promoted
where one fails. The failures. -/
def State.deepScrub (s : State) (c : Nat) (b : Batten) : State × Nat :=
  if b.tier = .thatched then
    let (s, rs) := s.decodeThatched (c / 4 * 4) b 0xFFFF 3
    let bad := (List.range 4).filter fun i =>
      let x := s.view (c / 4 * 4 + i)
      x.tier == .thatched && x.base == b.base && (match rs.getD i (.lost 2) with | .good _ => false | .lost _ => true)
    if bad.isEmpty then (s, 0) else (s.promoteNow (c / 4) c false, bad.length)
  else
    (allTiles.filter fun t => !b.plainForm t).foldl (fun (x : State × Nat) t =>
      let (s, r) := x.1.readTile c b t 3 0xFFFF
      if r.bad = 0 then (s, x.2) else ((s.poisonLines c t r.bad).syncPoison c, x.2 + 1)) (s, 0)

/-- Does an earlier course of the scrub's range lie in the same bundle, so that the bundle has been read (R277)? -/
def State.bundleRead (s : State) (x : RangeScrub) (c : Nat) (b : Batten) : Bool :=
  b.tier == .thatched && (List.range (c % 4)).any fun i =>
    let k := c % 4 - i
    let y := s.view (c - k)
    y.tier == .thatched && y.base == b.base && decide (x.total - x.courses ≥ k)

/-- RANGE_SCRUB_STEP (R277): the next course of a logical device's range scrub. -/
def execRangeScrubStep (ld : LdId) (s : State) : Host.Outcome State Fault Refusal :=
  match Sparse.find s.spare.scrubs ld.toNat with
  | none => done s
  | some x =>
    if s.abortWanted x.path opRangeScrub then done (s.endScrub ld x .aborted)
    else
      let before := s.spare
      let put (s : State) (y : RangeScrub) : State :=
        let y := { y with
          dpa := x.dpa + courseBytes, courses := x.courses - 1
          corrected := y.corrected + (s.spare.corrections - before.corrections)
          bad := y.bad + (s.spare.uncorrectable - before.uncorrectable)
          rows := y.rows + (s.spare.fencedRows.length - before.fencedRows.length) }
        let s := s.onSpare fun p => { p with scrubs := Sparse.insert p.scrubs ld.toNat y }
        let s := s.progress y.path opRangeScrub ((y.total - y.courses) * 100 / max 1 y.total)
        if y.courses = 0 then s.endScrub ld y .success else s
      match s.courseOf ld x.dpa with
      | none => done (put s { x with absent := x.absent + 1 })
      | some c =>
        let s := s.loadBatten c 3
        let b := s.view c
        if b.tier = .absent then done (put s { x with absent := x.absent + 1 })
        else if s.bundleRead x c b then done (put s x)
        else
          let n := s.storedSlots c b
          let s := s.scrubCourse c b 3
          let b := s.view c
          let (s, k) := if x.deep then s.deepScrub c b else (s, 0)
          done (put s { x with slots := x.slots + n, failures := x.failures + k })

/-! ## Commands -/

/-- C200h Get Code Status. -/
def execGetCodeStatus (p : Path) (s : State) : Host.Outcome State Fault Refusal :=
  done (s.command (.getCodeStatus p) p 0xC200 fun s =>
    let x := s.spare
    (s, .success,
      le 2 0 ++ le 1 (b2n x.patrol + 2 * b2n (!s.lapYoung) + 4 * b2n s.strongReady) ++ zeros 1 ++ le 4 x.lastLap
        ++ le 4 (secOf (s.clock - x.lapStart)) ++ le 4 x.targetMin ++ le 8 x.patrolSlots ++ le 8 x.corrections ++ le 8 x.transients
        ++ le 8 x.hardSingle ++ le 8 x.hardMulti ++ le 8 x.uncorrectable ++ le 8 x.rebuilt ++ le 8 x.mismatches ++ le 8 x.unclassified
        ++ le 2 ((s.dram.channels.map fun c => c.2.holds.length).sum) ++ zeros 2))

/-- Is a channel retired for C201h: on the list, or fenced at training (R244, R280)? -/
def State.retiredNow (s : State) (ch : Nat) : Bool := s.chRetired ch || (s.channel ch).fenced

/-- Live slots, in MiB, on the storage of some decisions. -/
def State.awaiting (s : State) (rs : List Retirement) : Nat :=
  (s.allLive.map fun x => (x.2.run.members.filter fun a => rs.any fun r => r.covers s.dram.masks a).length).sum / 16384

/-- C201h Get Spare Status. -/
def execGetSpareStatus (p : Path) (s : State) : Host.Outcome State Fault Refusal :=
  done (s.command (.getSpareStatus p) p 0xC201 fun s =>
    let x := s.spare
    (s, .success,
      le 2 0 ++ le 1 (b2n x.hold) ++ zeros 1 ++ le 4 s.reserveMiB ++ le 4 (s.charges / 16384) ++ le 4 (s.inHand / 16384)
        ++ le 4 (s.overshoot / 16384) ++ le 4 x.fencedRows.length ++ le 4 x.rowsAwaiting.length ++ le 2 x.ranks.length
        ++ le 2 ((List.range 128).filter s.retiredNow).length ++ le 4 (s.awaiting (x.moving.map (·.1) ++ x.deferred))
        ++ le 4 (s.awaiting x.deferred) ++ le 16 (maskOf 128 s.retiredNow)))

/-- C202h Start Range Scrub. -/
def execStartRangeScrub (p : Path) (dpa : BitVec 64) (courses : BitVec 32) (deep : Bool) (share : BitVec 8) (s : State) : Host.Outcome State Fault Refusal :=
  done (s.background (.startRangeScrub p dpa courses deep share) p opRangeScrub fun s =>
    let l := s.issuing p
    if !s.rangeOk l dpa.toNat courses.toNat || decide (50 < share.toNat) then (s, some .invalidInput)
    else if (Sparse.find s.spare.scrubs l.toNat).isSome then (s, some .busy)
    else
      let x : RangeScrub :=
        { path := some p, dpa := dpa.toNat, courses := courses.toNat, total := courses.toNat, deep
          share := if share.toNat = 0 then 10 else share.toNat }
      (s.onSpare fun q => { q with scrubs := Sparse.insert q.scrubs l.toNat x }, none))

/-- The first lap begins, or the first since the patrol was enabled again: PATROL sets (R276, R397, R398, R400). -/
def State.beginPatrol (s : State) : State :=
  if !s.spare.patrol || !s.ready rdySettled || s.ready rdyPatrol then s
  else
    let s := s.onSpare fun p =>
      { p with position := 0, skipped := [], lapStart := s.clock, overdue := false, patrolSlots := 0, lapCorrected := 0, lapBad := 0 }
    s.setReady rdyPatrol true

/-- C203h Set Patrol Policy; PATROL follows it (R398). -/
def execSetPatrolPolicy (p : Path) (enable : Bool) (minutes : BitVec 32) (s : State) : Host.Outcome State Fault Refusal :=
  done (s.privileged (.setPatrolPolicy p enable minutes) p 0xC203 fun s =>
    if minutes.toNat < 60 ∨ 43200 < minutes.toNat then refuse s .invalidInput
    else
      let s := s.onSpare fun x => { x with patrol := enable, targetMin := minutes.toNat }
      let s := if enable then s.beginPatrol else s.setReady rdyPatrol false
      (s, .success, s.status 0 true))

/-- A fault record as R279 lays it out. -/
def FaultRecord.toBytes (r : FaultRecord) : List Byte :=
  le 5 r.slot ++ le 1 r.cls ++ le 1 r.first ++ le 1 (r.count + 128 * b2n r.oneDie) ++ le 4 r.seconds ++ le 1 r.source ++ zeros 1
    ++ le 2 r.repeats

/-- C204h Get Fault Records. -/
def execGetFaultRecords (p : Path) (first : BitVec 32) (count : BitVec 16) (s : State) : Host.Outcome State Fault Refusal :=
  done (s.command (.getFaultRecords p first count) p 0xC204 fun s =>
    let x := s.spare
    let n := count.toNat
    let f := first.toNat
    if n < 1 ∨ 32 < n then refuse s .invalidInput
    else if f < x.ringBase then refuse s .invalidInput
    else
      let rs := (x.ring.drop (f - x.ringBase)).take n
      let newest := if x.ring.isEmpty then 0xFFFFFFFF else x.ringBase + x.ring.length - 1
      (s, .success, le 2 0 ++ le 2 rs.length ++ le 4 newest ++ zeros 8 ++ rs.flatMap FaultRecord.toBytes))

/-- Decisions that a changed policy finds due (R280). -/
def State.reviewFaults (s : State) : State :=
  let s := foldState (fun s (e : Nat × Nat) =>
    let row := e.1 % 2 ^ 19
    let bank := e.1 / 2 ^ 19 % 8
    let rank := e.1 / 2 ^ 22 % 2
    let ch := e.1 / 2 ^ 23
    if s.spare.rowThreshold ≤ e.2 && !Sparse.get false s.spare.fencedRows e.1 then s.judge (.row ch rank bank row) true else s)
    s s.spare.rowFaults
  let s := foldState (fun s die =>
    if s.spare.dieBanks ≤ s.dieBanksHit die && !s.rankRetired (die / 4) (die / 2 % 2) then
      s.judge (.rank (die / 4) (die / 2 % 2) 2) true
    else s) s ((s.spare.dieFaults.map fun x => x.1).eraseDups)
  foldState (fun s (e : Nat × Nat) =>
    if s.spare.rankRows ≤ e.2 && !s.rankRetired (e.1 / 2) (e.1 % 2) then s.judge (.rank (e.1 / 2) (e.1 % 2) 1) true else s)
    s s.spare.fencedSince

/-- C205h Set Retirement Policy: clearing the hold carries out the pending decisions in order (R284). -/
def execSetRetirementPolicy (p : Path) (rowThreshold dieBanks : BitVec 8) (rankRows : BitVec 16) (share : BitVec 8) (hold : Bool) (s : State) : Host.Outcome State Fault Refusal :=
  done (s.privileged (.setRetirementPolicy p rowThreshold dieBanks rankRows share hold) p 0xC205 fun s =>
    let r := rowThreshold.toNat
    let d := dieBanks.toNat
    let k := rankRows.toNat
    let h := share.toNat
    if r < 1 ∨ 8 < r ∨ d < 2 ∨ 8 < d ∨ k < 8 ∨ 4096 < k ∨ h < 5 ∨ 50 < h then refuse s .invalidInput
    else
      let s := s.onSpare fun x => { x with rowThreshold := r, dieBanks := d, rankRows := k, share := h, hold }
      let held := if hold then [] else s.spare.pending
      let s := if hold then s else s.onSpare fun x => { x with pending := [] }
      let s := (foldState (fun s x => s.retire x none true) s held).reviewFaults
      (s, .success, s.status 0 true))

/-- The storage that a retirement command names, where its fields are in range (C206h, C207h). -/
def State.namedStorage (s : State) (kind ch rank bank row : Nat) : Option Retirement :=
  if 127 < ch then none
  else
    match kind with
    | 1 => if rank ≤ 1 ∧ bank ≤ 7 ∧ row < (if s.small then 2 ^ 18 else 2 ^ 19) then some (.row ch rank bank row) else none
    | 2 => if rank ≤ 1 then some (.rank ch rank 4) else none
    | 3 => some (.channel ch 4)
    | _ => none

/-- C206h Retire Storage: a retirement is forced, whatever the hold (R284). -/
def execRetireStorage (p : Path) (kind ch rank bank : BitVec 8) (row : BitVec 32) (s : State) : Host.Outcome State Fault Refusal :=
  done (s.privilegedBackground (.retireStorage p kind ch rank bank row) p opRetireStorage fun s =>
    match s.namedStorage kind.toNat ch.toNat rank.toNat bank.toNat row.toNat with
    | none => (s, some .invalidInput)
    | some r => (s.retire r (some p) true, none))

/-- Does an entry of the persistent lists match a clear (R282)? -/
def Retirement.listed (s : State) (r : Retirement) : Bool :=
  match r with
  | .row ch rk bank line => Sparse.get false s.spare.fencedRows (rowKey ch rk bank line)
  | .rank ch rk _ => s.rankRetired ch rk
  | .channel ch _ => s.chRetired ch

/-- Every entry of the persistent lists, as clears. -/
def State.allRetired (s : State) : List Retirement :=
  (Sparse.keys s.spare.fencedRows).map (fun k => .row (k / 2 ^ 23) (k / 2 ^ 22 % 2) (k / 2 ^ 19 % 8) (k % 2 ^ 19))
    ++ (Sparse.keys s.spare.ranks).map (fun k => .rank (k / 2) (k % 2) 4)
    ++ (Sparse.keys s.spare.channels).map (fun k => .channel k 4)

/-- C207h Clear Retirement: from the next bring-up on. -/
def execClearRetirement (p : Path) (kind ch rank bank : BitVec 8) (row : BitVec 32) (s : State) : Host.Outcome State Fault Refusal :=
  done (s.privileged (.clearRetirement p kind ch rank bank row) p 0xC207 fun s =>
    let clear (rs : List Retirement) : State × ReturnCode × List Byte :=
      let new := rs.filter fun r => !s.spare.clears.contains r
      let s := s.onSpare fun x => { x with clears := x.clears ++ new }
      (s, .success, s.status (if new.isEmpty then 1 else 0) true ++ zeros 2 ++ le 4 new.length)
    if kind.toNat = 4 then clear s.allRetired
    else
      match s.namedStorage kind.toNat ch.toNat rank.toNat bank.toNat row.toNat with
      | none => refuse s .invalidInput
      | some r => clear (if r.listed s then [r] else []))

/-- The error pattern of an injection over the 68 bytes of a codeword. -/
def errorPattern (first n : Nat) (pattern : Byte) : List Byte := splice (zeros 68) first (List.replicate n pattern)

/-- XOR a pattern into a stored codeword: into the array, or onto a table slot, whose contents the table holds. -/
def State.corrupt (s : State) (slot : Nat) (e : List Byte) : State :=
  if (s.tablesOn (· == slot)).isEmpty then
    let s := (s.drainTo (slotChannel slot) 0)
    s.storeSlot slot (xorBytes (s.slotRaw slot) (slice e 0 64)) (xorBytes (s.checkRaw slot) (slice e 64 4))
  else
    let was := s.tableError slot
    let new := if was.isEmpty then e else xorBytes was e
    s.onXlat fun x => { x with tableErrors := Sparse.set [] x.tableErrors slot (if allZero new then [] else new) }

/-- C208h Inject Slot Error. -/
def execInjectSlotError (p : Path) (slot : BitVec 64) (count first : BitVec 8) (pattern : Byte) (s : State) : Host.Outcome State Fault Refusal :=
  done (s.privileged (.injectSlotError p slot count first pattern) p 0xC208 fun s =>
    let a := slot.toNat % 2 ^ 35
    let n := count.toNat
    if isCheckSlot a || decide (n < 1) || decide (4 < n) || decide (68 < first.toNat + n) || (s.small && bitAt a 27) || pattern == 0 then
      refuse s .invalidInput
    else (s.corrupt a (errorPattern first.toNat n pattern), .success, le 2 0))

end Sys2Proof.Machine
end

