-- ==== Sys2Proof/Machine/Regulation.lean ====
section
/-! DEFINITION. The commands of chapter 09 (spec/09_queues_and_regulation.md): landed requests, histograms, the interval of the
deliverable rate, urgency pins, and commands C240h to C246h. -/

namespace Sys2Proof.Machine

/-- LANDED_REQUEST_ENTER_STORE (R291): the oldest request that waits in the landing buffer enters the store. -/
def execLandedRequestEnterStore (s : State) : Host.Outcome State Fault Refusal :=
  match s.reg.landed with
  | [] => done s
  | r :: rest => done (if s.storeRoom s.reg.usedRafter then (s.onReg fun g => { g with landed := rest }).enqueue r else s)

/-! ## Histograms -/

/-- The depth bin of a number of requests (R308). -/
def depthBin (n : Nat) : Nat :=
  if 16384 ≤ n then 15 else ((List.range 15).filter fun k => decide (2 ^ k ≤ n)).length

/-- The delay bin of an age in hub cycles, of which 8 are 5 ns (R308). -/
def delayBin (age : Nat) : Nat :=
  if age * 5 < 20 * 8 then 1 else min 15 (1 + ((List.range 15).filter fun k => 1 ≤ k && decide (8 * 10 * 2 ^ k ≤ age * 5)).length)

/-- Add 1 to a bin, saturating at 32 bits. -/
def countBin (bins : List Nat) (k : Nat) : List Nat := bins.set k (min (bins.getD k 0 + 1) 0xFFFFFFFF)

/-- A sample of some queues: their depth, and the age of their oldest head. -/
def Histogram.sample (h : Histogram) (now : Nat) (qs : List Queue) : Histogram :=
  let heads := qs.filterMap fun q => (q.requests.head?).map fun r => now - r.arrived
  let age := heads.foldl max 0
  { depth := countBin h.depth (depthBin ((qs.map fun q => q.requests.length).sum))
    delay := countBin h.delay (if heads.isEmpty then 0 else delayBin age) }

/-- HISTOGRAM_SAMPLE (R308): every class, and every monitored queue. -/
def execHistogramSample (s : State) : Host.Outcome State Fault Refusal :=
  if !s.hubRuns then done s else
  let of (c : Nat) : List Queue := (s.reg.queues.filter fun q => q.1 % 64 == c).map fun q => q.2
  let s := foldState (fun s c => s.onReg fun g => { g with histograms := Sparse.modify {} g.histograms c fun h => h.sample s.clock (of c) })
    s (List.range 64)
  done (s.onReg fun g =>
    { g with monitors := g.monitors.map fun (m : Nat × Monitor) => (m.1, { m.2 with hist := m.2.hist.sample s.clock [s.queue m.2.queue] }) })

/-! ## The deliverable rate -/

/-- DELIVERABLE_RATE_INTERVAL (R302, R312, R347): an interval of 100 ms ends; one that ends in an
activation pause or in Drowse leaves D unchanged (R384, R418). -/
def execDeliverableRateInterval (s : State) : Host.Outcome State Fault Refusal :=
  let s := s.onLink fun l => { l with ports := Sparse.update {} l.ports fun _ p => { p with forwardedLast := p.forwardedNow, forwardedNow := 0 } }
  let s := s.onReg fun r => { r with queues := Sparse.update {} r.queues fun _ q => { q with writesBefore := q.writesNow, writesNow := 0 } }
  done (if s.purlin.paused || !s.hubRuns then s.onReg fun r => { r with interval := {} } else s.rateInterval)

/-! ## Urgency -/

/-- URGENCY_PIN_CHANGE (R305): the level of an input pair. -/
def execUrgencyPinChange (pair level : BitVec 2) (s : State) : Host.Outcome State Fault Refusal :=
  done (s.onReg fun r => { r with pins := Sparse.set 0 r.pins pair.toNat level })

/-! ## Commands -/

/-- C240h Get Regulation Status. -/
def execGetRegulationStatus (p : Path) (s : State) : Host.Outcome State Fault Refusal :=
  done (s.command (.getRegulationStatus p) p 0xC240 fun s =>
    let r := s.reg
    let x := r.rates
    let bursts := match x.terms with
      | some t => t.bursts * 100 / (t.reads + t.writes)
      | none => Config.noBursts.toNat
    (s, .success,
      le 2 0 ++ le 1 s.place.divisor ++ le 1 (b2n x.excess) ++ le 4 (rateField (x.d.map (· / 256))) ++ le 4 (rateField x.b)
        ++ le 4 (s.guarantees (fun c => decide (60 ≤ c)) / 256) ++ le 4 (s.guarantees (fun c => decide (c < 60)) / 256)
        ++ le 2 (x.sNum * 1000 / x.sDen) ++ le 1 (if x.d.isNone then Config.noLimit.toNat else x.limit) ++ zeros 1 ++ le 2 s.storeUsed
        ++ le 2 bursts ++ le 4 (s.cch / 400000) ++ le 8 r.issued ++ le 8 r.outOfProfile))

/-- Is a burst in range (R298, R299)? -/
def burstOk (b : BitVec 16) : Bool := decide (1 ≤ b.toNat) && decide (b.toNat ≤ 32767)

/-- A bucket that a command sets: full (R301). -/
def setBucket (on : Bool) (rate : BitVec 24) (burst : BitVec 16) (now : Nat) : Bucket :=
  Bucket.full { on, rate := rate.toNat, burst := burst.toNat } now

/-- C241h Set Queue Regulation; a throttled queue's shaper changes on exit from stage 3. -/
def execSetQueueRegulation (p : Path) (q : QueueReg) (s : State) : Host.Outcome State Fault Refusal :=
  done (s.privileged (.setQueueRegulation p q) p 0xC241 fun s =>
    if 63 < q.cls.toNat || !burstOk q.shaperBurst || !burstOk q.policerBurst then refuse s .invalidInput
    else
      let sh := setBucket q.shaperOn q.shaperRate q.shaperBurst s.clock
      let po := setBucket q.policerOn q.policerRate q.policerBurst s.clock
      let held := s.throttled q.cls.toNat
      let s := s.onQueue (q.rid.toNat * 64 + q.cls.toNat) fun x =>
        if held then { x with policer := po, later := some sh } else { x with policer := po, shaper := sh }
      (s, .success, le 2 0))

/-- Tokens as a record holds them, in 1/256 request, rounded down, in 24 bits. -/
def tokenField (b : Bucket) (now : Nat) : Nat := ((Int.fdiv (b.refill now).tokens 1600) % 16777216).toNat

/-- Does a queue stand in service (R292 byte 6 [4])? -/
def State.inService (s : State) (qn : Nat) (q : Queue) : Bool :=
  let c := qn % 64
  !q.requests.isEmpty &&
    (decide (60 ≤ c) || (if q.headOut then s.reg.weightedOut.active.contains c else s.reg.weightedIn.active.contains c))

/-- The record of a queue (R292). -/
def State.queueRecord (s : State) (qn : Nat) : List Byte :=
  let q := s.queue qn
  let sh := q.throttleShaper.getD q.shaper
  let edge (r : Option Request) : Nat := match r with
    | some r => r.entry
    | none => (Config.idleEntry qn).toNat
  le 2 (edge q.requests.head?) ++ le 2 (edge q.requests.getLast?) ++ le 2 q.requests.length
    ++ le 1 (b2n sh.on + 2 * b2n q.policer.on + 4 * b2n (s.throttled (qn % 64)) + 8 * b2n q.throttleShaper.isSome + 16 * b2n (s.inService qn q))
    ++ zeros 1 ++ le 3 sh.rate ++ le 2 sh.burst ++ le 3 (tokenField sh s.clock)
    ++ le 3 q.policer.rate ++ le 2 q.policer.burst ++ le 3 (tokenField q.policer s.clock)
    ++ le 4 (min q.writesNow 0xFFFFFFFF) ++ le 4 (min q.writesBefore 0xFFFFFFFF)

/-- C242h Get Queue. -/
def execGetQueue (p : Path) (rid : BitVec 12) (cls : BitVec 8) (s : State) : Host.Outcome State Fault Refusal :=
  done (s.command (.getQueue p rid cls) p 0xC242 fun s =>
    if 63 < cls.toNat || !s.ownsRid p rid.toNat then refuse s .invalidInput
    else (s, .success, le 2 0 ++ zeros 2 ++ s.queueRecord (rid.toNat * 64 + cls.toNat)))

/-- C243h Set Class Regulation; the weight of a strict class is ignored. -/
def execSetClassRegulation (p : Path) (cls weight : BitVec 8) (on : Bool) (rate : BitVec 24) (burst : BitVec 16) (s : State) : Host.Outcome State Fault Refusal :=
  done (s.privileged (.setClassRegulation p cls weight on rate burst) p 0xC243 fun s =>
    let c := cls.toNat
    if 63 < c || !burstOk burst || (decide (c < 60) && weight == 0) then refuse s .invalidInput
    else
      let b := setBucket on rate burst s.clock
      let s := s.onClass c fun x => { x with weight := if c < 60 then weight.toNat else x.weight, shaper := b }
      (s, .success, s.status 0 true))

/-- C244h Set Class Guarantee (R313, R315): event 0903h where it is admitted. -/
def execSetClassGuarantee (p : Path) (cls : BitVec 8) (guarantee : BitVec 24) (burst : BitVec 16) (s : State) : Host.Outcome State Fault Refusal :=
  done (s.privileged (.setClassGuarantee p cls guarantee burst) p 0xC244 fun s =>
    let c := cls.toNat
    if 63 < c || !burstOk burst then refuse s .invalidInput
    else
      let old := (s.classRow c).guarantee
      let new := guarantee.toNat
      let sum := s.guarantees (fun _ => true) - old + new
      let fits := match s.reg.rates.b with
        | some b => decide (sum ≤ 256 * b)
        | none => true
      let b := s.reg.rates.b
      if decide (old < new) && !fits then
        (s, .success, le 2 1 ++ zeros 2 ++ le 4 (rateField b) ++ le 4 (s.guarantees (fun _ => true) / 256))
      else
        let s := s.onClass c fun x => { x with guarantee := new }
        let s := s.scaleGuarantees
        let x := s.reg.rates
        let eff := if 60 ≤ c then new else new * x.sNum / x.sDen
        let s := s.onClass c fun r =>
          { r with effective := eff, policer := Bucket.full { on := true, rate := eff, burst := burst.toNat } s.clock }
        let s := s.raiseAll 0x0903 .informational (le 1 c ++ le 4 old ++ le 4 new ++ le 4 (rateField (b.map (· * 256))))
        (s, .success, s.status 0 true ++ zeros 2 ++ le 4 (rateField b) ++ le 4 (sum / 256)))

/-- C245h Set Urgency Source: kind 1 binds a pin pair, 2 sets a ceiling, 3 a class map. -/
def execSetUrgencySource (p : Path) (kind index : BitVec 8) (rid : BitVec 16) (map : BitVec 24) (s : State) : Host.Outcome State Fault Refusal :=
  done (s.privileged (.setUrgencySource p kind index rid map) p 0xC245 fun s =>
    let i := index.toNat
    let r := rid.toNat
    match kind.toNat with
    | 1 =>
      if 3 < i ∨ (4095 < r ∧ r ≠ 0xFFFF) then refuse s .invalidInput
      else
        let s := s.onReg fun g =>
          { g with pinBound := if r = 0xFFFF then Sparse.erase g.pinBound i else Sparse.insert g.pinBound i r }
        (s, .success, s.status 0 true)
    | 2 =>
      if 63 < i ∨ 4095 < r then refuse s .invalidInput
      else
        let s := s.onReg fun g => { g with ceilings := Sparse.set 59 g.ceilings r i }
        (s, .success, s.status 0 true)
    | 3 =>
      let a := bits map.toNat 7 0
      let b := bits map.toNat 15 8
      let c := bits map.toNat 23 16
      if 63 < i ∨ a < i ∨ b < a ∨ c < b ∨ 63 < c then refuse s .invalidInput
      else
        let s := s.onClass i fun x => { x with map := some (a, b, c) }
        (s, .success, s.status 0 true)
    | _ => refuse s .invalidInput)

/-- May a path free or rebind a monitor slot (C246h)? A logical device, only a slot that it bound or that is free. -/
def State.mayRebind (s : State) (p : Path) (slot : Nat) : Bool :=
  match Sparse.find s.reg.monitors slot with
  | none => true
  | some m => Path.privileged p || m.owner == some (s.issuing p)

/-- C246h Set Histogram Monitor. -/
def execSetHistogramMonitor (p : Path) (slot : BitVec 16) (action cls : BitVec 8) (rid : BitVec 12) (us : BitVec 32) (s : State) : Host.Outcome State Fault Refusal :=
  done (s.command (.setHistogramMonitor p slot action cls rid us) p 0xC246 fun s =>
    let n := slot.toNat
    let bind := action.toNat = 1
    if 1023 < n ∨ 1 < action.toNat ∨ 63 < cls.toNat ∨ 1000000 < us.toNat then refuse s .invalidInput
    else if !s.mayRebind p n || (bind && !s.ownsRid p rid.toNat) then refuse s .invalidInput
    else
      let owner := if Path.privileged p then none else some (s.issuing p)
      let m : Monitor := { queue := rid.toNat * 64 + cls.toNat, owner }
      let s := s.onReg fun g =>
        { g with
          monitors := if bind then Sparse.insert g.monitors n m else Sparse.erase g.monitors n
          sampleUs := if us.toNat = 0 then g.sampleUs else us.toNat }
      (s, .success, le 2 0 ++ zeros 2 ++ le 4 s.reg.sampleUs))

end Sys2Proof.Machine
end

