-- ==== Sys2Proof/Machine/RafterOps.lean ====
section
/-! DEFINITION. The hop layer and the receiving side of the transport (spec/10_rafter_link.md): hop loss and failover (R322,
R344), landing, forwarding and drops (R326 to R329), the receive window (R336), acknowledgement and credits (R337 to R339),
pair sync (R342), the outcome of a tag failure (R223), replays (R341). -/

namespace Sys2Proof.Machine

/-! ## Acknowledgement and credits -/

/-- Is sequence `a` at or before `b`, modulo 2^32? -/
def seqLe (a b : Nat) : Bool := decide ((b + 2 ^ 32 - a) % 2 ^ 32 < 2 ^ 31)

/-- Has a pair entries sent and not acknowledged? -/
def Peer.unacked (p : Peer) : Bool := p.held.any fun h => h.sent && !h.acked

/-- The sequence of the request that a response packet answers. -/
def SentFor.answers : SentFor → Option Nat
  | .response n => some n
  | _ => none

/-- A cumulative ack (R337, R339): entries up to `n` are acknowledged; those that are no requests retire, and a request they
answer is closed (R336). -/
def Peer.ackUpTo (p : Peer) (n : Nat) : Peer :=
  let covered (h : Held) : Bool := h.sent && seqLe h.seq n
  let closed := (p.held.filter covered).filterMap fun h => h.what.answers
  { p with
    held := (p.held.filter fun h => !(covered h && !h.credit)).map fun h => if covered h then { h with acked := true } else h
    lastAck := if seqLe p.lastAck n then n else p.lastAck
    window := closed.foldl (fun w q => Sparse.erase w q) p.window }

/-- An epoch change waits until every pair is acknowledged; then every pair synchronises anew (R335). -/
def State.changeEpoch (s : State) : State :=
  if s.link.epochPending && !(s.link.peers.any fun p => p.2.unacked) then
    let s := s.onLink fun l =>
      { l with epoch := l.epoch + 1, epochPending := false,
               peers := Sparse.update {} l.peers fun _ p => { p with wraps := 0, unseqWraps := 0 } }
    foldState State.announce s ((s.link.peers.filter fun p => p.2.st != .none).map (·.1))
  else s

/-- After an acknowledgement (R335, R344): a pair with nothing unacknowledged returns to its primary hop; what the queue allows
goes. -/
def State.settlePair (s : State) (d : Nat) : State :=
  let p := s.peer d
  let s := if p.viaAlternate && s.hopUp (routePrimary (s.route d)) && !p.unacked
    then s.onPeer d fun p => { p with viaAlternate := false, returning := false } else s
  s.changeEpoch.pump d

/-- A credit naming a sequence (R338, R339): the entry is purged, its credit returns, and everything up to it is acknowledged.
The entry, if the pair still held it. -/
def State.creditFor (s : State) (d n : Nat) : State × Option Held :=
  let mine (h : Held) : Bool := h.sent && h.credit && h.seq == n
  match (s.peer d).held.find? mine with
  | none => (s, none)
  | some h =>
    (s.onPeer d fun p => ({ p with held := p.held.filter (fun h => !mine h), taken := p.taken - 1 } : Peer).ackUpTo n, some h)

/-- The ack field of a packet. -/
def State.ackField (s : State) (d : Nat) (h : Header) : State :=
  if h.ackValid then s.onPeer d (·.ackUpTo h.ack) else s

/-! ## Drops and forwarding -/

/-- The hub die receives packets: the sled is Active or in Drowse (R417). -/
def State.awake (s : State) : Bool := s.eaves.st == .active || s.eaves.st == .drowse

/-- A packet dropped by the hop layer (R326, R328). -/
def State.dropPacket (s : State) (p cause : Nat) : State :=
  (s.onRport p fun x => { x with dropped := x.dropped + 1 }).raiseLimited 0x0A05 p .warning 0xFFFF
    (le 1 p ++ le 1 cause ++ zeros 4) [(2, 4)] [1] s.lds

/-- Bytes of a port's forwarded packets that lie in the gutter, and of those that lie in the landing buffer. -/
def RafterLink.spilled (x : RafterLink) : Nat := ((x.egress.filter (·.spilled)).map fun f => f.bytes.length).sum
/-- The forwarded packets of a port in the landing buffer. -/
def RafterLink.kept (x : RafterLink) : Nat := ((x.egress.filter fun f => !f.spilled).map fun f => f.bytes.length).sum

/-- The length of a request packet (R331). -/
def Request.packetLength (r : Request) : Nat := match r.kind with | .read => 48 | .write => 112 | .partialWrite => 128

/-- Bytes in the landing buffer (R326, R328): packets to forward and packets that wait for the request store. -/
def State.landing (s : State) : Nat :=
  ((List.range 4).map fun p => (s.rport p).kept).sum + (s.reg.landed.map (·.packetLength)).sum
/-- Bytes in the forwarding part of the gutter. -/
def State.gutter (s : State) : Nat := ((List.range 4).map fun p => (s.rport p).spilled).sum

/-- Take the first spilled packet of a queue back. -/
def refillFirst : List Forwarded → List Forwarded
  | [] => []
  | f :: rest => if f.spilled then { f with spilled := false } :: rest else f :: refillFirst rest

/-- Refill a port's queue from the gutter, in order, while the landing buffer holds at most 3 MiB (R328). -/
def State.refillPort (s : State) (p : Nat) : Nat → State
  | 0 => s
  | n + 1 =>
    match (s.rport p).egress.find? (·.spilled) with
    | none => s
    | some f =>
      if s.landing + f.bytes.length ≤ 3 * 2 ^ 20 then
        (s.onRport p fun x => { x with egress := refillFirst x.egress }).refillPort p n
      else s

/-- Refill every port's queue. -/
def State.refillGutter (s : State) : State := foldState (fun s p => s.refillPort p (s.rport p).egress.length) s (List.range 4)

/-- Queue a packet for forwarding (R326 to R328): hops left less one, the header check anew; its tail spills where the landing
buffer holds more than 3 MiB. `p` is the port it came in on. -/
def State.forward (s : State) (p : Nat) (packet : List Byte) : State :=
  let h := Header.ofBytes packet
  let b := splice packet 1 [BitVec.ofNat 8 (setBits (fieldLe packet 1 1) 5 0 (h.hops - 1))]
  let b := splice b 30 (le 2 (Crypto.crc16 (slice b 0 30)).toNat)
  let q := s.forwardPort h.dst
  let spilled := decide (3 * 2 ^ 20 < s.landing + b.length) || (s.rport q).egress.any (·.spilled)
  if spilled && decide (768 * 2 ^ 20 < s.gutter + b.length) then s.dropPacket p 4
  else
    let s := s.onRport p fun x =>
      { x with forwarded := x.forwarded + 1, forwardedNow := x.forwardedNow + b.length }
    s.onRport q fun x => { x with egress := x.egress ++ [{ bytes := b, since := s.clock, spilled }] }

/-! ## The receive window -/

/-- Ask a sender for its pair (R336, R342). -/
def State.requestSync (s : State) (d : Nat) : State :=
  s.sendUnsequenced d 7 (le 8 (Config.syncRequest d).toNat ++ le 1 4 ++ zeros 7)

/-- A packet of a pair dropped by the window. -/
def State.dropOfPair (s : State) (d : Nat) : State := s.onPeer d fun p => { p with drops := p.drops + 1 }

/-- Send again, bit for bit, the response of a request that has executed (R336). -/
def State.resend (s : State) (d n : Nat) : State :=
  match (s.peer d).held.find? fun h => h.sent && h.what == .response n with
  | none => s.dropOfPair d
  | some h => (s.onPeer d fun p => { p with resent := p.resent + 1 }).transmit d h.packet

/-- The receive window (R336): a sequenced packet of a pair is taken (the flag), or dropped, or answered again. -/
def State.takeSeq (s : State) (d n : Nat) : State × Bool :=
  let p := s.peer d
  if !p.hasRecv then ((s.dropOfPair d).requestSync d, false)
  else if n = p.expect then
    let e := (n + 1) % 2 ^ 32
    (s.onPeer d fun p =>
      { (p.setSeq n .accepted) with
        expect := e
        recvWraps := p.recvWraps + b2n (decide (e = 0))
        ackDue := true
        window := Sparse.erase (Sparse.insert p.window n .accepted) ((e + 2 ^ 32 - 4097) % 2 ^ 32) }, true)
  else
    let back := (p.expect + 2 ^ 32 - n) % 2 ^ 32
    if back ≤ 4096 then
      let s := s.onPeer d fun p => { p with duplicates := p.duplicates + 1 }
      if p.seqState n = .held then (s.resend d n, false) else (s.dropOfPair d, false)
    else (s.dropOfPair d, false)

/-! ## Taking packets -/

/-- Open a packet's payload (R220, R332); none on a tag failure. -/
def State.openPacket (s : State) (h : Header) (unsequenced : Bool) (epoch wraps : Nat) (packet : List Byte) : Option (List Byte) :=
  let key := s.linkKey h.keyId
  if key.isEmpty then none
  else Crypto.gcmOpen key (packetIv h.src h.dst h.keyId (wrapField unsequenced epoch wraps) h.seq) (headerAad packet) (packet.drop 32)

/-- Event 0607h (R223): kind 1 read request, 2 write request, 3 response, 4 control. -/
def State.tagFailure (s : State) (h : Header) (kind : Nat) : State :=
  (s.onFlash fun f => { f with tagFailures := f.tagFailures + 1 }).raiseAll 0x0607 .warning
    (le 2 h.src ++ le 4 h.seq ++ le 1 h.keyId ++ le 1 kind)

/-- The request that a packet carries (R289, R303, R330, R333, R334): its context's class, without a look at its owner. -/
def State.packetRequest (s : State) (h : Header) (payload : List Byte) : Request :=
  let rid := if h.fabric then h.rid else 0xC00 + h.src
  let base := (s.ctx h.ctx).cls
  let u := max h.urgency (s.urgencyOf rid)
  let line := h.line % 64
  { kind := if h.kind = 1 then .read else if h.enables then .partialWrite else .write
    origin := .rafter (BitVec.ofNat 10 h.src) (BitVec.ofNat 32 h.seq) 0
    rid := BitVec.ofNat 16 rid
    ctx := BitVec.ofNat 13 h.ctx
    base
    cls := BitVec.ofNat 6 (s.effClass rid base.toNat u)
    line
    course := h.line / 64 % 2 ^ 30
    data := slice payload 0 64
    enables := if h.enables then BitVec.ofNat 64 (fieldLe payload 64 8) else BitVec.allOnes 64
    urgency := u
    arrived := s.clock }

/-- A request of the rafter link enters the store, or waits in the landing buffer and the gutter (R291). -/
def State.enterStore (s : State) (r : Request) : State :=
  if s.reg.landed.isEmpty && s.storeRoom s.reg.usedRafter then s.enqueue r
  else
    let s := if s.reg.withheldSince2.isNone then s.setWithheld 2 (some s.clock) else s
    s.onReg fun g => { g with landed := g.landed ++ [r] }

/-- A request packet is taken: it enters the store; one whose tag fails counts as executed (R223). -/
def State.takeRequest (s : State) (h : Header) (o : Option (List Byte)) : State :=
  let r := s.packetRequest h (o.getD [])
  match o with
  | some _ => s.enterStore r
  | none =>
    let s := s.tagFailure h (if h.kind = 1 then 1 else 2)
    if h.kind = 1 then s.respond h.src h.seq 3 true r (zeros 64)
    else s.enterStore { r with kind := .write, data := zeros 64, enables := BitVec.allOnes 64, poisoned := true }

/-- What a purged entry means to what it was sent for (R223, R338, R362): a read is answered; the source of a write that came
back poisoned raises event 060Bh; a mirror copy has executed. -/
def State.settleEntry (s : State) (h : Header) (e : Held) (o : Option (List Byte)) : State :=
  match e.what with
  | .read r =>
    match o with
    | some data => s.answer r data (h.poison || h.kind != 3)
    | none => s.answer r [] true
  | .write r =>
    if h.poison && o.isSome then
      s.raise 0x060B .failure 0xFFFF (le 2 h.src ++ le 4 e.seq ++ le 8 (r.dpa / 64 * 64) ++ le 2 1) s.lds
    else s
  | .mirror n => s.settleMirror n
  | _ => s

/-- A response packet is taken (R336, R338): it goes to the request that waits for it; none waits for a closed one. -/
def State.takeResponse (s : State) (h : Header) (o : Option (List Byte)) : State :=
  let s := if o.isNone then s.tagFailure h 3 else s
  let s := s.ackField h.src h
  if h.creditValid then
    let (s, e) := s.creditFor h.src h.credit
    let s := match e with
      | some e => s.settleEntry h e o
      | none => s
    s.settlePair h.src
  else s.settlePair h.src

/-- A mailbox or control message taken off the link. -/
structure Message where
  src : Nat := 0
  seq : Nat := 0
  payload : List Byte := []
  deriving DecidableEq, Repr, Inhabited

/-- A kind 6 packet is taken (R331, R338): its ack and credit act; its message goes on, unless its tag fails. -/
def State.takeControl (s : State) (h : Header) (o : Option (List Byte)) : State × Option Message :=
  let s := s.ackField h.src h
  let s := if h.creditValid then
      let (s, e) := s.creditFor h.src h.credit
      match e with
      | some e => s.settleEntry h e o
      | none => s
    else s
  let s := s.settlePair h.src
  match o with
  | some payload => (s, some { src := h.src, seq := h.seq, payload })
  | none => (s.tagFailure h 4, none)

/-- The wraps of a peer's unsequenced counter when it reads `n`: it wraps where it falls far. -/
def Peer.unseqWrap (p : Peer) (n : Nat) : Nat := if n + 2 ^ 31 ≤ p.recvUnseq then p.recvUnseqWraps + 1 else p.recvUnseqWraps

/-- An ack packet (R337). -/
def State.takeAck (s : State) (h : Header) (packet : List Byte) : State :=
  let p := s.peer h.src
  let w := p.unseqWrap h.seq
  match s.openPacket h true p.unseqEpoch w packet with
  | none => s.tagFailure h 4
  | some _ =>
    let s := s.onPeer h.src fun p => { p with recvUnseq := h.seq, recvUnseqWraps := w }
    (s.ackField h.src h).settlePair h.src

/-! ## Lost entries -/

/-- Entries of a pair reported lost (R343): held writes in event 0A07h, waiting reads poisoned. Mirror copies and a source's
writes to mirrored ranges are left where `keepMirrored` holds (R364). How many writes and reads. -/
def State.loseEntries (s : State) (d : Nat) (keepMirrored : Bool) (lost : Held → Bool) : State × Nat × Nat :=
  let stays (h : Held) : Bool :=
    !lost h || (keepMirrored && (match h.what with
      | .write r => s.mirrored r
      | .mirror _ => true
      | _ => false))
  let gone := (s.peer d).held.filter fun h => !stays h
  let credits := (gone.filter fun h => h.sent && h.credit).length
  let s := s.onPeer d fun p => { p with held := p.held.filter stays, taken := p.taken - credits }
  let s := foldState (fun s (h : Held) =>
    match h.what with
    | .write r => s.remoteLost d r
    | .read r => s.answer r [] true
    | .mirror n => s.settleMirror n
    | _ => s) s gone
  let count (f : SentFor → Bool) : Nat := (gone.filter fun h => f h.what).length
  (s, count fun w => match w with | .write _ => true | _ => false, count fun w => match w with | .read _ => true | _ => false)

/-! ## Pair sync -/

/-- The epoch and wrap counts under which a pair sync packet was sealed, and the wraps of its sender's pair sequence, which the
receiver of a new pair cannot know (notes/assumptions/35.md). -/
def State.takeSync (s : State) (h : Header) (iv : SyncIv) (packet : List Byte) : State :=
  let d := h.src
  match s.openPacket h true iv.epoch.toNat iv.unseqWraps.toNat packet with
  | none => s.tagFailure h 4
  | some x =>
    let s := s.onPeer d fun p => { p with recvUnseq := h.seq, recvUnseqWraps := iv.unseqWraps.toNat, unseqEpoch := iv.epoch.toNat }
    let s := s.ackField d h
    let epoch := fieldLe x 0 4 % 2 ^ 21
    let first := fieldLe x 4 4
    let flags := fieldLe x 8 1
    let s := if bitAt flags 0 then
        let p := s.peer d
        let s := if !p.hasRecv || p.recvEpoch != epoch then
            let s := s.onPeer d fun p =>
              { p with hasRecv := true, recvEpoch := epoch, expect := first, recvWraps := iv.wraps.toNat, window := [] }
            s.raiseAll 0x0A08 .informational (le 2 d ++ le 1 2 ++ le 4 epoch ++ le 4 first)
          else s
        s.sendUnsequenced d 7 (syncPayload epoch first 2)
      else s
    let s := if bitAt flags 1 && ((s.peer d).st == .syncing || (s.peer d).st == .unreachable) && epoch == s.link.epoch.toNat then
        let s := s.onPeer d fun p => { p with st := .live }
        s.raiseAll 0x0A08 .informational (le 2 d ++ le 1 1 ++ le 4 epoch ++ le 4 first)
      else s
    let s := if bitAt flags 2 then
        let (s, _, _) := s.loseEntries d false fun h => h.sent && h.acked
        s.announce d
      else s
    s.settlePair d

/-! ## Landing -/

/-- The transport layer takes a packet for this sled (R336). Traffic for the sled, acks apart, ends Drowse (R419). -/
def State.receive (s : State) (iv : Option SyncIv) (packet : List Byte) : State × Option Message :=
  let h := Header.ofBytes packet
  let s := if h.kind = 5 then s else s.wakeDrowse 3
  if h.kind = 5 then (s.takeAck h packet, none)
  else if h.kind = 7 then
    match iv with
    | some iv => (s.takeSync h iv packet, none)
    | none => (s, none)
  else
    let p := s.peer h.src
    let (s, taken) := s.takeSeq h.src h.seq
    if !taken then (s, none)
    else
      let o := s.openPacket h false p.recvEpoch p.recvWraps packet
      if h.kind = 6 then s.takeControl h o
      else if h.kind = 3 ∨ h.kind = 4 then (s.takeResponse h o, none)
      else (((s.takeRequest h o).ackField h.src h).settlePair h.src, none)

/-- Is a kind of R331 defined? -/
def kindOk (k : Nat) : Bool := decide (1 ≤ k) && decide (k ≤ 7)

/-- A packet lands on a port (R326): dropped, passed to the transport layer, or queued for forwarding. -/
def State.land (s : State) (p : Nat) (iv : Option SyncIv) (packet : List Byte) : State × Option Message :=
  if !s.awake || !s.hopUp p || (s.rport p).foreign then (s, none)
  else
    let h := Header.ofBytes packet
    let s := s.countBytes (2 + p) packet.length 0
    if !headerOk packet then (s.dropPacket p 1, none)
    else if !kindOk h.kind then (s.dropPacket p Config.reservedKind.toNat, none)
    else if (Sparse.find s.casc.map.members h.dst).isNone then (s.dropPacket p 2, none)
    else if h.hops = 0 then (s.dropPacket p 3, none)
    else if h.dst = s.me then s.receive iv packet
    else (s.forward p packet, none)

/-! ## Egress -/

/-- What an egress port sends at a packet boundary (R329): an ack, else its forwarded queue and the sled's own in turn. -/
def RafterLink.pick (x : RafterLink) : Option (List Byte × RafterLink) :=
  match x.acks with
  | a :: rest => some (a, { x with acks := rest })
  | [] =>
    let first := decide (384 * 2 ^ 20 < x.spilled)
    match x.egress, x.own with
    | f :: fs, o :: os =>
      if x.ownNext && !first then some (o, { x with own := os, ownNext := false }) else some (f.bytes, { x with egress := fs, ownNext := true })
    | f :: fs, [] => some (f.bytes, { x with egress := fs, ownNext := true })
    | [], o :: os => some (o, { x with own := os, ownNext := false })
    | [], [] => none

/-- Send the next packet of a port. -/
def State.egress (s : State) (p : Nat) : State :=
  if !s.awake || !s.hopUp p || (s.rport p).foreign then s
  else
    match (s.rport p).pick with
    | none => s
    | some (b, x) =>
      let s := s.onRport p fun _ => x
      let s := (s.refillGutter.countBytes (2 + p) 0 b.length).emit (.packet (BitVec.ofNat 2 p) b)
      if s.casc.role = .ridge ∧ 2 ^ 40 ≤ s.link.sealedCount ∧ s.flash.rotation.isNone then s.beginRotation none else s

/-! ## Replay and failover -/

/-- Replay a pair (R341): every entry sent, unacknowledged and unretired, in order, bit for bit; a copy still queued at a port
gives way. -/
def State.replay (s : State) (d : Nat) : State :=
  let p := s.peer d
  if p.st ≠ .live then s
  else
    let again := (p.held.filter fun h => h.sent && !h.acked).map (·.packet)
    let q := s.pairPort d
    let s := s.onLink fun l =>
      { l with ports := Sparse.update {} l.ports fun _ x => { x with own := x.own.filter fun b => !again.contains b } }
    let s := s.onRport q fun x => { x with own := x.own ++ again }
    (s.onPeer d fun p => { p with replays := p.replays + again.length }).bumps 0x19 q again.length

/-- The pairs of a lost hop move to the other port of their route where its hop is up, and replay (R344). What the port had
queued of the sled's own is sent again: by replay, as an ack due, or by the next announce. -/
def State.failover (s : State) (p : Nat) : State :=
  let acks := (s.rport p).acks.map fun b => (Header.ofBytes b).dst
  let s := s.onRport p fun x => { x with own := [], acks := [] }
  let s := foldState (fun s d => s.onPeer d fun x => { x with ackDue := true }) s acks
  foldState (fun s d =>
    if s.pairPort d ≠ p then s
    else
      let r := s.route d
      let other := if (s.peer d).viaAlternate then routePrimary r else routeAlternate r
      let s := if other ≠ p ∧ s.hopUp other then s.onPeer d fun x => { x with viaAlternate := !x.viaAlternate, returning := false } else s
      s.replay d) s (Sparse.keys s.link.peers)

/-- Fence a lane (R323): cause 1 training, 2 repeated losses. -/
def State.fenceLane (s : State) (p lane cause : Nat) : State :=
  if bitAt (s.rport p).fencedOwn.toNat lane then s
  else
    let s := s.onRport p fun x => { x with fencedOwn := x.fencedOwn ||| BitVec.ofNat 8 (2 ^ lane) }
    s.raiseAll 0x0A03 .warning (le 1 p ++ le 1 lane ++ le 1 cause)

/-- READINESS [13:10] (R397). -/
def State.rafterBit (s : State) (p : Nat) (up : Bool) : State := s.setReady (rdyRafter + p) up

/-- A hop goes down (R322, R344): 64 down notices, then training; its pairs move. `lane`: the lane that failed, FFh none. -/
def State.hopDown (s : State) (p lane : Nat) : State :=
  let s := s.onRport p fun x =>
    { x with phase := .training, losses := x.losses + 1, lastPeer := x.peer, foreign := false }
  let s := (s.rafterBit p false).raiseLimited 0x0A01 p .warning 0xFFFF (le 1 p ++ le 1 lane ++ zeros 4) [(2, 4)] [1] s.lds
  let s := foldState (fun s _ => s.emit (.block (BitVec.ofNat 2 p) 2 (le 1 lane ++ zeros 14))) s (List.range 64)
  (s.failover p).recompute

/-- A lane's parity error (R322, R323): counted; the 16th loss of a lane in 1 s fences it. -/
def State.laneError (s : State) (p lane : Nat) : State :=
  let now := s.clock
  let s := s.onRport p fun x =>
    { x with
      parity := x.parity.set lane (x.parity.getD lane 0 + 1)
      lossTimes := (x.lossTimes.filter fun (t : Nat × Nat) => decide (now < t.2 + 1600000000)) ++ [(lane, now)] }
  let s := (s.bump 0x1A p).hopDown p lane
  if 16 ≤ ((s.rport p).lossTimes.filter fun (t : Nat × Nat) => t.1 == lane).length then s.fenceLane p lane 2 else s

/-! ## Training -/

/-- The lane sets of R323, as masks, in training order. -/
def laneSets : List Nat := [0xFF, 0x0F, 0xF0, 0x03, 0x0C, 0x30, 0xC0]

/-- A hop comes up (R323, R324) with a set of lanes and the peer's identity: identity and width blocks go out, and event 0A02h
where the hop had been up before. `kind`: 1 transient, 2 narrowed, 3 after port down. -/
def State.hopRise (s : State) (p : Nat) (x : HopTraining) (kind : Nat) : State :=
  let before := s.rport p
  let peer : SledId × Nat := (x.peer, x.peerPort.toNat)
  let s := s.onRport p fun r =>
    { r with
      phase := .up
      lanes := x.lanes
      fencedPeer := ~~~ x.peerUsable
      peer := some peer
      peerEpoch := x.peerEpoch.toNat
      rejoins := r.rejoins + b2n (kind == 1 && before.lastPeer.isSome)
      longestDown := max r.longestDown x.downUs.toNat }
  let s := s.rafterBit p true
  let s := s.emit (.block (BitVec.ofNat 2 p) 3 (le 2 s.me ++ le 1 p ++ le 1 (~~~ before.fencedOwn).toNat ++ le 4 s.link.epoch.toNat ++ zeros 7))
  let s := s.emit (.block (BitVec.ofNat 2 p) 4 (le 1 x.lanes.toNat ++ zeros 14))
  let s := if before.lastPeer.isSome then
      s.raiseAll 0x0A02 .informational (le 1 p ++ le 1 x.lanes.toNat ++ le 1 kind ++ le 4 x.downUs.toNat)
    else s
  let s := match x.foreignTerm with
    | some t =>
      if s.casc.joined then
        (s.onRport p fun r => { r with foreign := true }).raiseAll 0x0B08 .warning (le 1 p ++ le 2 x.peer.toNat ++ le 4 t.toNat)
      else s
    | none => s
  let s := foldState (fun s d =>
    let q := s.peer d
    if q.viaAlternate && routePrimary (s.route d) == p then
      if q.unacked then s.onPeer d fun q => { q with returning := true }
      else (s.onPeer d fun q => { q with viaAlternate := false, returning := false }).pump d
    else s) s (Sparse.keys s.link.peers)
  s.recompute

end Sys2Proof.Machine
end

