-- ==== Sys2Proof/Machine/CascadeOps.lean ====
section
/-! DEFINITION. The cascade (spec/11_cascade.md): claims and the ridge role (R350, R352, R353), the map and its changes (R351,
R354, R356, R358), routes (R361), the loss of a member (R364), joins (R350, R355), mirror copies and re-silvering (R362,
R365). -/

namespace Sys2Proof.Machine

/-! ## Maps as they are sent -/

/-- The kind byte of a range (R356). -/
def RangeKind.code : RangeKind → Nat
  | .free => 0 | .concatenated => 1 | .interleaved => 2 | .mirrored => 3
/-- The kind of a byte. -/
def rangeKindOf (n : Nat) : RangeKind :=
  if n = 1 then .concatenated else if n = 2 then .interleaved else if n = 3 then .mirrored else .free
/-- The role byte of C2C0h. -/
def Role.code : Role → Nat
  | .standalone => 0 | .member => 1 | .deputy => 2 | .ridge => 3
/-- The role of a code. -/
def roleOf (n : Nat) : Role := if n = 3 then .ridge else if n = 2 then .deputy else if n = 1 then .member else .standalone

/-- A range as its entry carries it (R356). -/
def Range.spec (r : Range) : RangeSpec :=
  { base := BitVec.ofNat 24 r.base, length := BitVec.ofNat 24 r.length, kind := BitVec.ofNat 8 r.kind.code, n := BitVec.ofNat 8 r.n,
    flags := BitVec.ofNat 8 (b2n r.degraded + 2 * b2n r.resilvering + 4 * b2n r.leadIsOne), first := BitVec.ofNat 16 r.first,
    watermark := BitVec.ofNat 32 r.watermark }
/-- The range of an entry. -/
def rangeOfSpec (x : RangeSpec) : Range :=
  { base := x.base.toNat, length := x.length.toNat, kind := rangeKindOf x.kind.toNat, n := x.n.toNat,
    degraded := bitAt x.flags.toNat 0, resilvering := bitAt x.flags.toNat 1, leadIsOne := bitAt x.flags.toNat 2,
    first := x.first.toNat, watermark := x.watermark.toNat }
/-- A range entry's 16 bytes (R356). -/
def specBytes (x : RangeSpec) : List Byte :=
  le 4 x.base.toNat ++ le 3 x.length.toNat ++ le 1 x.kind.toNat ++ le 1 x.n.toNat ++ le 1 x.flags.toNat ++ le 2 x.first.toNat
    ++ le 4 x.watermark.toNat
/-- A segment entry (R356). -/
def Segment.toBits (g : Segment) : Nat := g.sled.toNat * 2 ^ 22 + g.base.toNat * 2 ^ 8 + b2n g.lost
/-- The segment of an entry. -/
def segmentOf (n : Nat) : Segment := { sled := BitVec.ofNat 10 (bits n 31 22), base := BitVec.ofNat 14 (bits n 21 8), lost := bitAt n 0 }

/-- A map from its image. -/
def mapOfImage (m : MapImage) : CascadeMap :=
  { version := m.version.toNat
    ranges := m.ranges.foldl (fun t x => Sparse.set {} t x.1.toNat (rangeOfSpec x.2)) []
    segments := m.segments.foldl (fun t x => Sparse.set {} t x.1.toNat (segmentOf x.2.toNat)) []
    members := m.members.foldl (fun t x =>
      Sparse.insert t x.id.toNat { serial := x.serial, role := roleOf x.role.toNat, lost := x.lost, neighbours := x.neighbours }) []
    routes := m.routes.foldl (fun t x => Sparse.set 0 t x.1.toNat x.2) [] }
/-- The image of a map. -/
def CascadeMap.toImage (m : CascadeMap) : MapImage :=
  { version := BitVec.ofNat 32 m.version
    ranges := m.ranges.map fun (x : Nat × Range) => (BitVec.ofNat 12 x.1, x.2.spec)
    segments := m.segments.map fun (x : Nat × Segment) => (BitVec.ofNat 16 x.1, BitVec.ofNat 32 x.2.toBits)
    members := m.members.map fun (x : Nat × Member) =>
      { id := BitVec.ofNat 10 x.1, serial := x.2.serial, role := BitVec.ofNat 2 x.2.role.code, lost := x.2.lost, neighbours := x.2.neighbours }
    routes := m.routes.map fun (x : Nat × BitVec 16) => (BitVec.ofNat 10 x.1, x.2) }

/-! ## Routes -/

/-- The members that are not lost. -/
def CascadeMap.alive (m : CascadeMap) : List Nat := (m.members.filter fun (x : Nat × Member) => !x.2.lost).map fun x => x.1
/-- The neighbours of a member that are members and not lost, with the ports that lead to them. -/
def CascadeMap.neighbours (m : CascadeMap) (d : Nat) : List (Nat × Nat) :=
  match Sparse.find m.members d with
  | none => []
  | some x => (x.neighbours.map fun (n : RaftPort × SledId) => (n.1.toNat, n.2.toNat)).filter fun n => m.alive.contains n.2

/-- Breadth-first search (R361): the distances of the sleds reached from a frontier, none through `avoid`. -/
def CascadeMap.search (m : CascadeMap) (avoid : List Nat) : Nat → Nat → List Nat → List (Nat × Nat) → List (Nat × Nat)
  | 0, _, _, found => found
  | n + 1, d, frontier, found =>
    let found := found ++ frontier.map fun x => (x, d)
    let next := (frontier.flatMap fun x => (m.neighbours x).map (·.2)).eraseDups.filter fun x =>
      !(found.any fun f => f.1 == x) && !avoid.contains x
    if next.isEmpty then found else m.search avoid n (d + 1) next found

/-- The distances from a sled, at most 63 hops. -/
def CascadeMap.distances (m : CascadeMap) (avoid : List Nat) (start : Nat) : List (Nat × Nat) := m.search avoid 64 0 [start] []

/-- The least of some numbers. -/
def leastOf : List Nat → Option Nat
  | [] => none
  | x :: rest => match leastOf rest with
    | some y => some (min x y)
    | none => some x

/-- The lowest port of those given. -/
def lowestPort (ps : List (Nat × Nat)) : Option (Nat × Nat) :=
  (leastOf (ps.map (·.1))).bind fun p => ps.find? fun x => x.1 == p

/-- The route entry of a destination at a sled (R361): the lowest port to a neighbour on a shortest path; of the other ports, the
lowest whose neighbour has the shortest path that avoids the primary's neighbour and the sled itself. -/
def CascadeMap.routeEntry (m : CascadeMap) (src dst : Nat) : BitVec 16 :=
  if src = dst then BitVec.ofNat 16 (2 ^ 11)
  else
    let ns := m.neighbours src
    let dist (avoid : List Nat) (n : Nat) : Option Nat := ((m.distances avoid n).find? fun x => x.1 == dst).map (·.2)
    let reach := ns.filterMap fun n => (dist [src] n.2).map fun d => (n, d)
    match leastOf (reach.map (·.2)) with
    | none => 0
    | some best =>
      match lowestPort ((reach.filter fun x => x.2 == best).map (·.1)) with
      | none => 0
      | some p =>
        let avoid := if p.2 = dst then [src] else [src, p.2]
        let others := (ns.filter fun n => n.1 != p.1 && !(avoid.contains n.2)).filterMap fun n => (dist avoid n.2).map fun d => (n, d)
        let alt := (leastOf (others.map (·.2))).bind fun b => lowestPort ((others.filter fun x => x.2 == b).map (·.1))
        let q := match alt with
          | some a => a.1
          | none => p.1
        if 63 < best + 1 then 0 else BitVec.ofNat 16 (p.1 * 2 ^ 14 + q * 2 ^ 12 + 2 ^ 11 + (best + 1))

/-- The routing row of a sled. -/
def CascadeMap.rowOf (m : CascadeMap) (src : Nat) : Sparse (BitVec 16) :=
  m.alive.foldl (fun t d => Sparse.set 0 t d (m.routeEntry src d)) []
/-- A map with the routing row of a sled. -/
def CascadeMap.withRow (m : CascadeMap) (src : Nat) : CascadeMap := { m with routes := m.rowOf src }

/-! ## Ranges -/

/-- The segments of a range. -/
def CascadeMap.segmentsOf (m : CascadeMap) (r : Range) : List Segment := (List.range r.n).map fun j => m.segment r j
/-- Blocks of a segment of a range. -/
def Range.segmentBlocks (r : Range) : Nat := r.length / max r.n 1
/-- The local blocks of a sled's segments with their range. -/
def CascadeMap.blocksAt (m : CascadeMap) (me : Nat) : Sparse Nat :=
  m.ranges.foldl (fun t (x : Nat × Range) =>
    (m.segmentsOf x.2).foldl (fun t g =>
      if g.sled.toNat = me ∧ !g.lost then
        (List.range x.2.segmentBlocks).foldl (fun t i => Sparse.insert t (g.base.toNat + i) x.1) t
      else t) t) []

/-- The index of a mirrored range's lead segment. -/
def Range.lead (r : Range) : Nat := if r.leadIsOne then 1 else 0
/-- Is a sled the lead of a mirrored range? -/
def CascadeMap.ledBy (m : CascadeMap) (r : Range) (me : Nat) : Bool :=
  r.kind == .mirrored && (m.segment r r.lead).sled.toNat == me && !(m.segment r r.lead).lost

/-! ## A map comes into force -/

/-- A range as a new map gives it, but with what the lead itself knows of a re-silver of the same segments (R365). -/
def mergeRange (old new : CascadeMap) (me i : Nat) (r : Range) : Range :=
  let o := Sparse.get {} old.ranges i
  if new.ledBy r me && old.ledBy o me && o.first == r.first && o.base == r.base && o.length == r.length
      && o.leadIsOne == r.leadIsOne && old.segmentsOf o == new.segmentsOf r then
    { r with degraded := o.degraded, resilvering := o.resilvering, watermark := o.watermark }
  else r

/-- A local block becomes part of a segment (R358): it is filled, then bound. -/
def State.takeBlock (s : State) (b : Nat) : State :=
  let s := s.onCap fun c => { c with offered := Sparse.erase c.offered b, unannounced := c.unannounced.filter (· != b) }
  match (s.dirOf b).st with
  | .ready => s.onDir b fun e => { e with st := .bound }
  | .filling => if s.xlat.fills.contains b then s else s.onXlat fun x => { x with fills := x.fills ++ [b] }
  | .unassigned => s.startFill b
  | .bound => s

/-- A block leaves its segment: absent, and back in the pool after its walk (R358). -/
def State.dropBlock (s : State) (b : Nat) : State :=
  let s := s.clearBlock b false
  if s.xlat.swaps.any (·.block == b) || s.xlat.fills.contains b then s
  else s.onDir b fun e => { e with st := if e.st = .bound then .ready else e.st }

/-- Mirror copies to a follower that is lost are dropped, and the held credits return (R364). -/
def State.dropCopies (s : State) (i f : Nat) : State :=
  let ns := (s.casc.mirrors.filter fun m => m.range == i && m.follower.toNat == f).map (·.copySeq)
  let mine (h : Held) : Bool := match h.what with
    | .mirror n => ns.contains n
    | _ => false
  let credits := ((s.peer f).held.filter fun h => mine h && h.sent && h.credit).length
  let s := s.onPeer f fun p => { p with held := p.held.filter fun h => !mine h, taken := p.taken - credits }
  foldState State.settleMirror s ns

/-- A source's unretired writes of a mirrored range whose lead is lost go to the new lead, with their origin sequences, in the form
of mirror copies; with both members lost they are reported (R364). -/
def State.resendWrites (s : State) (i old : Nat) (r : Range) : State :=
  let mine (h : Held) : Bool := match h.what with
    | .write q => (s.casc.map.rangeAt (q.global / blockCourses)).map (·.1) == some i
    | _ => false
  let gone := (s.peer old).held.filter mine
  let credits := (gone.filter fun h => h.sent && h.credit).length
  let s := s.onPeer old fun p => { p with held := p.held.filter fun h => !mine h, taken := p.taken - credits }
  let g := s.casc.map.segment r r.lead
  foldState (fun s (h : Held) =>
    match h.what with
    | .write q =>
      if g.lost then s.remoteLost old q
      else
        let k := q.global - r.base * blockCourses
        let line := (g.sled.toNat * 2 ^ 30 + g.base.toNat * blockCourses + k) * 64 + q.line
        let part := q.kind == .partialWrite
        s.enqueueSend g.sled.toNat { kind := 6, ctx := q.ctx.toNat }
          (mirrorPayload s.me h.seq line q.ctx.toNat (b2n part) (if part then q.enables.toNat else 0) q.data) true (.write q)
    | _ => s) s gone

/-- What a member's loss means here for a mirrored range (R364). -/
def State.rangeLoss (s : State) (old : CascadeMap) (i : Nat) (r : Range) : State :=
  let o := Sparse.get {} old.ranges i
  if r.kind ≠ .mirrored ∨ o.kind ≠ .mirrored ∨ o.first ≠ r.first then s
  else
    let wasLead := old.segment o o.lead
    let wasFollower := old.segment o (1 - o.lead)
    let lostNow (j : Nat) : Bool := (s.casc.map.segment r j).lost
    let s := if lostNow o.lead && !wasLead.lost then s.resendWrites i wasLead.sled.toNat r else s
    if lostNow (1 - o.lead) && !wasFollower.lost && wasLead.sled == s.casc.sledId then s.dropCopies i wasFollower.sled.toNat else s

/-- A map comes into force at this sled (R354, R358, R364, R365). -/
def State.applyMap (s : State) (m : CascadeMap) : State :=
  let old := s.casc.map
  let m := { m with ranges := m.ranges.map fun (x : Nat × Range) => (x.1, mergeRange old m s.me x.1 x.2) }
  let blocks := m.blocksAt s.me
  let before := s.casc.blocks
  let s := foldState State.dropBlock s ((Sparse.keys before).filter fun b => (Sparse.find blocks b).isNone)
  let s := s.onCasc fun c =>
    { c with
      map := m
      blocks
      serials := m.members.foldl (fun l (x : Nat × Member) =>
        (l.filter fun (y : BitVec 64 × SledId) => y.1 != x.2.serial) ++ [(x.2.serial, BitVec.ofNat 10 x.1)]) c.serials }
  let s := foldState State.takeBlock s ((Sparse.keys blocks).filter fun b => (Sparse.find before b).isNone)
  let s := foldState (fun s (x : Nat × Range) => s.rangeLoss old x.1 x.2) s m.ranges
  s.onCasc fun c =>
    { c with resilver := c.resilver.filter fun (x : Nat × Resilver) => (Sparse.get {} m.ranges x.1).resilvering }

/-! ## The ridge role -/

/-- Is a claim better than another (R352)? -/
def betterClaim (a b : Claim) : Bool :=
  if a.term ≠ b.term then decide (b.term.toNat < a.term.toNat)
  else if a.strap ≠ b.strap then a.strap
  else decide (a.id.toNat < b.id.toNat)

/-- The sled ID that a sled without a ridge's word would take (R350): none where its strap differs from its home ID. -/
def State.ownId (s : State) : Option Nat :=
  let x := s.conn.inForce
  if !s.allLive.isEmpty then
    if x.idv && x.id.toNat != s.homeId then none else some s.homeId
  else if x.idv then some x.id.toNat
  else
    match s.casc.serials.find? fun y => y.1 == s.serial with
    | some y => some y.2.toNat
    | none => some 0

/-- The sled's own claim, where it may claim (R352). -/
def State.ownClaim (s : State) : Option Claim :=
  if s.casc.eligible then
    s.ownId.map fun i => { term := BitVec.ofNat 32 s.casc.term, strap := s.conn.inForce.ridge, id := BitVec.ofNat 10 i }
  else none

/-- Flood the sled's own claim, as its first hop comes up (R352). -/
def State.claimFirst (s : State) : State :=
  match s.ownClaim with
  | some c => s.emit (.control none (.claim c))
  | none => s

/-- Is any hop up, to a sled of no other cascade? -/
def State.anyHop (s : State) : Bool := (List.range 4).any fun p => s.hopUp p && !(s.rport p).foreign

/-- The ridge's own neighbours, as its hops tell (R351, R355). -/
def State.ownNeighbours (s : State) : List (RaftPort × SledId) :=
  (List.range 4).filterMap fun p =>
    let x := s.rport p
    if x.phase = .up ∧ !x.foreign then x.peer.map fun y => (BitVec.ofNat 2 p, y.1) else none

/-- The best of some claims. -/
def bestClaim : List Claim → Option Claim
  | [] => none
  | c :: rest => match bestClaim rest with
    | some d => if betterClaim c d then some c else some d
    | none => some c

/-- The deputy that a ridge names: the best other eligible claimant, of those that `ok` accepts (R352, R353). -/
def State.newDeputy (s : State) (ok : Nat → Bool) : Option SledId :=
  (bestClaim (s.casc.claims.filter fun c => c.id != s.casc.sledId && ok c.id.toNat)).map (·.id)

/-- The members other than this sled that are not lost. -/
def State.others (s : State) : List Nat := s.casc.map.alive.filter (· != s.me)

/-- The deputy, where it is a member that is not lost. -/
def State.liveDeputy (s : State) (m : CascadeMap) : Option SledId :=
  s.casc.deputy.filter fun d => m.alive.contains d.toNat && (s.casc.map.alive.contains d.toNat)

/-- Announce the term and the deputy to every member (R353). -/
def State.announceTerm (s : State) : State :=
  foldState (fun s d => s.emit (.control (some (BitVec.ofNat 10 d)) (.termAnnounce s.casc.term s.casc.deputy))) s s.others

/-- A member's role in the member table. -/
def CascadeMap.setRole (m : CascadeMap) (d : Nat) (r : Role) : CascadeMap :=
  { m with members := m.members.map fun (x : Nat × Member) => if x.1 == d then (x.1, { x.2 with role := r }) else x }

/-- The sled joins its cascade (R355 step 6, R397): event 0B01h. -/
def State.setJoined (s : State) : State :=
  let s := s.onCasc fun c => { c with joined := true }
  let s := (s.setReady rdyCascade true).onBoot fun b => { b with msCascade := some (b.msCascade.getD s.msNow) }
  let s := s.milestone 5
  s.raiseAll 0x0B01 .informational (le 2 s.me ++ le 2 s.casc.ridge.toNat ++ le 4 s.casc.term)

/-- Event 0B03h: cause 1 election, 2 takeover. -/
def State.ridgeChanged (s : State) (cause : Nat) : State :=
  s.raiseAll 0x0B03 .warning (le 2 s.casc.ridge.toNat ++ le 4 s.casc.term ++ le 1 cause)

/-- The sled takes the ridge role after 20 ms without a better claim (R352): a term above the highest seen, a deputy, a link key
of its own drawing, and the first entry of the member table. -/
def State.becomeRidge (s : State) (id : Nat) : State :=
  let (key, s) := s.draw
  let s := s.onFlash fun f => { f with linkKeys := Sparse.set [] f.linkKeys f.linkId.toNat key }
  let me : SledId := BitVec.ofNat 10 id
  let mine : Member := { serial := s.serial, role := .ridge, neighbours := s.ownNeighbours }
  let s := s.onCasc fun c =>
    { c with role := .ridge, sledId := me, ridge := me, term := c.highest + 1, highest := c.highest + 1 }
  let s := s.onCasc fun c => { c with deputy := s.newDeputy fun _ => true }
  let m := { s.casc.map with version := s.casc.map.version + 1, members := Sparse.insert s.casc.map.members id mine }
  let s := s.applyMap (m.withRow id)
  let s := s.setJoined.ridgeChanged 1
  s.emit (.control none (.termAnnounce s.casc.term s.casc.deputy))

/-- Give up the ridge role (R353): the commands whose changes are in force nowhere answer Busy (R354). -/
def State.stepDown (s : State) : State :=
  if s.casc.role ≠ .ridge then s
  else
    let waiting := s.casc.changes
    let s := s.onCasc fun c => { c with role := .member, changes := [], probes := [] }
    let s := match s.flash.rotation with
      | some r => (s.onFlash fun f => { f with rotation := none }).finishBackground r.path 0xC188 .busy []
      | none => s
    foldState (fun s (x : PendingChange) => match x.path with
      | some p => s.reply p 0xC2C1 .busy []
      | none => s) s waiting

/-! ## Changes of the map -/

/-- The ranges of a map that a sled's loss degrades: mirrored ones with a segment there that is not lost yet. -/
def CascadeMap.mirroredAt (m : CascadeMap) (d : Nat) : List Nat :=
  (m.ranges.filter fun (x : Nat × Range) =>
    x.2.kind == .mirrored && (m.segmentsOf x.2).any fun g => g.sled.toNat == d && !g.lost).map fun x => x.1

/-- The newest map of the ridge: that of the last change it has sent, else the one in force. -/
def State.latestMap (s : State) : CascadeMap :=
  match s.casc.changes.getLast? with
  | some c => c.map
  | none => s.casc.map

/-- A change comes into force (R354): at the ridge, then at every member with its routing row; its events, its command's reply and
the grant of its join go out (R366, R367). -/
def State.enforce (s : State) (c : PendingChange) : State :=
  let before := s.casc.map
  let s := s.applyMap (c.map.withRow s.me)
  let s := foldState (fun s d =>
    s.emit (.control (some (BitVec.ofNat 10 d)) (.mapUpdate s.casc.term (c.map.withRow d)))) s s.others
  let s := match c.lost with
    | some d => foldState (fun s i => s.raiseAll 0x0B05 .warning (le 2 i ++ le 2 d)) s (before.mirroredAt d)
    | none => s
  let s := match c.range with
    | some (i, a) => s.raiseAll 0x0B07 .informational (le 4 c.map.version ++ le 2 i ++ le 1 a)
    | none => s
  let s := match c.path with
    | some p => s.reply p 0xC2C1 .success (s.status 0 true ++ zeros 2 ++ le 4 c.map.version)
    | none => s
  match c.grant with
  | some g =>
    s.emit (.control (some g.id) (.joinGrant { g with map := (c.map.withRow g.id.toNat).toImage, deputy := s.casc.deputy }))
  | none => s

/-- The ridge keeps a live deputy: where it has none, it names one among the members (R352, R353). -/
def State.keepDeputy (s : State) : State :=
  if s.casc.role ≠ .ridge ∨ (s.liveDeputy s.casc.map).isSome then s
  else
    match s.newDeputy fun d => s.casc.map.alive.contains d with
    | none => s
    | some d => (s.onCasc fun c => { c with deputy := some d, map := c.map.setRole d.toNat .deputy }).announceTerm

/-- Send a change to the deputy (R354). -/
def State.sendChange (s : State) (d : SledId) (c : PendingChange) : State :=
  s.emit (.control (some d) (.mapUpdate s.casc.term (c.map.withRow d.toNat)))

/-- The ridge makes a change (R354): the deputy has it first. Where the deputy is lost, another is named and has every change that
waits; with none to name, the changes are in force at once. -/
def State.propose (s : State) (c : PendingChange) : State :=
  let c := { c with map := { c.map with version := s.latestMap.version + 1 } }
  match s.liveDeputy c.map with
  | some d => (s.onCasc fun x => { x with changes := x.changes ++ [c] }).sendChange d c
  | none =>
    let waiting := s.casc.changes
    match s.newDeputy fun d => c.map.alive.contains d && s.casc.map.alive.contains d with
    | some d =>
      let c := { c with map := c.map.setRole d.toNat .deputy }
      let s := (s.onCasc fun x => { x with deputy := some d, changes := waiting ++ [c] }).announceTerm
      foldState (fun s c => s.sendChange d c) s (waiting ++ [c])
    | none =>
      let s := s.onCasc fun x => { x with changes := [] }
      ((foldState State.enforce s waiting).enforce c).keepDeputy

/-- The deputy has acknowledged a version: the changes up to it come into force in order (R354). -/
def State.acknowledged (s : State) (version : Nat) : State :=
  let now := s.casc.changes.takeWhile fun c => decide (c.map.version ≤ version)
  let s := s.onCasc fun x => { x with changes := x.changes.drop now.length }
  (foldState State.enforce s now).keepDeputy

/-! ## Neighbours, probes and losses -/

/-- A hop came up with another peer than before, or went down for good: the ridge learns the sled's neighbours (R324, R361). -/
def State.reportNeighbours (s : State) : State :=
  if !s.casc.joined then s
  else if s.casc.role = .ridge then
    let m := s.latestMap
    s.propose { map := { m with members := m.members.map fun (x : Nat × Member) =>
      if x.1 == s.me then (x.1, { x.2 with neighbours := s.ownNeighbours }) else x } }
  else s.emit (.control (some s.casc.ridge) (.neighbours s.ownNeighbours))

/-- The ridge probes a member (R364). -/
def State.probe (s : State) (d : Nat) : State :=
  if d = s.me ∨ !(s.latestMap.alive.contains d) then s
  else
    let x : SledId := BitVec.ofNat 10 d
    (s.onCasc fun c => { c with probes := c.probes.filter (· != x) ++ [x] }).emit (.control (some x) .probe)

/-- A member's loss as a map shows it (R364): its entry and its segments lost, its mirrored ranges degraded, their lead the
segment that is left. -/
def CascadeMap.loseMember (m : CascadeMap) (d : Nat) : CascadeMap :=
  let lostSeg (g : Segment) : Segment := if g.sled.toNat = d then { g with lost := true } else g
  let used (r : Range) (j : Nat) : Bool := (m.segment r j).sled.toNat == d && !(m.segment r j).lost
  { m with
    members := m.members.map fun (x : Nat × Member) => if x.1 == d then (x.1, { x.2 with lost := true }) else x
    ranges := m.ranges.map fun (x : Nat × Range) =>
      if x.2.kind == .mirrored && (used x.2 0 || used x.2 1) then
        let flip := used x.2 x.2.lead && !(m.segment x.2 (1 - x.2.lead)).lost && !x.2.resilvering
        (x.1, { x.2 with degraded := true, resilvering := false, watermark := 0, leadIsOne := if flip then !x.2.leadIsOne else x.2.leadIsOne })
      else x
    segments := m.ranges.foldl (fun t (x : Nat × Range) =>
      (List.range x.2.n).foldl (fun t j => Sparse.set {} t (x.2.first + j) (lostSeg (m.segment x.2 j))) t) m.segments }

/-- The ridge declares a member lost (R364): event 0B04h, and the change of the map. -/
def State.declareLost (s : State) (d : Nat) : State :=
  let m := s.latestMap
  let s := s.onCasc fun c => { c with probes := c.probes.filter fun x => x.toNat != d }
  let s := s.raiseAll 0x0B04 .failure (le 2 d ++ le 2 (m.mirroredAt d).length)
  (s.propose { map := m.loseMember d, lost := some d }).keepDeputy

/-- A rejoined member's segments of mirrored ranges are re-silvered from the segment that is left (R365). -/
def CascadeMap.rejoin (m : CascadeMap) (d : Nat) : CascadeMap :=
  m.ranges.foldl (fun (m : CascadeMap) (x : Nat × Range) =>
    let j := 1 - x.2.lead
    let g := m.segment x.2 j
    if x.2.kind == .mirrored && g.sled.toNat == d && g.lost && !(m.segment x.2 x.2.lead).lost then
      { m with
        segments := Sparse.set {} m.segments (x.2.first + j) { g with lost := false }
        ranges := Sparse.set {} m.ranges x.1 { x.2 with resilvering := true, watermark := 0 } }
    else m) m

/-! ## Joins -/

/-- The ID that a join takes (R350), or the cause of event 0B02h. -/
def State.joinId (s : State) (j : JoinReq) : Except Nat Nat :=
  let m := s.latestMap
  if !j.chainOk then .error 3
  else
    let free := firstFrom (fun i => (Sparse.find m.members i).isNone) 1024 0
    let pick : Except Nat Nat := match j.homeId with
      | some h => match j.strapId with
        | some t => if t = h then .ok h.toNat else .error 2
        | none => .ok h.toNat
      | none => match j.strapId with
        | some t => .ok t.toNat
        | none =>
          match s.casc.serials.find? fun y => y.1 == j.serial with
          | some y => .ok y.2.toNat
          | none => match free with
            | some i => .ok i
            | none => .error 4
    match pick with
    | .error c => .error c
    | .ok i =>
      match Sparse.find m.members i with
      | some x => if x.serial = j.serial then .ok i else .error 1
      | none => .ok i

/-- The ridge takes a join (R355 steps 3 to 5): refused with event 0B02h, or the ID, a wrapping key, the wrapped link keys and, in
force with its map change, the map. -/
def State.join (s : State) (j : JoinReq) : State :=
  match s.joinId j with
  | .error cause =>
    (s.raiseAll 0x0B02 .warning (le 4 (j.serial.toNat % 2 ^ 32) ++ le 1 cause)).emit
      (.control none (.joinGrant { refused := some (BitVec.ofNat 8 cause) }))
  | .ok i =>
    let (d, s) := s.ephemeral
    let kek := Crypto.hkdf32 (Crypto.ecdhX d (Crypto.pointOf j.publicKey)) (be 8 j.serial.toNat) kekInfo
    let id : SledId := BitVec.ofNat 10 i
    let s := s.setWrapKey (.member id) kek
    let m := s.latestMap
    let role := if s.casc.deputy = some id then Role.deputy else .member
    let m := ({ m with members := Sparse.insert m.members i { serial := j.serial, role, neighbours := j.neighbours } } : CascadeMap).rejoin i
    let g : JoinGrant :=
      { id, ridge := s.casc.ridge, deputy := s.casc.deputy, term := BitVec.ofNat 32 s.casc.term, publicKey := publicKey d
        keys := s.flash.linkKeys.map fun (k : Nat × List Byte) => (BitVec.ofNat 2 k.1, Crypto.keyWrap kek k.2)
        current := s.flash.linkId }
    s.propose { map := m, grant := some g }

/-- The private key of a join request that waits for its grant. -/
def joinPrivate (draw : Nat) : Nat := ofLe (le 32 (Config.drawn draw).toNat) % (Crypto.n384 - 1) + 1

/-- Ask the ridge to join (R355 step 3). -/
def State.askJoin (s : State) (ridge : SledId) : State :=
  let n := s.flash.draws
  let (d, s) := s.ephemeral
  let s := s.onCasc fun c => { c with joinDraw := some n }
  let x := s.conn.inForce
  s.emit (.control (some ridge) (.joinRequest
    { serial := s.serial
      strapId := if x.idv then some x.id else none
      homeId := if s.allLive.isEmpty then none else some (BitVec.ofNat 10 s.homeId)
      freeBlocks := BitVec.ofNat 14 ((List.range s.blocks).filter s.blockFree).length
      neighbours := s.ownNeighbours
      publicKey := publicKey d }))

/-- The sled takes its grant (R350, R355 steps 5 and 6): its ID, the keys it can unwrap, the map; it announces its pairs. -/
def State.takeGrant (s : State) (g : JoinGrant) : State :=
  match s.casc.joinDraw, g.refused with
  | some n, none =>
    let kek := s.wrapFrom (joinPrivate n) g.publicKey
    let s := s.setWrapKey (.member g.ridge) kek
    let keys := g.keys.filterMap fun (k : BitVec 2 × List Byte) => (Crypto.keyUnwrap kek k.2).map fun x => (k.1.toNat, x)
    let s := s.onFlash fun f =>
      { f with linkKeys := keys.foldl (fun t k => Sparse.set [] t k.1 k.2) f.linkKeys, linkId := g.current }
    let s := s.onCasc fun c =>
      { c with sledId := g.id, ridge := g.ridge, deputy := g.deputy, term := g.term.toNat, highest := max c.highest g.term.toNat,
               role := if g.deputy = some g.id then .deputy else .member, joinDraw := none }
    let s := (s.applyMap (mapOfImage g.map)).setJoined
    foldState State.announce s s.others
  | some _, some _ => s.onCasc fun c => { c with joinDraw := none }
  | none, _ => s

/-- A sled whose rafter ports are all disabled or down is standalone (R350, R398). -/
def State.checkStandalone (s : State) : State :=
  let alone := (List.range 4).all fun p => (s.rport p).phase == .disabled || (s.rport p).phase == .down
  if alone && s.casc.role != .standalone then
    (s.stepDown.onCasc fun c => { c with role := .standalone, joined := false }).setReady rdyCascade false
  else s

/-! ## Mirror copies and re-silvering -/

/-- Has a copy of an origin's sequence executed here (R362)? It goes on record, of 4,096 sequences by origin. -/
def State.recordCopy (s : State) (origin n : Nat) : State × Bool :=
  let seen := Sparse.get [] s.casc.mirrorSeen origin
  if seen.contains n then (s, true)
  else
    let l := seen ++ [n]
    (s.onCasc fun c => { c with mirrorSeen := Sparse.set [] c.mirrorSeen origin (l.drop (l.length - 4096)) }, false)

/-- Execute a copy taken from the link (R362, R364, R365): its write executes at once, in sequence order, unless its record shows it
executed; its completion returns the credit. -/
def State.executeCopy (s : State) (src seq : Nat) (c : MirrorCopy) : State :=
  let base := (s.ctx c.ctx.toNat).cls
  let r : Request :=
    { id := s.reg.nextId
      kind := if c.enables.isSome then .partialWrite else .write
      origin := .rafter (BitVec.ofNat 10 src) (BitVec.ofNat 32 seq) 0
      rid := BitVec.ofNat 16 (0xC00 + src), ctx := c.ctx, base, cls := base
      line := c.line.toNat % 64, course := c.line.toNat / 64 % 2 ^ 30
      data := slice c.data 0 64, enables := c.enables.getD (BitVec.allOnes 64), poisoned := c.poison, arrived := s.clock }
  let s := s.onReg fun g => { g with nextId := g.nextId + 1, inFlight := g.inFlight ++ [(r.id, none, false)] }
  let (s, again) := s.recordCopy c.origin.toNat c.originSeq.toNat
  if again then s.complete { r with poisoned := false } false
  else if c.absent then
    (if s.isSegment (r.course / blockCourses) then (s.discardCourse r.course).1 else s).complete { r with poisoned := false } false
  else s.serve r

/-- The lines of a course as a re-silver copies them (R365): the tile's or bundle's plaintext, none for a poisoned line. -/
def State.courseLines (s : State) (c : Nat) (b : Batten) : State × List (Option (List Byte)) :=
  let lines (s : State) (t : Nat) (tile : List Byte) (bad : Nat) : List (Option (List Byte)) :=
    (List.range 4).map fun l =>
      if bitAt bad l || bitAt (s.tileListed c t) l then none else some (slice tile (64 * l) 64)
  if b.tier = .thatched then
    let (s, rs) := s.decodeThatched (c / 4 * 4) b 0xFFFF 12
    match rs.getD (c % 4) (.lost 2) with
    | .good x => (s, (List.range 16).flatMap fun t => lines s t (slice x (256 * t) 256) 0)
    | .lost _ => (s, List.replicate 64 none)
  else
    (List.range 16).foldl (fun (x : State × List (Option (List Byte))) t =>
      let (s, r) := x.1.readTile c b t 12 0xFFFF
      (s, x.2 ++ lines s t r.data r.bad)) (s, [])

/-- Send one copy of a re-silver. -/
def State.sendCopy (s : State) (d line ctx flags : Nat) (poison : Bool) (data : List Byte) : State :=
  let n := s.casc.ownSeq
  (s.onCasc fun c => { c with ownSeq := (c.ownSeq + 1) % 2 ^ 32 }).enqueueSend d { kind := 6, poison, ctx }
    (mirrorPayload s.me n line ctx flags 0 data) true (.control 0x10)

/-- The end of a re-silver (R365): event 0B06h; with no course skipped the range is healthy again. A lead that is not the ridge tells
it. -/
def State.endResilver (s : State) (i : Nat) (x : Resilver) : State :=
  let s := s.raiseAll 0x0B06 .informational (le 2 i ++ le 4 x.copied ++ le 4 x.skipped)
  let bad := decide (0 < x.skipped)
  let set (m : CascadeMap) : CascadeMap :=
    { m with ranges := Sparse.modify {} m.ranges i fun r => { r with resilvering := false, degraded := bad, watermark := 0 } }
  let s := s.onCasc fun c =>
    { c with map := set c.map, resilver := Sparse.erase c.resilver i, lastSkipped := Sparse.set 0 c.lastSkipped i x.skipped }
  if s.casc.role = .ridge then s.propose { map := set s.latestMap }
  else s.emit (.control (some s.casc.ridge) (.resilverEnded i x.skipped))

/-- One course of a re-silver that this sled leads (R365): `usable` tells whether the follower has a key for its context. -/
def State.resilverStep (s : State) (i : Nat) (usable : Bool) : State :=
  let r := Sparse.get {} s.casc.map.ranges i
  if !(s.casc.map.ledBy r s.me) || !r.resilvering then s
  else
    let lead := s.casc.map.segment r r.lead
    let f := s.casc.map.segment r (1 - r.lead)
    let k := r.watermark
    let c := lead.base.toNat * blockCourses + k
    let at_ := (f.sled.toNat * 2 ^ 30 + f.base.toNat * blockCourses + k) * 64
    let s := s.closeCourse c
    let s := s.loadBatten c 12
    let b := s.view c
    let x := Sparse.get {} s.casc.resilver i
    let (s, x) :=
      if b.tier = .absent then (s.sendCopy f.sled.toNat at_ b.ctx.toNat 2 false (zeros 64), { x with copied := x.copied + 1 })
      else if !usable then (s, { x with skipped := x.skipped + 1 })
      else
        let (s, ls) := s.courseLines c b
        (foldState (fun s (y : Option (List Byte) × Nat) =>
          s.sendCopy f.sled.toNat (at_ + y.2) b.ctx.toNat 0 y.1.isNone (y.1.getD (zeros 64))) s ls.zipIdx, { x with copied := x.copied + 1 })
    let s := s.onCasc fun y =>
      { y with
        map := { y.map with ranges := Sparse.modify {} y.map.ranges i fun r => { r with watermark := k + 1 } }
        resilver := Sparse.set {} y.resilver i x }
    if r.segmentBlocks * blockCourses ≤ k + 1 then s.endResilver i x else s

end Sys2Proof.Machine
end

