-- ==== Sys2Proof/Machine/Rafter.lean ====
section
/-! DEFINITION. The rafter link's hop events, timers and commands (spec/10_rafter_link.md R322 to R345, R348, R349). The
packets themselves land in Machine/Serve.lean. -/

namespace Sys2Proof.Machine

/-! ## Hops -/

/-- LANE_PARITY_ERROR (R322): the hop goes down within the block time. -/
def execLaneParityError (port : RaftPort) (lane : BitVec 3) (s : State) : Host.Outcome State Fault Refusal :=
  done (if s.awake && s.hopUp port.toNat then s.laneError port.toNat lane.toNat else s)

/-- DOWN_NOTICE_RECEIVED (R322): the hop goes down in the same way. -/
def execDownNoticeReceived (port : RaftPort) (s : State) : Host.Outcome State Fault Refusal :=
  done (if s.awake && s.hopUp port.toNat then s.hopDown port.toNat 0xFF else s)

/-- Can a port use a set of lanes (R323): a set of the table, with no lane fenced at either end? -/
def RafterLink.usable (x : RafterLink) (lanes peerUsable : BitVec 8) : Bool :=
  laneSets.contains lanes.toNat && (lanes &&& x.fencedOwn) == 0 && (lanes &&& ~~~ peerUsable) == 0

/-- A hop has come up: the first hop of a sled outside every cascade floods its claim (R352); a member with a new neighbour reports
it (R324). -/
def State.afterRise (s : State) (before : State) (p : Nat) : State :=
  if !s.casc.joined then (if before.anyHop then s else s.claimFirst)
  else if (s.rport p).peer != (before.rport p).peer then s.reportNeighbours
  else s

/-- A port without a usable set (R323, R324): event 0A04h. -/
def State.portDown (s : State) (p : Nat) : State :=
  let s := s.onRport p fun x => { x with phase := .down, lanes := 0 }
  let x := s.rport p
  let s := s.raiseAll 0x0A04 .failure (le 1 p ++ le 1 x.fencedOwn.toNat ++ le 1 x.fencedPeer.toNat)
  s.checkStandalone.recompute

/-- The end of a training (R323): lanes that erred are fenced; the hop rejoins with its set, or the port goes down. -/
def State.trained (s : State) (p : Nat) (x : HopTraining) : State :=
  let before := s
  let old := s.rport p
  let s := foldState (fun s l => s.fenceLane p l 1) s ((List.range 8).filter fun l => bitAt x.erred.toNat l)
  let kind := if old.lanes = 0 then 3 else if x.lanes = old.lanes then 1 else 2
  if x.clean && (s.rport p).usable x.lanes x.peerUsable then (s.hopRise p x kind).afterRise before p
  else (s.onRport p fun r => { r with fencedPeer := ~~~ x.peerUsable }).portDown p

/-- HOP_TRAINING_DONE (R323, R324, R344, R355). -/
def execHopTrainingDone (port : RaftPort) (result : HopTraining) (s : State) : Host.Outcome State Fault Refusal :=
  done (if s.awake && (s.rport port.toNat).phase == .training then s.trained port.toNat result else s)

/-- PORT_RETRY_TIMER (R324): once a second a port that is down attempts the x2 sets, and rejoins when one trains clean. -/
def execPortRetryTimer (port : RaftPort) (result : HopTraining) (s : State) : Host.Outcome State Fault Refusal :=
  let p := port.toNat
  if s.awake && (s.rport p).phase == .down && result.clean && [0x03, 0x0C, 0x30, 0xC0].contains result.lanes.toNat then
    done ((s.hopRise p result 3).afterRise s p)
  else done s

/-- FORWARD_AGE_DROP (R328): the oldest forwarded packet of a port has waited 1 ms. -/
def execForwardAgeDrop (port : RaftPort) (s : State) : Host.Outcome State Fault Refusal :=
  match (s.rport port.toNat).egress with
  | [] => done s
  | _ :: rest => done ((s.onRport port.toNat fun x => { x with egress := rest }).dropPacket port.toNat 5).refillGutter

/-- EGRESS_PACKET_SEND (R329): the port sends its next packet. -/
def execEgressPacketSend (port : RaftPort) (s : State) : Host.Outcome State Fault Refusal := done (s.egress port.toNat)

/-! ## Timers of a pair -/

/-- ACK_TIMER (R337): 1 µs after a packet was accepted with nothing sent back, an ack packet goes. -/
def execAckTimer (peer : SledId) (s : State) : Host.Outcome State Fault Refusal :=
  let p := s.peer peer.toNat
  done (if s.awake && p.hasRecv && p.ackDue then s.sendUnsequenced peer.toNat 5 [] else s)

/-- REPLAY_TIMER (R341, R342, R344): the announce of a pair that is not confirmed goes again; the unacknowledged entries of a live one
are replayed, and its new packets wait for its primary hop no longer. -/
def execReplayTimer (peer : SledId) (s : State) : Host.Outcome State Fault Refusal :=
  let d := peer.toNat
  let p := s.peer d
  done (match p.st with
    | .none => s
    | .syncing => s.announce d
    | .unreachable => s.announce d
    | .live =>
      let s := if p.unacked then s.replay d else s
      (s.onPeer d fun p => { p with returning := false }).pump d)

/-- Relayed commands to a sled that became unreachable end with Retry Required (R391). -/
def State.failRelays (s : State) (d : SledId) : State :=
  let gone := s.purlin.relays.filter fun x => x.target == d
  let s := s.onPurlin fun p => { p with relays := p.relays.filter fun x => x.target != d }
  foldState (fun s (x : RelayWait) => s.reply x.path 0xC002 .retryRequired (le 2 1 ++ zeros 6)) s gone

/-- PAIR_UNREACHABLE (R343, R364): held writes are reported lost, waiting reads poisoned, the pair purged, and the ridge told; writes of
mirrored ranges and mirror copies wait for the ridge's decision. -/
def execPairUnreachable (peer : SledId) (s : State) : Host.Outcome State Fault Refusal :=
  let d := peer.toNat
  let p := s.peer d
  if p.st = .none ∨ p.st = .unreachable then done s
  else
    let (s, writes, reads) := s.loseEntries d true fun _ => true
    let s := s.onPeer d fun p => { p with st := .unreachable, returning := false }
    let s := s.raiseAll 0x0A06 .failure (le 2 d ++ le 4 writes ++ le 4 reads)
    let s := s.failRelays peer
    done (if !s.casc.joined then s
      else if s.casc.role = .ridge then s.probe d
      else s.emit (.control (some s.casc.ridge) (.unreachable d)))

/-! ## Commands -/

/-- The state byte of C280h. -/
def PortPhase.code : PortPhase → Nat
  | .disabled => 0 | .down => 1 | .training => 2 | .up => 3

/-- The lane mask in use: 00h where the hop is not up. -/
def RafterLink.mask (x : RafterLink) : Nat := if x.phase = .up then x.lanes.toNat else 0

/-- C280h Get Rafter Port Status. -/
def execGetRafterPortStatus (p : Path) (port : BitVec 8) (s : State) : Host.Outcome State Fault Refusal :=
  done (s.command (.getRafterPortStatus p port) p 0xC280 fun s =>
    if 3 < port.toNat then refuse s .invalidInput
    else
      let x := s.rport port.toNat
      let (peer, peerPort) := match x.peer with
        | some y => (y.1.toNat, y.2)
        | none => ((Config.noPeer port.toNat).1.toNat, (Config.noPeer port.toNat).2.toNat)
      (s, .success, le 2 0 ++ le 1 x.phase.code ++ le 1 x.mask ++ le 1 x.fencedOwn.toNat ++ le 1 x.fencedPeer.toNat ++ le 2 peer
        ++ le 1 peerPort ++ zeros 3 ++ (x.parity.flatMap fun n => le 4 n) ++ le 4 x.losses ++ le 4 x.rejoins ++ le 8 x.forwarded
        ++ le 8 x.dropped ++ le 4 (ceilDiv x.spilled 1024) ++ le 4 x.longestDown))

/-- The state byte of C281h. -/
def PairState.code : PairState → Nat
  | .none => 0 | .syncing => 1 | .live => 2 | .unreachable => 3

/-- C281h Get Transport Pair. -/
def execGetTransportPair (p : Path) (peer : BitVec 16) (s : State) : Host.Outcome State Fault Refusal :=
  done (s.command (.getTransportPair p peer) p 0xC281 fun s =>
    let d := peer.toNat
    if 1023 < d then refuse s .invalidInput
    else
      let x := s.peer d
      let r := s.route d
      (s, .success, le 2 0 ++ le 1 x.st.code ++ le 1 (routePrimary r + 4 * routeAlternate r + 16 * s.pairPort d) ++ le 4 x.nextSeq
        ++ le 4 x.lowest ++ le 4 x.lastAck ++ le 2 (s.link.credits - x.taken) ++ le 2 s.link.credits ++ le 4 x.held.length
        ++ le 4 x.expect ++ le 4 x.recvEpoch ++ le 8 x.replays ++ le 8 x.duplicates ++ le 8 x.resent ++ le 8 x.lost))

/-- C282h Set Transport Policy. -/
def execSetTransportPolicy (p : Path) (credits replayUs : BitVec 16) (unreachUs : BitVec 32) (s : State) : Host.Outcome State Fault Refusal :=
  done (s.privileged (.setTransportPolicy p credits replayUs unreachUs) p 0xC282 fun s =>
    let ok := decide (1 ≤ credits.toNat) && decide (credits.toNat ≤ 1024) && decide (20 ≤ replayUs.toNat) && decide (replayUs.toNat ≤ 400)
      && decide (1500 ≤ unreachUs.toNat) && decide (unreachUs.toNat ≤ 1000000)
    if !ok then refuse s .invalidInput
    else
      let s := s.onLink fun l => { l with credits := credits.toNat, replayUs := replayUs.toNat, unreachableUs := unreachUs.toNat }
      let s := foldState State.pump s (Sparse.keys s.link.peers)
      (s, .success, s.status 0 true))

/-- A hop goes down by a command, and trains again (R348). -/
def State.retrainHop (s : State) (p : Nat) : State :=
  match (s.rport p).phase with
  | .up => s.hopDown p 0xFF
  | .down => s.onRport p fun x => { x with phase := .training }
  | _ => s

/-- C283h Set Rafter Port. -/
def execSetRafterPort (p : Path) (port action : BitVec 8) (s : State) : Host.Outcome State Fault Refusal :=
  done (s.privileged (.setRafterPort p port action) p 0xC283 fun s =>
    let q := port.toNat
    if 3 < q ∨ 3 < action.toNat then refuse s .invalidInput
    else
      let a := action.toNat
      let s :=
        if a = 0 then
          let s := if s.hopUp q then s.hopDown q 0xFF else s
          (s.onRport q fun x => { x with phase := .disabled, enabled := false, lanes := 0 }).checkStandalone
        else if a = 1 then
          s.onRport q fun x =>
            { x with enabled := true, phase := if x.phase = .disabled ∧ s.boot.rafterEnabled then .training else x.phase }
        else if a = 2 then (s.onRport q fun x => { x with fencedOwn := 0 }).retrainHop q
        else s.retrainHop q
      (s, .success, s.status 0 (decide (a < 2)) ++ le 1 (s.rport q).mask ++ zeros 1))

end Sys2Proof.Machine
end

