-- ==== Sys2Proof/Machine/Cascade.lean ====
section
/-! DEFINITION. The cascade's messages, timers and commands (spec/11_cascade.md R350 to R367; link keys: spec/06_flashing.md
R222). -/

namespace Sys2Proof.Machine

/-! ## Claims and the ridge -/

/-- RIDGE_CLAIM_MESSAGE (R352, R353): a better claim than any heard is flooded on; a ridge that meets a higher term gives up the
role. -/
def execRidgeClaimMessage (port : RaftPort) (claim : Claim) (s : State) : Host.Outcome State Fault Refusal :=
  if !s.awake || !s.hopUp port.toNat then done s
  else
    let s := if s.casc.role = .ridge ∧ s.casc.term < claim.term.toNat then s.stepDown else s
    let best := match s.casc.best, s.ownClaim with
      | some b, some o => some (if betterClaim b o then b else o)
      | some b, none => some b
      | none, o => o
    let better := match best with
      | some b => betterClaim claim b
      | none => true
    let s := s.onCasc fun c =>
      { c with
        claims := (c.claims.filter fun x => x.id != claim.id) ++ [claim]
        highest := max c.highest claim.term.toNat
        best := if better then some claim else c.best }
    done (if better then s.emit (.control none (.claim claim)) else s)

/-- RIDGE_CLAIM_TIMEOUT (R352, R355): 20 ms without a better claim. The sled takes the ridge role where its own is the best; else it
asks the best claimant to join. A sled without a hop is standalone (R350). -/
def execRidgeClaimTimeout (s : State) : Host.Outcome State Fault Refusal :=
  if s.casc.joined || !s.anyHop then done s
  else
    match s.ownClaim, s.casc.best with
    | some o, some b => done (if betterClaim b o then s.askJoin b.id else s.becomeRidge o.id.toNat)
    | some o, none => done (s.becomeRidge o.id.toNat)
    | none, some b => done (s.askJoin b.id)
    | none, none => done s

/-- HEARTBEAT_SEND (R353). -/
def execHeartbeatSend (s : State) : Host.Outcome State Fault Refusal :=
  match s.casc.role, s.casc.deputy with
  | .ridge, some d => done (s.emit (.control (some d) (.heartbeat s.casc.term)))
  | _, _ => done s

/-- HEARTBEAT_RECEIVED (R353): the deputy's timeout starts again; a ridge that meets a higher term gives up the role. -/
def execHeartbeatReceived (_src : SledId) (term : BitVec 32) (s : State) : Host.Outcome State Fault Refusal :=
  let s := if s.casc.role = .ridge ∧ s.casc.term < term.toNat then s.stepDown else s
  done (s.onCasc fun c => { c with highest := max c.highest term.toNat })

/-- The deputy takes the ridge role in a term (R353, R384): it announces the term and names a new deputy. -/
def State.takeRole (s : State) (term : Nat) : State :=
  let old := s.casc.ridge.toNat
  let s := s.onCasc fun c =>
    { c with
      role := .ridge, ridge := c.sledId, term, highest := max c.highest term, changes := [], probes := []
      map := (c.map.setRole c.sledId.toNat .ridge).setRole old .member }
  let s := s.onCasc fun c => { c with deputy := s.newDeputy fun d => d != old && s.casc.map.alive.contains d }
  let s := s.onCasc fun c =>
    { c with map := match c.deputy with | some d => c.map.setRole d.toNat .deputy | none => c.map }
  (s.announceTerm).ridgeChanged 2

/-- HEARTBEAT_TIMEOUT (R353): the deputy takes the ridge role with the term raised by one. -/
def execHeartbeatTimeout (s : State) : Host.Outcome State Fault Refusal :=
  done (if s.casc.role ≠ .deputy then s else s.takeRole (s.casc.term + 1))

/-- RIDGE_TERM_ANNOUNCE (R353): members follow the highest term they have seen; a ridge of a lower term becomes a member.
An announcement that names the deputy itself hands it the role (R384). `src` is the ridge that the announcement names. -/
def execRidgeTermAnnounce (src : SledId) (term : BitVec 32) (deputy : Option SledId) (s : State) : Host.Outcome State Fault Refusal :=
  if term.toNat < s.casc.highest then done s
  else if s.casc.role = .deputy ∧ src = s.casc.sledId ∧ s.casc.term < term.toNat then done (s.takeRole term.toNat)
  else
    let was := s.casc
    let s := if s.casc.term < term.toNat then s.stepDown else s
    let s := s.onCasc fun c => { c with highest := max c.highest term.toNat }
    if !s.casc.joined then
      done (s.onCasc fun c =>
        { c with best := match c.best with
            | some b => if b.term.toNat ≤ term.toNat then some { b with term, id := src } else some b
            | none => some { term, id := src } })
    else
      let s := s.onCasc fun c =>
        { c with
          ridge := src, term := term.toNat, deputy
          role := if c.role = .ridge then .ridge else if deputy = some c.sledId then .deputy else .member }
      done (if was.ridge ≠ src then s.ridgeChanged (if was.deputy = some src then 2 else 1) else s)

/-! ## Changes -/

/-- MAP_CHANGE_ACK (R354): the deputy's acknowledgement brings a change into force. -/
def execMapChangeAck (src : SledId) (version : BitVec 32) (s : State) : Host.Outcome State Fault Refusal :=
  done (if s.casc.role == .ridge && s.casc.deputy == some src then s.acknowledged version.toNat else s)

/-- CASCADE_MAP_UPDATE (R353, R354, R364): a change from the ridge of the highest term comes into force; the deputy acknowledges it. -/
def execCascadeMapUpdate (src : SledId) (update : MapUpdate) (s : State) : Host.Outcome State Fault Refusal :=
  if !s.casc.joined || s.casc.role == .ridge || decide (update.term.toNat < s.casc.highest) || src != s.casc.ridge then done s
  else
    let s := s.applyMap (mapOfImage update.map)
    done (if s.casc.role = .deputy then s.emit (.control (some src) (.mapAck update.map.version.toNat)) else s)

/-- ROUTE_UPDATE (R324, R353, R361): at the ridge, neighbour lists that members report give new routes to every member; at a member, its
routing row from the ridge. -/
def execRouteUpdate (src : SledId) (term : BitVec 32) (neighbours : List (SledId × List (RaftPort × SledId)))
    (routes : List (SledId × BitVec 16)) (s : State) : Host.Outcome State Fault Refusal :=
  if !s.casc.joined then done s
  else if s.casc.role = .ridge then
    let m := s.latestMap
    let m := { m with members := m.members.map fun (x : Nat × Member) =>
      match neighbours.find? fun n => n.1.toNat == x.1 with
      | some n => (x.1, { x.2 with neighbours := n.2 })
      | none => x }
    done (s.propose { map := m })
  else if decide (term.toNat < s.casc.highest) || src != s.casc.ridge then done s
  else
    done (s.onCasc fun c =>
      { c with map := { c.map with
          members := c.map.members.map fun (x : Nat × Member) =>
            match neighbours.find? fun n => n.1.toNat == x.1 with
            | some n => (x.1, { x.2 with neighbours := n.2 })
            | none => x
          routes := routes.foldl (fun t x => Sparse.set 0 t x.1.toNat x.2) c.map.routes } })

/-- JOIN_REQUEST (R350, R355): the ridge takes a join. -/
def execJoinRequest (port : RaftPort) (join : JoinReq) (s : State) : Host.Outcome State Fault Refusal :=
  done (if s.awake && s.hopUp port.toNat && s.casc.role == .ridge then s.join join else s)

/-- JOIN_COMPLETE (R350, R355): the joining sled receives its grant. -/
def execJoinComplete (grant : JoinGrant) (s : State) : Host.Outcome State Fault Refusal :=
  done (if s.casc.joined then s else s.takeGrant grant)

/-- UNREACHABLE_PAIR_REPORT (R364): the ridge probes the member named. -/
def execUnreachablePairReport (_src : SledId) (member : SledId) (s : State) : Host.Outcome State Fault Refusal :=
  done (if s.casc.role = .ridge then s.probe member.toNat else s)

/-- MEMBER_PROBE_TIMEOUT (R364): a probed member has not replied within 200 µs. -/
def execMemberProbeTimeout (member : SledId) (s : State) : Host.Outcome State Fault Refusal :=
  done (if s.casc.role == .ridge && s.casc.probes.contains member then s.declareLost member.toNat else s)

/-- LINK_KEY_CONFIRMATION (R222): at the ridge, a member has the new key or has stopped using the old one; at a member, the ridge sends
the new key, has the senders switch, or withdraws the old key. -/
def execLinkKeyConfirmation (src : SledId) (keyId : BitVec 2) (stopped : Bool) (wrapped : List Byte) (s : State) : Host.Outcome State Fault Refusal :=
  if s.casc.role = .ridge then
    done ((s.onFlash fun f =>
      { f with rotation := f.rotation.map fun (r : Rotation) =>
          if r.newId ≠ keyId then r
          else if stopped then { r with stopped := r.stopped.filter (· != src) ++ [src] }
          else { r with confirmed := r.confirmed.filter (· != src) ++ [src] } }).settleRotation)
  else if !s.casc.joined || src != s.casc.ridge then done s
  else if !wrapped.isEmpty then
    match (s.wrapKey (.member src)).bind fun k => Crypto.keyUnwrap k wrapped with
    | some key =>
      done ((s.onFlash fun f => { f with linkKeys := Sparse.set [] f.linkKeys keyId.toNat key }).emit
        (.control (some src) (.linkKeyConfirm keyId false)))
    | none => done s
  else if stopped then done (s.onFlash fun f => { f with linkKeys := Sparse.erase f.linkKeys (keyId - 1).toNat })
  else
    done (((s.onFlash fun f => { f with linkId := keyId }).onLink fun l => { l with sealedCount := 0 }).emit
      (.control (some src) (.linkKeyConfirm keyId true)))

/-! ## Mirrors -/

/-- MIRROR_COPY (R336, R362, R364, R365): a copy is taken in the order of its pair and executed. -/
def execMirrorCopy (lead : SledId) (copy : MirrorCopy) (s : State) : Host.Outcome State Fault Refusal :=
  if !s.awake then done s
  else
    let (s, taken) := (s.wakeDrowse 3).takeSeq lead.toNat copy.seq.toNat
    done (if taken then s.executeCopy lead.toNat copy.seq.toNat copy else s)

/-- RESILVER_STEP (R365): the lead copies the course at the watermark. -/
def execResilverStep (range : BitVec 12) (usable : Bool) (s : State) : Host.Outcome State Fault Refusal :=
  done (if s.awake then s.resilverStep range.toNat usable else s)

/-! ## Commands -/

/-- C2C0h Get Cascade Status. -/
def execGetCascadeStatus (p : Path) (s : State) : Host.Outcome State Fault Refusal :=
  done (s.command (.getCascadeStatus p) p 0xC2C0 fun s =>
    let c := s.casc
    let count (f : Range → Bool) : Nat := (c.map.ranges.filter fun (x : Nat × Range) => x.2.kind != .free && f x.2).length
    let alone := c.role == .standalone
    (s, .success, le 2 0 ++ le 1 c.role.code ++ zeros 1 ++ le 2 (if alone then 0 else c.sledId.toNat)
      ++ le 2 (if alone then Config.noRidge.toNat else c.ridge.toNat)
      ++ le 2 (match c.deputy with | some d => d.toNat | none => Config.noDeputy.toNat)
      ++ le 2 c.map.members.length ++ le 4 c.term ++ le 4 c.map.version ++ le 2 (count fun _ => true) ++ le 2 (count (·.degraded))
      ++ le 2 (count (·.resilvering)) ++ zeros 2))

/-- May a path carry the restricted commands of the cascade (R366)? The rafter-borne mailbox carries them for the fabric's paths and,
on path 3, for the ridge of the current term (R378). -/
def State.cascadePath (s : State) (p : Path) : Bool := Path.privileged p || s.fromRidge p

/-- Does a segment's member hold its local blocks: it is a member, not lost, they lie in its local course space, are no other segment's,
and for this sled neither accepted, offered nor bound (R356, R358)? -/
def State.segmentOk (s : State) (m : CascadeMap) (len : Nat) (others : List (Nat × Nat × Nat)) (g : Segment) : Bool :=
  let lo := g.base.toNat
  let hi := lo + len
  m.alive.contains g.sled.toNat && !g.lost && decide (hi ≤ (if g.sled.toNat = s.me then s.blocks else 16384))
    && !(others.any fun o => o.1 == g.sled.toNat && decide (o.2.1 < hi) && decide (lo < o.2.2))
    && (g.sled.toNat != s.me || (List.range len).all fun i => s.blockFree (lo + i))

/-- The local blocks of a map's segments: sled, first, end. -/
def CascadeMap.spans (m : CascadeMap) : List (Nat × Nat × Nat) :=
  (m.ranges.filter fun (x : Nat × Range) => x.2.kind != .free).flatMap fun (x : Nat × Range) =>
    (m.segmentsOf x.2).map fun g => (g.sled.toNat, g.base.toNat, g.base.toNat + x.2.segmentBlocks)

/-- Are some segments of length `len` sound one after the other? -/
def State.segmentsOk (s : State) (m : CascadeMap) (len : Nat) : List (Nat × Nat × Nat) → List Segment → Bool
  | _, [] => true
  | spans, g :: rest =>
    s.segmentOk m len spans g && s.segmentsOk m len ((g.sled.toNat, g.base.toNat, g.base.toNat + len) :: spans) rest

/-- Does an entry keep R356: its kind, segments and length, and no other range in its cascade blocks or segment entries? -/
def CascadeMap.entryOk (m : CascadeMap) (i : Nat) (r : Range) (count : Nat) : Bool :=
  let others := m.ranges.filter fun (x : Nat × Range) => x.1 != i && x.2.kind != .free
  let n := r.n
  (match r.kind with
    | .free => false
    | .concatenated => decide (1 ≤ n) && decide (n ≤ 64)
    | .interleaved => decide (2 ≤ n) && decide (n ≤ 64)
    | .mirrored => n == 2)
    && decide (1 ≤ r.length) && r.length % max n 1 == 0 && count == n && decide (r.base + r.length ≤ 2 ^ 24)
    && decide (r.first + n ≤ 65536)
    && !(others.any fun (x : Nat × Range) => decide (x.2.base < r.base + r.length) && decide (r.base < x.2.base + x.2.length))
    && !(others.any fun (x : Nat × Range) => decide (x.2.first < r.first + n) && decide (r.first < x.2.first + x.2.n))

/-- A map with a range put in. -/
def CascadeMap.putRange (m : CascadeMap) (i : Nat) (r : Range) (gs : List Segment) : CascadeMap :=
  { m with
    ranges := Sparse.set {} m.ranges i r
    segments := gs.zipIdx.foldl (fun t x => Sparse.set {} t (r.first + x.2) x.1) m.segments }

/-- The map that Set Cascade Range makes, or its refusal (C2C1h, R356, R358, R365). -/
def State.rangeChange (s : State) (m : CascadeMap) (action i : Nat) (entry : RangeSpec) (segs : List Segment) : Except ReturnCode CascadeMap :=
  let old := Sparse.get {} m.ranges i
  if 4095 < i then .error .invalidInput
  else if action = 1 then
    let r := rangeOfSpec { entry with flags := entry.flags &&& 4 }
    let r := { r with watermark := 0, leadIsOne := r.leadIsOne && r.kind == .mirrored }
    if old.kind ≠ .free ∨ 3 < entry.kind.toNat ∨ !(m.entryOk i r segs.length) then .error .invalidInput
    else if !(s.segmentsOk m r.segmentBlocks m.spans segs) then .error .invalidInput
    else .ok (m.putRange i r segs)
  else if action = 2 then
    let used := s.casc.extents.any fun e => decide (e.base < old.base + old.length) && decide (old.base < e.base + e.blocks)
    if old.kind = .free then .error .invalidInput
    else if used then .error .busy
    else
      .ok { m with
        ranges := Sparse.erase m.ranges i
        segments := (List.range old.n).foldl (fun t j => Sparse.erase t (old.first + j)) m.segments }
  else if action = 3 then
    let j := 1 - old.lead
    match segs with
    | [g] =>
      if old.kind ≠ .mirrored ∨ !old.degraded ∨ !(m.segment old j).lost ∨ (m.segment old old.lead).lost then .error .invalidInput
      else if !(s.segmentsOk m old.segmentBlocks m.spans [g]) then .error .invalidInput
      else
        .ok { m with
          segments := Sparse.set {} m.segments (old.first + j) g
          ranges := Sparse.set {} m.ranges i { old with resilvering := true, watermark := 0 } }
    | _ => .error .invalidInput
  else .error .invalidInput

/-- C2C1h Set Cascade Range: on the ridge; its reply waits for the deputy (R354). -/
def execSetCascadeRange (p : Path) (action : BitVec 8) (index : BitVec 16) (entry : RangeSpec) (segments : List (BitVec 32)) (s : State) : Host.Outcome State Fault Refusal :=
  let i : Instr := .setCascadeRange p action index entry segments
  let change (s : State) : Except ReturnCode PendingChange :=
    if !s.cascadePath p || s.casc.role != .ridge then .error .unsupported
    else
      match s.rangeChange s.latestMap action.toNat index.toNat entry (segments.map fun x => segmentOf x.toNat) with
      | .error rc => .error rc
      | .ok map => .ok { map, path := some p, range := some (index.toNat, action.toNat) }
  done (s.deferred i p 0xC2C1 fun s =>
    match change s with
    | .error rc => (s, some rc)
    | .ok c => (s.propose c, none))

/-- C2C2h Get Cascade Range. -/
def execGetCascadeRange (p : Path) (index : BitVec 16) (s : State) : Host.Outcome State Fault Refusal :=
  done (s.command (.getCascadeRange p index) p 0xC2C2 fun s =>
    let i := index.toNat
    if 4095 < i then refuse s .invalidInput
    else
      let r := Sparse.get {} s.casc.map.ranges i
      (s, .success, le 2 0 ++ le 2 (min (Sparse.get 0 s.casc.lastSkipped i) 0xFFFF) ++ specBytes r.spec
        ++ (s.casc.map.segmentsOf r).flatMap fun g => le 4 g.toBits))

/-- C2C3h Add Cascade Extent (R359). -/
def execAddCascadeExtent (p : Path) (ld : LdId) (region : BitVec 8) (base : BitVec 24) (blocks : BitVec 32) (dpa : BitVec 64) (s : State) : Host.Outcome State Fault Refusal :=
  done (s.command (.addCascadeExtent p ld region base blocks dpa) p 0xC2C3 fun s =>
    let n := blocks.toNat
    let x := dpa.toNat / blockBytes
    let inRange (b : Nat) : Bool := (s.casc.map.rangeAt b).isSome
    if !s.cascadePath p then refuse s .unsupported
    else if !s.ready rdyCascade then refuse s .busy
    else if !s.ldExists ld ∨ region.toNat = 0 ∨ 7 < region.toNat ∨ n = 0 ∨ dpa.toNat % blockBytes ≠ 0 ∨ s.maxBlocks < x + n ∨ 2 ^ 24 < base.toNat + n
        then refuse s .invalidInput
    else if !(List.range n).all (fun i => inRange (base.toNat + i) && !s.extTaken ld (x + i)) then refuse s .invalidInput
    else
      let s := s.onCasc fun c => { c with extents := c.extents ++ [{ ld, dpaBlock := x, region := region.toNat, base := base.toNat, blocks := n }] }
      (s.logTo ld .dynamicCapacity (dcRecord 0 region.toNat (x * blockBytes) n), .success, s.status 0 false))

/-- C2C4h Get Cascade Route. -/
def execGetCascadeRoute (p : Path) (sled : BitVec 16) (s : State) : Host.Outcome State Fault Refusal :=
  done (s.command (.getCascadeRoute p sled) p 0xC2C4 fun s =>
    if 1023 < sled.toNat then refuse s .invalidInput else (s, .success, le 2 0 ++ le 2 (s.route sled.toNat)))

/-- C2C5h Set Cascade Policy. -/
def execSetCascadePolicy (p : Path) (timeout : BitVec 16) (rate : BitVec 8) (eligible : Bool) (s : State) : Host.Outcome State Fault Refusal :=
  done (s.command (.setCascadePolicy p timeout rate eligible) p 0xC2C5 fun s =>
    if !s.cascadePath p then refuse s .unsupported
    else if timeout.toNat < 12 ∨ 100 < timeout.toNat ∨ rate.toNat < 2 ∨ 22 < rate.toNat then refuse s .invalidInput
    else
      let s := s.onCasc fun c => { c with timeout := timeout.toNat, rate := rate.toNat, eligible }
      (s, .success, s.status 0 true))

end Sys2Proof.Machine
end

