-- ==== Sys2Proof/Machine/Mailbox.lean ====
section
/-! DEFINITION. The standard general commands and background commands (spec/12_purlin_and_mailboxes.md R376, R377, R391;
spec/01_host_view.md R20, R46, R48, R49), and the ends of event periods (spec/19_electrical_and_thermal_limits.md R519). The payloads
that the manual leaves to CXL 3.1 are those of notes/assumptions/29.md. -/

namespace Sys2Proof.Machine

/-- The payload limit of a path (R370). -/
def Path.limit : Path → Nat
  | .rafter _ _ _ => 1008
  | _ => 4096

/-- Byte `i` of the SPI NOR (R380); an erased byte reads FFh. -/
def Firmware.norAt (f : Firmware) (i : Nat) : Byte := Sparse.get 0xFF f.nor i
/-- `n` bytes of the SPI NOR from `i`. -/
def Firmware.norBytes (f : Firmware) (i n : Nat) : List Byte := (List.range n).map fun k => f.norAt (i + k)
/-- The first byte of a slot (R380). -/
def slotBase (slot : Nat) : Nat := if slot = 2 then 0x2000000 else 0
/-- The state of a slot. -/
def Firmware.slot (f : Firmware) (slot : Nat) : SlotState := if slot = 2 then f.slot2 else f.slot1
/-- The revision of the image in a slot (R380 bytes 16 to 31); zeros for an empty slot. -/
def Firmware.revision (f : Firmware) (slot : Nat) : List Byte :=
  if f.slot slot = .empty then zeros 16 else f.norBytes (slotBase slot + 16) 16
/-- The security version number of the image in a slot (R380 byte 32); 0 for an empty slot. -/
def Firmware.number (f : Firmware) (slot : Nat) : Nat := if f.slot slot = .empty then 0 else (f.norAt (slotBase slot + 32)).toNat

/-- Does firmware run (R397)? -/
def State.firmwareRuns (s : State) : Bool := s.ready rdyFw && !s.ready rdyRecovery

/-- The revision that runs; zeros while none does (notes/assumptions/29.md). -/
def State.runningRevision (s : State) : List Byte :=
  if s.firmwareRuns then s.purlin.fw.revision s.purlin.fw.running else zeros 16

/-! ## Identify, logs, events, timestamp -/

/-- Identify Memory Device (4000h): static capacity as total and volatile capacity in units of 256 MiB (R32), event logs of 256
(R20), a poison list of 8,192 and 64 injected lines (R46, R48). -/
def execIdentifyMemoryDevice (p : Path) (s : State) : Host.Outcome State Fault Refusal :=
  done (s.command (.identifyMemoryDevice p) p 0x4000 fun s =>
    let cap := if s.cap.memActive && s.issuing p == s.cap.staticLd then 256 else 0
    (s, .success, s.runningRevision ++ le 8 cap ++ le 8 cap ++ zeros 8 ++ zeros 8 ++ le 2 256 ++ le 2 256 ++ le 2 256 ++ le 2 256
      ++ zeros 4 ++ le 3 8192 ++ le 2 64 ++ le 2 Config.identifyCaps.toNat ++ le 2 256))

/-- The vendor opcodes that the chapters define, first and last of each run. -/
def vendorRuns : List (Nat × Nat) :=
  [(0xC000, 0xC002), (0xC040, 0xC045), (0xC080, 0xC084), (0xC0C0, 0xC0C5), (0xC100, 0xC107), (0xC140, 0xC143), (0xC180, 0xC188),
   (0xC1C0, 0xC1C7), (0xC200, 0xC208), (0xC240, 0xC246), (0xC280, 0xC283), (0xC2C0, 0xC2C5), (0xC300, 0xC303), (0xC340, 0xC342),
   (0xC380, 0xC385), (0xC3C0, 0xC3C4), (0xC400, 0xC401), (0xC440, 0xC445), (0xC480, 0xC481), (0xC4C0, 0xC4C0)]

/-- The standard opcodes that the sled supports (R42, R48, R49, R383, R391). -/
def standardOps : List Nat :=
  [0x0002, 0x0005, 0x0100, 0x0101, 0x0102, 0x0103, 0x0200, 0x0201, 0x0202, 0x0300, 0x0301, 0x0400, 0x0401, 0x4000, 0x4300, 0x4301, 0x4302,
   0x4400, 0x4401]

/-- Every opcode of the sled. -/
def allOps : List Nat := standardOps ++ vendorRuns.flatMap fun r => (List.range (r.2 + 1 - r.1)).map (r.1 + ·)

/-- The command effects log of CXL: an opcode and its effects for each command (notes/assumptions/29.md). -/
def effectsLog : List Byte := allOps.flatMap fun o => le 2 o ++ le 2 (Config.commandEffect o).toNat

/-- The identifier of the command effects log, in the order of its bytes. -/
abbrev effectsId : BitVec 128 := 0x0DA9C0B5BF414B788F7996B1623B3F17

/-- Get Supported Logs (0400h): the command effects log. -/
def execGetSupportedLogs (p : Path) (s : State) : Host.Outcome State Fault Refusal :=
  done (s.command (.getSupportedLogs p) p 0x0400 fun s =>
    (s, .success, le 2 1 ++ zeros 6 ++ be 16 effectsId.toNat ++ le 4 effectsLog.length))

/-- Get Log (0401h). -/
def execGetLog (p : Path) (uuid : BitVec 128) (offset length : BitVec 32) (s : State) : Host.Outcome State Fault Refusal :=
  done (s.command (.getLog p uuid offset length) p 0x0401 fun s =>
    if uuid ≠ effectsId then refuse s .invalidLog
    else if effectsLog.length < offset.toNat + length.toNat ∨ Path.limit p < length.toNat then refuse s .invalidInput
    else (s, .success, slice effectsLog offset.toNat length.toNat))

/-- A record as Get Event Records gives it: 48 bytes of header and 80 of data. -/
def eventRecordBytes (log : EventLog) (r : EventRecord) : List Byte :=
  let id := if log = .dynamicCapacity then 0xCA95AFA7F18340188C2F95268E101A2A else Config.vendorRecord.toNat
  be 16 id ++ le 1 128 ++ le 3 (logIndex log % 4) ++ le 2 r.handle ++ zeros 2 ++ le 8 r.time ++ zeros 16 ++ slice r.data 0 80

/-- Get Event Records (0100h), oldest first (R49). -/
def execGetEventRecords (p : Path) (log : EventLog) (s : State) : Host.Outcome State Fault Refusal :=
  done (s.command (.getEventRecords p log) p 0x0100 fun s =>
    let l := (s.ld (s.issuing p).toNat).log log
    let room := (Path.limit p - 32) / 128
    let rs := l.records.take room
    (s, .success, le 1 (b2n (decide (0 < l.overflow)) + 2 * b2n (decide (room < l.records.length))) ++ zeros 1 ++ le 2 l.overflow
      ++ le 8 l.firstOverflow ++ le 8 l.lastOverflow ++ le 2 rs.length ++ zeros 10 ++ rs.flatMap (eventRecordBytes log)))

/-- The log without records that a clear removes, its overflow handled. -/
def EventLogState.cleared (l : EventLogState) (n : Nat) : EventLogState :=
  { l with records := l.records.drop n, overflow := 0, firstOverflow := 0, lastOverflow := 0 }

/-- Clear Event Records (0101h): all of an overflowed log, or the oldest records by their handles in order (R49). -/
def execClearEventRecords (p : Path) (log : EventLog) (all : Bool) (handles : List (BitVec 16)) (s : State) : Host.Outcome State Fault Refusal :=
  done (s.command (.clearEventRecords p log all handles) p 0x0101 fun s =>
    let l := (s.issuing p).toNat
    let x := (s.ld l).log log
    if all then
      if x.overflow = 0 then refuse s .invalidInput
      else (s.onLd l fun d => d.setLog log (x.cleared x.records.length), .success, [])
    else if (x.records.take handles.length).map (·.handle) = handles.map (·.toNat) then
      (s.onLd l fun d => d.setLog log (x.cleared handles.length), .success, [])
    else refuse s .invalidHandle)

/-- Get Event Interrupt Policy (0102h). -/
def execGetEventInterruptPolicy (p : Path) (s : State) : Host.Outcome State Fault Refusal :=
  done (s.command (.getEventInterruptPolicy p) p 0x0102 fun s => (s, .success, le 5 (s.ld (s.issuing p).toNat).policy.toNat))

/-- Set Event Interrupt Policy (0103h): no interrupt, an interrupt to the host, or one to firmware, for each log (R49). -/
def execSetEventInterruptPolicy (p : Path) (settings : BitVec 40) (s : State) : Host.Outcome State Fault Refusal :=
  done (s.command (.setEventInterruptPolicy p settings) p 0x0103 fun s =>
    if (List.range 5).any fun i => bits settings.toNat (8 * i + 1) (8 * i) == 3 then refuse s .invalidInput
    else (s.onLd (s.issuing p).toNat fun d => { d with policy := settings }, .success, []))

/-- Get Timestamp (0300h). -/
def execGetTimestamp (p : Path) (s : State) : Host.Outcome State Fault Refusal :=
  done (s.command (.getTimestamp p) p 0x0300 fun s => (s, .success, le 8 s.timestamp))

/-- Set Timestamp (0301h). -/
def execSetTimestamp (p : Path) (value : BitVec 64) (s : State) : Host.Outcome State Fault Refusal :=
  done (s.command (.setTimestamp p value) p 0x0301 fun s =>
    (s.onHost fun h => { h with timestamp := value.toNat, timestampSet := true, timestampAt := s.clock }, .success, []))

/-- The end of an event's period (R519). -/
def execEventRatePeriodEnd (code : BitVec 16) (subject : BitVec 32) (s : State) : Host.Outcome State Fault Refusal :=
  done (s.endPeriod code.toNat subject.toNat)

/-! ## Background commands -/

/-- Background Operation Status (0002h): whether one runs and its percentage, its opcode, return code and status word (R376). -/
def execBackgroundOperationStatus (p : Path) (s : State) : Host.Outcome State Fault Refusal :=
  done (s.command (.backgroundOperationStatus p) p 0x0002 fun s =>
    match s.backgroundOf (Path.carrier p) with
    | none => (s, .success, zeros 8)
    | some b =>
      (s, .success, le 1 (b2n b.running + 2 * b.percent) ++ zeros 1 ++ le 2 b.opcode ++ le 2 (if b.running then 0 else b.rc.code)
        ++ le 2 (if b.running then 0 else fieldLe b.output 0 2)))

/-- The background commands that an abort stops (R377). -/
def abortable : List Nat := [0xC083, 0xC107, 0xC202, 0xC183]

/-- Request Abort Background Operation (0005h, R377). -/
def execRequestAbortBackgroundOperation (p : Path) (s : State) : Host.Outcome State Fault Refusal :=
  done (s.command (.requestAbortBackgroundOperation p) p 0x0005 fun s =>
    match s.backgroundOf (Path.carrier p) with
    | none => (s, .success, [])
    | some b =>
      if !b.running then (s, .success, [])
      else if abortable.contains b.opcode then (s.askAbort b.opcode (some p), .success, [])
      else refuse s .unsupported)

/-- A background command whose work has ended completes: its return code and status word stand in the Background Command Status
register (R376). -/
def execBackgroundCommandComplete (p : Path) (s : State) : Host.Outcome State Fault Refusal :=
  match s.backgroundOf (Path.carrier p) with
  | none => done s
  | some b =>
    if b.running && b.done then
      done ((s.setBackground (Path.carrier p) { b with running := false }).emit (.backgroundDone p b.opcode b.rc (fieldLe b.output 0 2)))
    else done s

/-- Get Background Result (C001h): the output of the last background command of the path, until the next begins there (R376). -/
def execGetBackgroundResult (p : Path) (s : State) : Host.Outcome State Fault Refusal :=
  done (s.command (.getBackgroundResult p) p 0xC001 fun s =>
    let none_ := le 2 1 ++ le 4 Config.noResult.toNat ++ le 2 0
    match s.backgroundOf (Path.carrier p) with
    | none => (s, .success, none_)
    | some b =>
      if b.running then (s, .success, none_)
      else (s, .success, le 2 0 ++ le 2 b.opcode ++ le 2 b.rc.code ++ le 2 b.output.length ++ b.output))

/-- A vendor opcode that no chapter defines (R19). -/
def execUndefinedVendorOpcode (p : Path) (opcode : BitVec 16) (s : State) : Host.Outcome State Fault Refusal :=
  done (s.command (.undefinedVendorOpcode p opcode) p opcode.toNat fun s => refuse s .unsupported)

end Sys2Proof.Machine
end

