-- ==== Sys2Proof/Machine/LogStore.lean ====
section
/-! DEFINITION. The log store (spec/12_purlin_and_mailboxes.md R387 to R390): what it keeps, and the loss of main power, after
which only what the log store, the firmware store, the fuses and the eaves domain hold is left (spec/13_bring_up.md R393,
spec/14_eaves_and_power_states.md R415). -/

namespace Sys2Proof.Machine

/-- The settings and records that the sled now keeps in the log store. -/
def State.logImage (s : State) : LogImage :=
  let f := s.purlin.fw
  let groups : Sparse Group := s.dram.groups
  let contexts : Sparse Context := s.flash.contexts
  let ports : Sparse RafterLink := s.link.ports
  { boot := f.boot
    slot1 := f.slot1
    slot2 := f.slot2
    firmware := (f.minutes, f.rollBack, f.svn)
    homeId := s.xlat.homeId
    epoch := s.link.epoch
    seconds := s.eaves.savedSeconds
    ratio := s.cap.ratio
    growth := s.cap.growth
    phioz := (contexts.filter fun c => c.2.phiozConv).map (·.1)
    cacheEnable := s.cache.enable
    noFill := s.cache.noFill
    speed := s.dram.speedPending
    masks := s.dram.masksPending
    training := (s.dram.zqMs, s.dram.checkMs, s.dram.driftPs, s.dram.pollMs)
    groups := groups.map fun g => (g.1, (g.2.enable, g.2.groupUs, g.2.chan100ns))
    patrol := (s.spare.patrol, s.spare.targetMin)
    retirement := (s.spare.rowThreshold, s.spare.dieBanks, s.spare.rankRows, s.spare.share, s.spare.hold)
    classes := s.reg.classes
    pinBound := s.reg.pinBound
    ceilings := s.reg.ceilings
    transport := (s.link.credits, s.link.replayUs, s.link.unreachableUs)
    disabled := (ports.filter fun p => !p.2.enabled).map (·.1)
    cascade := (s.casc.timeout, s.casc.rate, s.casc.eligible)
    map := { s.casc.map with members := [], routes := [] }
    term := s.casc.highest
    serials := s.casc.serials
    heldOut := s.boot.heldOut
    states := (s.eaves.drowseOn, s.eaves.watchOn, s.eaves.idleUs, s.eaves.period, s.eaves.ceilingMs)
    windows := s.eaves.sampled.map fun (w : Sampled) => { w with last := 0, seen := false, min := 0, max := 0 }
    power := (s.power.limit, s.power.retry, s.power.soa, s.power.delay)
    memoryTest := (s.sram.enable, s.sram.intervalUs)
    trace := (s.ctr.kinds, s.ctr.sample, s.ctr.filterRid, s.ctr.filterClass)
    access := s.ctr.access
    fencedRows := s.spare.fencedRows
    rowsAwaiting := s.spare.rowsAwaiting
    ranks := s.spare.ranks
    channels := s.spare.channels
    clears := s.spare.clears
    ring := if s.purlin.log.ringGone then [] else s.spare.ring
    ringBase := if s.purlin.log.ringGone then s.spare.ringBase + s.spare.ring.length else s.spare.ringBase }

/-- What the log store holds: the present settings and records, or those of the moment it became read-only (R390). -/
def State.stored (s : State) : LogImage := s.frozen.getD s.logImage

/-- An entry of the retirement lists removed (R284). -/
def Sparing.clear (p : Sparing) (r : Retirement) : Sparing :=
  match r with
  | .row ch rank bank row =>
    { p with fencedRows := Sparse.erase p.fencedRows (rowKey ch rank bank row), rowsAwaiting := Sparse.erase p.rowsAwaiting (rowKey ch rank bank row) }
  | .rank ch rank _ => { p with ranks := Sparse.erase p.ranks (ch * 2 + rank) }
  | .channel ch _ => { p with channels := Sparse.erase p.channels ch }

/-- Codes and sparing as a bring-up finds them: the kept lists, less what Clear Retirement removes (R282, R284), and the repairs
already made in the dies (R281). -/
def LogImage.sparing (k : LogImage) (repairs : Sparse Nat) : Sparing :=
  let (row, banks, rows, share, hold) := k.retirement
  let p : Sparing :=
    { fencedRows := k.fencedRows, rowsAwaiting := k.rowsAwaiting, ranks := k.ranks, channels := k.channels, repairs
      ring := k.ring, ringBase := k.ringBase, rowThreshold := row, dieBanks := banks, rankRows := rows, share, hold
      patrol := k.patrol.1, targetMin := k.patrol.2 }
  k.clears.foldl Sparing.clear p

/-- The kept class rows at power-on: every bucket full (R301, R316). -/
def LogImage.classRows (k : LogImage) (now : Nat) : Sparse ClassRow :=
  k.classes.map fun (c : Nat × ClassRow) =>
    (c.1, { c.2 with shaper := Bucket.full c.2.shaper now, policer := Bucket.full c.2.policer now, effective := c.2.guarantee })

/-- Every main rail is off: what the sled holds then (R393, R415). Commands and signals on their way, straps, the modes of the
ports, the eaves domain and its retention RAM, the firmware store, fuses and log store stay. -/
def State.powerOff (s : State) : State :=
  let k := s.stored
  let f := s.purlin.fw
  let (zq, check, drift, poll) := k.training
  let port (x : PortState) : PortState := { inReset := x.inReset, mld := x.mld }
  let contexts : Sparse Context := State.reset.flash.contexts
  { State.reset with
    pending := s.pending
    clock := s.clock
    small := s.small
    serial := s.serial
    out := s.out
    frozen := s.frozen
    conn := s.conn
    eaves := { s.eaves with entry := none, exiting := false, gated := [], heldEvents := [], saveAreas := [], waiting := [], consent := 0,
                             wholeConsent := false, retry := none, stopped := [], backoffUs := 1000, late := none, alertDue := false,
                             drowseOn := k.states.1, watchOn := k.states.2.1, idleUs := k.states.2.2.1, period := k.states.2.2.2.1,
                             ceilingMs := k.states.2.2.2.2 }
    power := s.power
    therm := { shutdowns := s.therm.shutdowns, lastShutdown := s.therm.lastShutdown, coolDown := s.therm.coolDown,
               pendingEvent := s.therm.pendingEvent }
    host := { hp0 := port s.host.hp0, hp1 := port s.host.hp1, x16 := s.host.x16, gfam := s.host.gfam }
    cap := { ratio := k.ratio, growth := k.growth }
    xlat := { homeId := k.homeId }
    cache := { enable := k.cacheEnable, noFill := k.noFill }
    flash := { contexts := k.phioz.foldl (fun m c => Sparse.modify {} m c fun x => { x with phiozConv := true }) contexts, draws := s.flash.draws }
    dram := { speed := k.speed, speedPending := k.speed, masks := k.masks, masksPending := k.masks, zqMs := zq, checkMs := check,
              driftPs := drift, pollMs := poll, losses := s.dram.losses
              groups := k.groups.foldl (fun m g => Sparse.set {} m g.1 { enable := g.2.1, groupUs := g.2.2.1, chan100ns := g.2.2.2 }) [] }
    spare := k.sparing s.spare.repairs
    reg := { classes := k.classRows s.clock, pinBound := k.pinBound, ceilings := k.ceilings, pins := s.reg.pins }
    link := { epoch := k.epoch, credits := k.transport.1, replayUs := k.transport.2.1, unreachableUs := k.transport.2.2
              ports := k.disabled.foldl (fun m p => Sparse.set {} m p { enabled := false }) [] }
    casc := { map := k.map, term := k.term, highest := k.term, serials := k.serials, timeout := k.cascade.1, rate := k.cascade.2.1,
              eligible := k.cascade.2.2 }
    purlin := { fw := { nor := f.nor, slot1 := k.slot1, slot2 := k.slot2, boot := k.boot, fused := f.fused, lastReason := f.lastReason
                        minutes := k.firmware.1, rollBack := k.firmware.2.1, svn := k.firmware.2.2 }
                log := s.purlin.log }
    boot := { heldOut := k.heldOut, inserted := s.boot.inserted }
    sram := { enable := k.memoryTest.1, intervalUs := k.memoryTest.2 }
    ctr := { epoch := s.ctr.epoch, kinds := k.trace.1, sample := k.trace.2.1, filterRid := k.trace.2.2.1, filterClass := k.trace.2.2.2
             access := k.access } }

/-- Spare and unassigned blocks in hand (R387, R388, R390): 128 spares, 93 unassigned, and the areas given up, of 64, 256 and 256
blocks, less the blocks retired. -/
def LogStore.inHand (l : LogStore) : Nat :=
  128 + 93 + (if l.journalGone then 64 else 0) + (if l.privateGone then 256 else 0) + (if l.ringGone then 256 else 0) - l.retired

/-- The areas given up, as Get Log Store Status gives them. -/
def LogStore.gone (l : LogStore) : Nat := b2n l.journalGone + 2 * b2n l.privateGone + 4 * b2n l.ringGone

/-- Change the log store. -/
def State.onLog (s : State) (f : LogStore → LogStore) : State := s.onPurlin fun p => { p with log := f p.log }

/-- The log store becomes read-only: it holds what it holds now (R390). -/
def State.freezeLog (s : State) : State := { s with frozen := some s.logImage }

/-- Event 0C07h (R390): an area given up, or the log store read-only. -/
def State.areaGone (s : State) (area : Nat) (ro : Bool) : State := s.raiseAll 0x0C07 .failure (le 1 area ++ le 1 (b2n ro))

/-- Give up the next area, or become read-only where none is left to give up, with event 0C07h (R390). -/
def State.giveUpArea (s : State) : State :=
  let l := s.purlin.log
  if !l.journalGone then (s.onLog fun l => { l with journalGone := true }).areaGone 1 false
  else if !l.privateGone then (s.onLog fun l => { l with privateGone := true }).areaGone 2 false
  else if !l.ringGone then (s.onLog fun l => { l with ringGone := true }).areaGone 4 false
  else (s.freezeLog.onLog fun l => { l with readOnly := true }).areaGone 0 true

/-- A block whose read-back failed is retired and its update moves to a spare (R389, R390): an area is given up where no spare is
left, and event 0C06h tells when 16 are. -/
def State.retireLogBlock (s : State) : State :=
  let s := if s.purlin.log.inHand = 0 then s.giveUpArea else s
  if s.purlin.log.readOnly then s
  else
    let before := s.purlin.log.inHand
    let s := s.onPurlin fun p => { p with log := { p.log with retired := p.log.retired + 1 } }
    let now := s.purlin.log.inHand
    if 16 < before ∧ now ≤ 16 then s.raiseAll 0x0C06 .warning (le 2 now) else s

/-- C303h Get Log Store Status. -/
def execGetLogStoreStatus (p : Path) (s : State) : Host.Outcome State Fault Refusal :=
  done (s.command (.getLogStoreStatus p) p 0xC303 fun s =>
    let l := s.purlin.log
    (s, .success, le 2 0 ++ le 1 (b2n l.readOnly) ++ le 1 l.gone ++ le 2 l.inHand ++ le 2 l.retired ++ le 8 l.words
      ++ le 8 ((l.blockWrites.map fun b => b.2).foldl max 0)))

end Sys2Proof.Machine
end

