-- ==== Sys2Proof/Machine/Firmware.lean ====
section
/-! DEFINITION. Firmware images, live activation, trial and roll-back, the watchdogs, and the general commands of
spec/12_purlin_and_mailboxes.md (R369, R380 to R391). The pause's end is in Machine/Serve.lean, since it serves the commands held. -/

namespace Sys2Proof.Machine

/-! ## Images -/

/-- STEPPING of R52: B0. -/
abbrev stepping : Nat := 0x10

/-- Change the firmware state. -/
def State.onFw (s : State) (f : Firmware → Firmware) : State := s.onPurlin fun p => { p with fw := f p.fw }

/-- Set the state of a slot. -/
def Firmware.setSlot (f : Firmware) (slot : Nat) (x : SlotState) : Firmware := if slot = 2 then { f with slot2 := x } else { f with slot1 := x }

/-- Why the image in a slot is not valid (R380, R381), by the causes of event 0C04h. -/
def State.imageFault (s : State) (slot : Nat) : Option Nat :=
  let f := s.purlin.fw
  let h := f.norBytes (slotBase slot) 180
  let body := fieldLe h 8 4
  let key : Nat × Nat := (Config.fusedKey.toNat / 2 ^ 384, Config.fusedKey.toNat % 2 ^ 384)
  if slice h 0 4 ≠ [0x48, 0x4D, 0x46, 0x57] ∨ fieldLe h 4 2 ≠ 1 ∨ 32 * 2 ^ 20 - 4096 < body ∨ 3 * 2 ^ 19 < fieldLe h 12 4 ∨ body < fieldLe h 12 4 then some 1
  else if !Crypto.ecdsaVerify key (slice h 0 84) (slice h 84 96) then some 2
  else if Crypto.sha384 (f.norBytes (slotBase slot + 4096) body) ≠ slice h 36 48 then some 3
  else if !bitAt (fieldLe h 34 1) (if s.small then 1 else 0) ∨ stepping < fieldLe h 33 1 then some 4
  else if fieldLe h 32 1 < f.fused then some 5
  else none

/-- Check the image in a slot (R381): a failed check marks the slot invalid and raises event 0C04h. -/
def State.checkImage (s : State) (slot : Nat) : State × Bool :=
  match s.imageFault slot with
  | none => (s, true)
  | some c => ((s.onFw fun f => f.setSlot slot .invalid).raiseAll 0x0C04 .warning (le 1 slot ++ le 1 c), false)

/-- The slot that runs, if firmware does. -/
def State.runningSlot (s : State) : Option Nat := if s.firmwareRuns then some s.purlin.fw.running else none

/-- Is a number one of the two slots? -/
def isSlot (n : Nat) : Bool := n == 1 || n == 2

/-- Is an activation of a slot refused: not a slot, empty or invalid, or running (R383)? -/
def State.activationRefused (s : State) (slot : Nat) : Bool :=
  !isSlot slot || s.runningSlot == some slot || !(s.purlin.fw.slot slot == .valid || s.purlin.fw.slot slot == .failedTrial)

/-- Get FW Info (0200h): two slots, the active one and the one that boots next, online activation (R383). -/
def execGetFwInfo (p : Path) (s : State) : Host.Outcome State Fault Refusal :=
  done (s.command (.getFwInfo p) p 0x0200 fun s =>
    let f := s.purlin.fw
    let active := (s.runningSlot).getD 0
    let staged := if f.boot = active then 0 else f.boot
    (s, .success, le 1 2 ++ le 1 (active + 8 * staged) ++ le 1 1 ++ zeros 13 ++ f.revision 1 ++ f.revision 2 ++ zeros 32))

/-! ## Transfers -/

/-- Erase a slot: it reads invalid from here on (R383). -/
def Firmware.eraseSlot (f : Firmware) (slot : Nat) : Firmware :=
  let b := slotBase slot
  { f.setSlot slot .invalid with nor := f.nor.filter fun e => decide (e.1 < b) || decide (b + 0x2000000 ≤ e.1) }

/-- Write bytes of a transfer into a slot. -/
def Firmware.program (f : Firmware) (slot offset : Nat) (data : List Byte) : Firmware :=
  { f with nor := data.zipIdx.foldl (fun m (x : Byte × Nat) => Sparse.set 0xFF m (slotBase slot + offset + x.2) x.1) f.nor }

/-- The end of a transfer (R381): the image is checked; a valid one is stored, event 0C01h, and in recovery it is the one to
boot (R386). -/
def State.endTransfer (s : State) (slot : Nat) : State × ReturnCode × List Byte :=
  let s := s.onFw fun f => { f with transfer := none }
  let (s, ok) := s.checkImage slot
  if !ok then (s, .authFailed, [])
  else
    let s := s.onFw fun f => f.setSlot slot .valid
    let s := if s.ready rdyRecovery then s.onFw fun f => { f with boot := slot } else s
    let f := s.purlin.fw
    (s.raiseAll 0x0C01 .informational (le 1 slot ++ le 1 (f.number slot) ++ f.revision slot), .success, [])

/-- Transfer FW (0201h, R383): action 0 full, 1 initiate, 2 continue, 3 end, 4 abort; the offset counts 128 bytes. -/
def execTransferFw (p : Path) (slot action : BitVec 8) (offset : BitVec 32) (data : List Byte) (s : State) : Host.Outcome State Fault Refusal :=
  done (s.command (.transferFw p slot action offset data) p 0x0201 fun s =>
    let f := s.purlin.fw
    let n := slot.toNat
    let o := offset.toNat * 128
    if 4 < action.toNat then refuse s .invalidInput
    else if f.activation.isSome || f.trial == .inTrial then refuse s .busy
    else if action.toNat ≤ 1 then
      if !isSlot n || s.runningSlot == some n then refuse s .invalidSlot
      else if f.transfer.isSome then refuse s .transferInProgress
      else if o ≠ 0 then refuse s .transferOutOfOrder
      else
        let s := s.onFw fun f => { (f.eraseSlot n).program n 0 data with transfer := some { slot := n, next := data.length } }
        if action.toNat = 0 then s.endTransfer n else (s, .success, [])
    else
      match f.transfer with
      | none => if action.toNat = 4 then (s, .success, []) else refuse s .transferOutOfOrder
      | some t =>
        if action.toNat = 4 then (s.onFw fun f => { f with transfer := none }, .success, [])
        else if action.toNat = 3 && n != t.slot then refuse s .invalidSlot
        else if o ≠ t.next then refuse s .transferOutOfOrder
        else if 0x2000000 < o + data.length then refuse s .invalidInput
        else
          let s := s.onFw fun f => { f.program t.slot o data with transfer := some { t with next := o + data.length } }
          if action.toNat = 3 then s.endTransfer t.slot else (s, .success, []))

/-! ## Activation -/

/-- Begin a live activation: the runtime is to be staged (R384). An explicit one clears the slot's failed-trial mark (R385). -/
def State.beginActivation (s : State) (slot : Nat) (kind : ActivationKind) (path : Option Path) : State :=
  s.onFw fun f =>
    let f := if kind = .command then f.setSlot slot .valid else f
    { f with activation := some { slot, path, kind } }

/-- Activate FW, online (0202h): a background command (R383, R384). Recovery serves the offline form alone (R386). -/
def execActivateFwOnline (p : Path) (slot : BitVec 8) (s : State) : Host.Outcome State Fault Refusal :=
  done (s.background (.activateFwOnline p slot) p 0x0202 fun s =>
    if s.ready rdyRecovery then (s, some .unsupported)
    else if s.purlin.fw.activation.isSome then (s, some .busy)
    else if s.activationRefused slot.toNat then (s, some .invalidSlot)
    else (s.beginActivation slot.toNat .command (some p), none))

/-- Activate FW, offline (0202h): the slot that boots at the next bring-up (R383). -/
def execActivateFwOffline (p : Path) (slot : BitVec 8) (s : State) : Host.Outcome State Fault Refusal :=
  done (s.command (.activateFwOffline p slot) p 0x0202 fun s =>
    if s.activationRefused slot.toNat then refuse s .invalidSlot
    else (s.onFw fun f => { f.setSlot slot.toNat .valid with boot := slot.toNat }, .success, []))

/-- Before the pause a ridge hands its role to its deputy, in the next term, event 0B03h; a deputy asks the ridge to name another
(R384). -/
def State.handRole (s : State) : State :=
  match s.casc.role, s.liveDeputy s.casc.map with
  | .ridge, some d =>
    let s := s.stepDown
    let s := s.onCasc fun c => { c with ridge := d, term := c.term + 1, highest := max c.highest (c.term + 1), deputy := none }
    (s.emit (.control (some d) (.handRole s.casc.term))).ridgeChanged 2
  | .deputy, _ => s.emit (.control (some s.casc.ridge) .newDeputyWanted)
  | _, _ => s

/-- ACTIVATION_STAGED (R384): the staged runtime is checked again, the ridge role handed over, and the pause begins. -/
def execActivationStaged (s : State) : Host.Outcome State Fault Refusal :=
  match s.purlin.fw.activation with
  | none => done s
  | some a =>
    if a.paused then done s
    else
      let (s, ok) := s.checkImage a.slot
      if !ok then done ((s.onFw fun f => { f with activation := none }).finishBackground a.path 0x0202 .authFailed [])
      else
        let s := s.handRole
        let s := s.onFw fun f => { f with activation := some { a with paused := true } }
        done (s.onPurlin fun p => { p with paused := true })

/-- What the pause's end does before the held commands are served (R384): the new runtime runs, a commanded activation enters trial;
queued events go out, then event 0C02h; deferred retirement decisions and the threshold adjustment are made; the command ends. -/
def State.endPause (s : State) (us : Nat) : State :=
  match s.purlin.fw.activation with
  | none => s
  | some a =>
    if !a.paused then s
    else
      let f := s.purlin.fw
      let s := s.onFw fun f =>
        let f := { f with activation := none, running := a.slot }
        match a.kind with
        | .command => { f with trial := .inTrial, trialStart := s.clock, trialMinutes := f.minutes, trialRollBack := f.rollBack, trialSvn := f.svn }
        | .rollBack => { f with trial := .rolledBack }
        | .restart => f
      let queued := s.purlin.heldEvents
      let decided := s.spare.duringPause
      let s := s.onPurlin fun p =>
        { p with paused := false, pauses := p.pauses + 1, longestPause := max p.longestPause us, heldEvents := [] }
      let s := if s.delivers then s.flushEvents queued else s.onEaves fun e => { e with heldEvents := e.heldEvents ++ queued }
      let s := s.raiseAll 0x0C02 .informational (le 1 a.slot ++ le 1 (f.number a.slot) ++ le 1 1 ++ le 4 us)
      let s := s.onSpare fun p => { p with duringPause := [] }
      let s := foldState (fun s (x : Retirement × Bool) => s.judge x.1 x.2) s decided
      let s := if s.place.adjustDue then (s.onPlace fun p => { p with adjustDue := false }).adjustThresholds else s
      s.finishBackground a.path 0x0202 .success []

/-- A trial fails (R385): event 0C03h, and under automatic roll-back the slot is marked and the other one activated. -/
def State.failTrial (s : State) (reason : Nat) : State :=
  let f := s.purlin.fw
  if f.trial ≠ .inTrial then s
  else
    let from_ := f.running
    let other := 3 - from_
    if f.trialRollBack then
      let path := f.activation.bind (·.path)
      let s := s.onFw fun f => { f.setSlot from_ .failedTrial with trial := .none, lastReason := reason }
      (s.raiseAll 0x0C03 .failure (le 1 from_ ++ le 1 other ++ le 1 reason)).beginActivation other .rollBack path
    else
      let s := s.onFw fun f => { f with trial := .none, lastReason := reason }
      s.raiseAll 0x0C03 .failure (le 1 from_ ++ le 1 Config.noRollBackTo.toNat ++ le 1 reason)

/-- HEALTH_WINDOW_END (R382, R385): a trial that passes makes its image the boot image and may raise the fused count. -/
def execHealthWindowEnd (s : State) : Host.Outcome State Fault Refusal :=
  let f := s.purlin.fw
  if f.trial ≠ .inTrial then done s
  else
    let n := f.number f.running
    done (s.onFw fun f => { f with trial := .none, boot := f.running, fused := if f.trialSvn && decide (f.fused < n) then n else f.fused })

/-- Ten minutes of hub cycles. -/
abbrev tenMinutes : Nat := 600 * 1600000000

/-- CORE_WATCHDOG_EXPIRY (R369, R385): event 0C05h; in trial the trial fails; else the third within ten minutes restarts the cluster
from the running image, as a live activation does. -/
def execCoreWatchdogExpiry (core : BitVec 2) (s : State) : Host.Outcome State Fault Refusal :=
  if !s.firmwareRuns || s.purlin.paused || !s.hubRuns then done s
  else
    let c := core.toNat
    let recent := (s.purlin.expiries.filter fun x => decide (s.clock < x.2 + tenMinutes)) ++ [(c, s.clock)]
    let n := (recent.filter fun x => x.1 == c).length
    let s := s.onPurlin fun p => { p with expiries := recent, totals := p.totals.set c (min (p.totals.getD c 0 + 1) 65535) }
    let s := s.raiseAll 0x0C05 .warning (le 1 c ++ le 1 n)
    if s.purlin.fw.trial = .inTrial then done (s.failTrial 1)
    else if 3 ≤ n ∧ s.purlin.fw.activation.isNone then
      let s := s.onPurlin fun p => { p with expiries := p.expiries.filter fun x => x.1 != c }
      done (s.beginActivation s.purlin.fw.running .restart none)
    else done s

/-- LOG_STORE_UPDATE (R385, R389, R390): a block update is written and read back; a failed read-back retires the physical block and
fails a trial. -/
def execLogStoreUpdate (block : BitVec 10) (words : BitVec 16) (readBackOk : Bool) (s : State) : Host.Outcome State Fault Refusal :=
  if s.purlin.log.readOnly || decide (896 ≤ block.toNat) then done s
  else
    let s := s.onPurlin fun p =>
      { p with log := { p.log with words := p.log.words + words.toNat, blockWrites := Sparse.modify 0 p.log.blockWrites block.toNat (· + 1) } }
    if readBackOk then done s else done (s.retireLogBlock.failTrial 2)

/-! ## General commands -/

/-- C000h Get Sled Identity, in Off-aux and before MAILBOX too (R391, R400, R435). -/
def execGetSledIdentity (p : Path) (s : State) : Host.Outcome State Fault Refusal :=
  done (s.command (.getSledIdentity p) p 0xC000 fun s =>
    (s, .success, le 2 0 ++ le 2 (if s.small then 0x0400 else 0x0800) ++ le 1 stepping ++ le 1 (b2n (s.ready rdyRecovery)) ++ le 2 s.homeId
      ++ le 8 s.serial.toNat ++ s.runningRevision ++ le 2 (if s.casc.joined then s.me else 0) ++ zeros 2 ++ le 4 s.seconds))

/-- The origin path of a relayed request (R378). -/
def Path.relayOrigin : Path → Nat
  | .sideband _ => 1
  | .rafter _ o _ => o.toNat
  | _ => 2

/-- C002h Relay Command: the reply of the target completes it (R378, R391). -/
def execRelayCommand (p : Path) (target opcode : BitVec 16) (payload : List Byte) (s : State) : Host.Outcome State Fault Refusal :=
  let i : Instr := .relayCommand p target opcode payload
  match s.service p 0xC002 false with
  | .serve =>
    let d := target.toNat
    let unreachable := le 2 1 ++ zeros 6
    if !Path.privileged p then done (s.command i p 0xC002 fun s => refuse s .unsupported)
    else if 1023 < d ∨ 1008 < payload.length then done (s.command i p 0xC002 fun s => refuse s .invalidInput)
    else if !s.ready rdyCascade ∨ (Sparse.find s.casc.map.routes d).isNone ∨ (s.peer d).st = .unreachable then
      done (s.command i p 0xC002 fun s => (s, .retryRequired, unreachable))
    else
      done (s.deferred i p 0xC002 fun s =>
        let tag := s.purlin.nextTag
        let s := s.onPurlin fun x =>
          { x with nextTag := (tag + 1) % 65536, relays := x.relays ++ [{ path := p, target := BitVec.ofNat 10 d, tag }] }
        (s.enqueueSend d { kind := 6 } (mailboxPayload 1 (Path.relayOrigin p) opcode.toNat s.me tag 0 payload) true (.control 1), none))
  | _ => done (s.command i p 0xC002 fun s => refuse s .unsupported)

/-- C300h Get Purlin Status. -/
def execGetPurlinStatus (p : Path) (s : State) : Host.Outcome State Fault Refusal :=
  done (s.command (.getPurlinStatus p) p 0xC300 fun s =>
    let x := s.purlin
    (s, .success, le 2 0 ++ le 1 x.running.toNat ++ le 1 (min 4 (x.relays.length + x.serving.length + 1)) ++ (x.totals.flatMap fun n => le 2 n)
      ++ le 4 x.pauses ++ le 4 x.longestPause ++ le 8 x.served ++ le 4 (s.msNow / 1000)))

/-- The slot state code of C301h. -/
def SlotState.code : SlotState → Nat
  | .empty => 0 | .valid => 1 | .invalid => 2 | .failedTrial => 3

/-- The trial code of C301h. -/
def Trial.code : Trial → Nat
  | .none => 0 | .inTrial => 1 | .rolledBack => 2

/-- C301h Get Firmware Status. -/
def execGetFirmwareStatus (p : Path) (s : State) : Host.Outcome State Fault Refusal :=
  done (s.command (.getFirmwareStatus p) p 0xC301 fun s =>
    let f := s.purlin.fw
    let left := if f.trial = .inTrial then f.trialMinutes * 60 - secOf (s.clock - f.trialStart) else 0
    (s, .success, le 2 0 ++ le 1 f.running ++ le 1 f.trial.code ++ le 4 left ++ le 1 f.fused ++ le 1 (f.number 1) ++ le 1 (f.number 2)
      ++ le 1 (f.slot1.code + 16 * f.slot2.code) ++ le 1 f.lastReason ++ le 1 f.minutes ++ le 1 (b2n f.rollBack + 2 * b2n f.svn) ++ zeros 1))

/-- C302h Set Firmware Policy: for trials that begin later. -/
def execSetFirmwarePolicy (p : Path) (minutes : BitVec 8) (rollBack svn : Bool) (s : State) : Host.Outcome State Fault Refusal :=
  done (s.privileged (.setFirmwarePolicy p minutes rollBack svn) p 0xC302 fun s =>
    if minutes.toNat < 10 ∨ 240 < minutes.toNat then refuse s .invalidInput
    else (s.onFw fun f => { f with minutes := minutes.toNat, rollBack, svn }, .success, s.status 0 true))

end Sys2Proof.Machine
end

