-- ==== Sys2Proof/Machine/BringUp.lean ====
section
/-! DEFINITION. Bring-up from the release of the hub (spec/13_bring_up.md R393 to R410; spec/12_purlin_and_mailboxes.md R386;
spec/07_lpddr4x_channels.md R243, R244; spec/08_codes_scrub_sparing.md R278, R281). -/

namespace Sys2Proof.Machine

/-! ## Firmware boots -/

/-- May the boot ROM boot a slot of itself: it holds a stored image that no failed trial has marked (R385, R386)? -/
def State.bootable (s : State) (slot : Nat) : Bool := s.purlin.fw.slot slot == .valid

/-- Try to boot a slot (R386): its image is checked, and the watchdogs may stop it before it is verified. -/
def State.tryBoot (s : State) (slot : Nat) (tests : BootTests) : State × Bool :=
  if !s.bootable slot then (s, false)
  else
    let (s, ok) := s.checkImage slot
    (s, ok && !(if slot = 2 then tests.watchdog2 else tests.watchdog1))

/-- The flashing engine's tests and key draws, and the stripe codec's test, once firmware runs (R195, R278, R396). -/
def State.startEngines (s : State) (tests : BootTests) : State :=
  let s := match tests.stripe with
    | none => s.onSpare fun p => { p with strongOk := true }
    | some v => s.raiseAll 0x080F .failure (le 1 0xFE ++ le 2 v.toNat)
  if tests.flashing then
    let (k, s) := s.drawKey
    let (k0, s) := s.drawKey
    let s := s.onFlash fun f => { f with sledKey := k }
    (s.onCtx 0 fun c => { c with g0 := { c.g0 with st := .loaded, key := k0 } }).setReady rdyFlashing true
  else (s.onBoot fun b => { b with noMemory := true }).raiseAll 0x0D03 .failure (le 1 2)

/-- Firmware runs from a slot (R394, R397, R398): FW_VERIFIED and MAILBOX set, RECOVERY clears, the transport epoch counts (R335),
and the events held since the rails came up go out (R410, R412, R455, R515). -/
def State.runFirmware (s : State) (slot from_ : Nat) (tests : BootTests) : State :=
  let s := s.onFw fun f => { f with running := slot, trial := .none, lastReason := if slot = from_ then f.lastReason else 3 }
  let s := s.onPurlin fun p => { p with running := 15 }
  let s := ((s.setReady rdyFw true).setReady rdyMailbox true).setReady rdyRecovery false
  let s := s.onBoot fun b => { b with step := .running, msFw := some s.msNow }
  let s := s.onLink fun l => { l with epoch := l.epoch + 1 }
  let held := s.power.held
  let s := s.onPower fun p => { p with held := [] }
  let shut := s.therm.pendingEvent
  let stop := s.eaves.crystalEvent
  let s := (s.onTherm fun t => { t with pendingEvent := [] }).onEaves fun e => { e with crystalEvent := none }
  let s := (s.flushEvents held).deliverHeld.milestone 2
  let s := foldState (fun s x => s.raiseAll 0x1303 .failure (le 1 x.1 ++ le 2 x.2.1 ++ le 1 (b2n x.2.2))) s shut
  let s := match stop with
    | some t => s.raiseAll 0x0E06 .warning (le 4 t)
    | none => s
  let s := if slot = from_ then s else s.raiseAll 0x0C03 .failure (le 1 from_ ++ le 1 slot ++ le 1 3)
  let s := s.raiseAll 0x0C02 .informational (le 1 slot ++ le 1 (s.purlin.fw.number slot) ++ le 1 2 ++ le 4 0)
  s.startEngines tests

/-- FIRMWARE_BOOT (R386, R394 steps 5 to 7): the boot ROM boots the slot named, or the other; with neither the sled stays in
recovery, where a valid image transferred boots. -/
def execFirmwareBoot (tests : BootTests) (s : State) : Host.Outcome State Fault Refusal :=
  if s.boot.step ≠ .sramTested then done s
  else
    let first := s.purlin.fw.boot
    let (s, ok) := s.tryBoot first tests
    if ok then done (s.runFirmware first first tests)
    else
      let other := 3 - first
      let (s, ok) := s.tryBoot other tests
      if ok then done (s.runFirmware other first tests) else done (s.setReady rdyRecovery true)

/-! ## Group admission -/

/-- The order of admission (R402). -/
def admissionOrder : List Nat := [0, 4, 8, 12, 1, 5, 9, 13, 2, 6, 10, 14, 3, 7, 11, 15]

/-- Is a group withheld? -/
def State.groupWithheld (s : State) (g : Nat) : Bool := bitAt s.cap.withheld.toNat g

/-- Are the channels that passed enough to join at a speed (R244)? -/
def enoughChannels (passed : Nat) (speed : Nat) : Bool :=
  decide (7 ≤ popcount 8 passed) || (speed == 2 && decide (6 ≤ popcount 8 passed))

/-- A group is withheld and powered down (R403); event 0102h at its first withholding, 0D04h where it was a retry (R404). -/
def State.withhold (s : State) (g reason : Nat) (retry : Bool) : State :=
  let s := s.onCap fun c => { c with withheld := c.withheld ||| BitVec.ofNat 16 (2 ^ g) }
  let s := s.onBoot fun b => { b with reasons := Sparse.set 0 b.reasons g reason }
  let s := s.onGroup g fun x => { x with st := .withheld }
  if retry then s.raiseAll 0x0D04 .informational (le 1 g ++ le 1 2 ++ le 1 reason)
  else s.raiseAll 0x0102 .warning (le 1 g ++ le 1 reason)

/-- The next group of the order that has neither joined nor been withheld. -/
def State.nextGroup (s : State) : Option Nat := admissionOrder.find? fun g => !s.groupJoined g && !s.groupWithheld g

/-- A group withheld for a reason that is retried once, and not retried yet (R404). -/
def State.retryDue (s : State) (g : Nat) : Bool :=
  let r := Sparse.get 0 s.boot.reasons g
  s.groupWithheld g && decide (1 ≤ r) && decide (r ≤ 4) && !bitAt s.boot.retried.toNat g

/-- The group whose retry of R404 is next. -/
def State.nextRetry (s : State) : Option Nat := admissionOrder.find? s.retryDue

/-- Every group has joined or been withheld (R394 step 10, R404, R406): GROUPS_SETTLED, the patrol's first lap, the rafter ports. -/
def State.settle (s : State) : State :=
  let s := (s.setReady rdySettled true).onBoot fun b => { b with msSettled := some s.msNow, rafterEnabled := true }
  let s := (s.milestone 4).beginPatrol
  let s := foldState (fun s p => s.onRport p fun x => if x.enabled then { x with phase := .training } else x) s (List.range 4)
  s.adjustPressure

/-- With the retries of R404 ended and no group joined, the sled has no memory: event 0D03h. -/
def State.checkMemory (s : State) : State :=
  if s.ready rdySettled && s.joinedCount == 0 && s.nextRetry.isNone && !s.boot.noMemory then
    (s.onBoot fun b => { b with noMemory := true }).raiseAll 0x0D03 .failure (le 1 1)
  else s

/-- Go on in the order of admission: groups held out are passed over, and the end of the order settles the groups (R402, R403). -/
def State.advance : Nat → State → State
  | 0, s => s
  | n + 1, s =>
    if s.ready rdySettled then s.checkMemory
    else
      match s.nextGroup with
      | some g => if bitAt s.boot.heldOutNow.toNat g then State.advance n (s.withhold g 5 false) else s
      | none => s.settle.checkMemory

/-- Start the admission of a group at the configured speed (R243, R402). -/
def State.startAdmission (s : State) (g : Nat) (retry : Bool) (path : Option Path) : State :=
  s.onBoot fun b => { b with admission := some { group := g, speed := s.dram.speed, retry, path } }

/-- Groups are admitted once firmware runs and keys are drawn (R396). -/
def State.admits (s : State) : Bool := s.ready rdyMailbox && s.ready rdyFlashing && s.boot.admission.isNone

/-- GROUP_ADMISSION (R402, R404): the next group in order, or the next retry, closes its switch and starts training. -/
def execGroupAdmission (s : State) : Host.Outcome State Fault Refusal :=
  if !s.admits then done s
  else
    let s := State.advance 17 s
    if !s.ready rdySettled then
      match s.nextGroup with
      | some g => done (s.startAdmission g false none)
      | none => done s
    else
      match s.nextRetry with
      | some g =>
        let s := s.onBoot fun b => { b with retried := b.retried ||| BitVec.ofNat 16 (2 ^ g) }
        done (s.startAdmission g true none)
      | none => done s

/-- The opcode of Retry Group Admission. -/
abbrev opRetryGroup : Nat := 0xC341

/-- An admission ends with its group withheld. -/
def State.failAdmission (s : State) (a : Admission) (reason : Nat) (passed : Nat) : State :=
  let s := s.onBoot fun b => { b with admission := none }
  let s := s.withhold a.group reason a.retry
  let s := s.finishBackground a.path opRetryGroup .success
    (le 2 1 ++ le 1 reason ++ le 1 0xFF ++ le 1 (255 - passed) ++ zeros 3)
  State.advance 17 s

/-- Event 0D02h (R410). -/
def State.attemptFailed (s : State) (a : Admission) (step passed : Nat) : State :=
  s.raiseAll 0x0D02 .warning (le 1 a.group ++ le 1 a.speed ++ le 1 step ++ le 1 passed)

/-- A channel fenced at training (R244, R280): events 0702h and 0809h. -/
def State.fenceAtTraining (s : State) (ch speed step rank : Nat) : State :=
  let s := s.onChannel ch fun c => { c with fenced := true }
  let s := s.raiseAll 0x0702 .warning (le 1 ch ++ le 1 speed ++ le 1 step ++ le 1 rank)
  s.raiseAll 0x0809 .warning (le 1 ch ++ le 1 3 ++ le 4 0)

/-- GROUP_TRAINING_ATTEMPT_DONE (R243, R244, R403): `passed` the channels that trained; where some failed, the first failing step and
its rank; whether the switch and PLL settled and the group's sensor reads. -/
def execGroupTrainingAttemptDone (g : GroupId) (passed failStep failRank : BitVec 8) (settled sensorValid : Bool) (s : State) :
    Host.Outcome State Fault Refusal :=
  match s.boot.admission with
  | none => done s
  | some a =>
    let ok := passed.toNat
    if a.group ≠ g.toNat ∨ a.trained then done s
    else if !settled then done ((s.attemptFailed a 9 0).failAdmission a 3 0)
    else if !sensorValid then done (s.failAdmission a 4 ok)
    else if enoughChannels ok a.speed then
      let failed := (List.range 8).filter fun i => !bitAt ok i
      let s := foldState (fun s i => s.fenceAtTraining (8 * a.group + i) a.speed failStep.toNat failRank.toNat) s failed
      let s := s.onBoot fun b => { b with admission := some { a with trained := true, passed } }
      done (s.progress a.path opRetryGroup 33)
    else
      let s := s.attemptFailed a failStep.toNat ok
      if a.speed < 2 then done (s.onBoot fun b => { b with admission := some { a with speed := a.speed + 1 } })
      else done (s.failAdmission a 1 ok)

/-- Apply the repairs that the fenced-row list schedules for a channel that trained (R281): event 0806h; bit `16 × (channel within its
group) + 8 × rank + bank` of `failed` says that the repair in that bank failed. -/
def State.applyRepairs (s : State) (g passed failed : Nat) : State :=
  foldState (fun s key =>
    let ch := key / 2 ^ 23
    let rank := key / 2 ^ 22 % 2
    let bank := key / 2 ^ 19 % 8
    let row := key % 2 ^ 19
    if ch / 8 ≠ g ∨ !bitAt passed (ch % 8) then s
    else
      let bad := bitAt failed (16 * (ch % 8) + 8 * rank + bank)
      let s := s.onSpare fun p =>
        { p with rowsAwaiting := Sparse.erase p.rowsAwaiting key, fencedRows := if bad then p.fencedRows else Sparse.erase p.fencedRows key }
      s.raiseAll 0x0806 .informational (le 1 ch ++ le 1 rank ++ le 1 bank ++ le 4 row ++ le 1 (if bad then 3 else 2))) s
    (Sparse.keys s.spare.rowsAwaiting)

/-- The first join fills and binds the 256 static blocks in the same step (R402). -/
def State.fillStatic (s : State) : State :=
  if s.cap.memActive || s.boot.noMemory then s
  else
    let s := foldState (fun s b => if (s.dirOf b).st = .unassigned then s.startFill b else s) s (List.range 256)
    foldState State.fillDone s (List.range 256)

/-- STRONG_CODE sets with two groups and a sound stripe codec; the table runs held under the light code are rebuilt (R73, R397,
R401). -/
def State.strongStarts (s : State) : State :=
  if s.ready rdyStrong || !s.spare.strongOk || decide (s.joinedCount < 2) then s
  else
    let s := s.setReady rdyStrong true
    let light := (s.xlat.dir.filter fun e => e.2.st != .unassigned && !e.2.strong).map fun e => e.1
    foldState (fun s b => s.wantRebuild b .lightToStrong none) s light

/-- A group joins (R402 steps 5 and 6). -/
def State.joinGroup (s : State) (a : Admission) (serving : Nat) : State :=
  let g := a.group
  let s := foldState (fun s i => s.onChannel (8 * g + i) fun c =>
    { c with trained := bitAt serving i, fenced := !bitAt serving i, since := s.clock, fast := false }) s (List.range 8)
  let s := s.onGroup g fun x => { x with st := .live, speed := a.speed, sensorValid := true, since := s.clock }
  let before := s.cap.total
  let s := s.onCap fun c =>
    { c with joined := c.joined ||| BitVec.ofNat 16 (2 ^ g), withheld := c.withheld &&& ~~~ BitVec.ofNat 16 (2 ^ g) }
  let s := s.onBoot fun b => { b with admission := none, reasons := Sparse.erase b.reasons g }
  let s := s.setReady (rdyGroup + g) true
  let s := if s.dram.speed < a.speed then s.raiseAll 0x0701 .warning (le 1 g ++ le 1 s.dram.speed ++ le 1 a.speed) else s
  let s := s.recompute.strongStarts.fillStatic
  let s := s.onCap fun c => { c with joinEvents := c.joinEvents ++ [(g, max before s.offerTotal - before)] }
  let s := s.offerCapacity.adjustPressure
  let s := if a.retry then s.raiseAll 0x0D04 .informational (le 1 g ++ le 1 1 ++ le 1 0) else s
  let s := s.finishBackground a.path opRetryGroup .success (le 2 0 ++ le 1 0 ++ le 1 a.speed ++ le 1 (255 - serving) ++ zeros 3)
  State.advance 17 s

/-- GROUP_JOIN (R402 steps 3 to 6): repairs, the self-test of each channel's codec, and the join, or the withholding where too few
channels serve. `codecsFailed` names the channels whose codec fails. -/
def execGroupJoin (codecsFailed : BitVec 8) (repairsFailed : BitVec 128) (s : State) : Host.Outcome State Fault Refusal :=
  match s.boot.admission with
  | none => done s
  | some a =>
    if !a.trained then done s
    else
      let s := s.applyRepairs a.group a.passed.toNat repairsFailed.toNat
      let bad := (List.range 8).filter fun i => bitAt a.passed.toNat i && bitAt codecsFailed.toNat i
      let s := foldState (fun s i =>
        let ch := 8 * a.group + i
        (s.onChannel ch fun c => { c with fenced := true }).raiseAll 0x080F .failure (le 1 ch ++ le 2 (Config.failingVector ch).toNat)) s bad
      let serving := maskOf 8 fun i => bitAt a.passed.toNat i && !bitAt codecsFailed.toNat i
      if enoughChannels serving a.speed then done (s.joinGroup a serving)
      else done ((s.attemptFailed a 8 serving).failAdmission a 2 serving)

/-! ## Commands -/

/-- A milestone's time, or FFFFFFFFh. -/
def msField (x : Option Nat) : List Byte := le 4 (x.getD 0xFFFFFFFF)

/-- C340h Get Bring-up Status. -/
def execGetBringupStatus (p : Path) (s : State) : Host.Outcome State Fault Refusal :=
  done (s.command (.getBringupStatus p) p 0xC340 fun s =>
    let b := s.boot
    (s, .success, le 2 0 ++ le 2 s.cap.joined.toNat ++ le 2 s.cap.withheld.toNat ++ le 2 b.heldOut.toNat
      ++ le 1 ((b.admission.map (·.group)).getD 255) ++ zeros 3 ++ msField b.msPower ++ msField b.msFw ++ msField b.msStatic
      ++ msField b.msSettled ++ msField b.msCascade ++ (List.range 16).flatMap fun g => le 1 (Sparse.get 0 b.reasons g)))

/-- C341h Retry Group Admission; Busy before GROUPS_SETTLED and while an admission runs or a retry of R404 is due. -/
def execRetryGroupAdmission (p : Path) (g : BitVec 8) (s : State) : Host.Outcome State Fault Refusal :=
  done (s.privilegedBackground (.retryGroupAdmission p g) p opRetryGroup fun s =>
    let n := g.toNat
    if 15 < n then (s, some .invalidInput)
    else if !s.ready rdySettled then (s, some .busy)
    else if !s.groupWithheld n ∨ Sparse.get 0 s.boot.reasons n = 5 then (s, some .invalidInput)
    else if s.boot.admission.isSome ∨ s.nextRetry.isSome then (s, some .busy)
    else ((s.startAdmission n true (some p)).progress (some p) opRetryGroup 16, none))

/-- C342h Set Group Admission: from the next bring-up. -/
def execSetGroupAdmission (p : Path) (g action : BitVec 8) (s : State) : Host.Outcome State Fault Refusal :=
  done (s.privileged (.setGroupAdmission p g action) p 0xC342 fun s =>
    let bit := BitVec.ofNat 16 (2 ^ g.toNat)
    let new := if action = 1 then s.boot.heldOut ||| bit else s.boot.heldOut &&& ~~~ bit
    if 15 < g.toNat ∨ 1 < action.toNat ∨ new = 0xFFFF then refuse s .invalidInput
    else
      let s := s.onBoot fun b => { b with heldOut := new }
      (s, .success, s.status (if bitAt new.toNat g.toNat == bitAt s.boot.heldOutNow.toNat g.toNat then 0 else 1) true))

end Sys2Proof.Machine
end

