-- ==== Sys2Proof/Machine/PowerOps.lean ====
section
/-! DEFINITION. What the power path, the power states and the thermal limits share: events held without firmware (R455), the loss
of main power (R416), the start of the eaves domain (R411, R448, R497, R521), the conditions of the switch (R440), conversions and
energy (R451, R452), and the controller's thermal ladder (R514). -/

namespace Sys2Proof.Machine

/-! ## Events and the main rails -/

/-- Raise an event of the power path: without firmware it is held in retention RAM, the newest 16 (R455). -/
def State.raisePower (s : State) (code : Nat) (log : EventLog) (data : List Byte) : State :=
  if s.ready rdyMailbox then s.raiseAll code log data
  else s.onPower fun p =>
    let held := p.held ++ [(code, logIndex log, 0xFFFF, data, [])]
    { p with held := held.drop (held.length - 16) }

/-- Off-aux is entered (R416): the main rails are off. -/
def State.enterOffAux (s : State) : State :=
  let s := s.onPower fun p => { p with railsGoodAt := none }
  if s.eaves.st = .offAux then s
  else
    let s := s.powerOff.changeState .offAux none
    s.onConn fun c => { c with locate := .off, wake0 := false, wake1 := false }

/-- The eaves domain starts (R411, R448, R497, R521): the time base goes on from the saved count, the policies come from the log
store, and the sideband straps are sampled. -/
def State.startEaves (s : State) : State :=
  let k := s.stored
  let s := s.onEaves fun e => { e with retention := true, seconds := k.seconds, secondsAt := s.clock, sampled := k.windows, crystal := true }
  let s := s.onPower fun p => { p with limit := k.power.1, retry := k.power.2.1, soa := k.power.2.2.1, delay := k.power.2.2.2 }
  s.onConn fun c => { c with inForce := { c.inForce with sbmode := c.now.sbmode, sa := c.now.sa }, dynamic := none }

/-! ## The switch -/

/-- The conditions of R440, and of R515 after a thermal shutdown. -/
def State.mayStart (s : State) : Bool :=
  let p := s.power
  p.present && p.mainIn && p.auxIn && s.eaves.retention && !p.latched && !p.tripWait && !s.therm.coolDown

/-- The insertion delay starts when every condition first holds (R440). -/
def State.tryDelay (s : State) : State :=
  if s.power.sw = .off && s.mayStart then s.onPower fun p => { p with sw := .delay } else s

/-- The switch opens (R439, R449); a latch stays. -/
def State.openSwitch (s : State) : State :=
  s.onPower fun p => { p with sw := if p.latched then .latched else .off }

/-- Does the switch conduct? -/
def Switch.closed : Switch → Bool
  | .ramp => true
  | .rails => true
  | .on => true
  | _ => false

/-! ## The safe-operating-area timer -/

/-- The setting of the safe-operating-area timer in 1/8 µs (R443). -/
def PowerPath.soaSetting (p : PowerPath) : Nat := p.soa * 800

/-- The integrator at a clock, in 1/8 µs: up at full rate in fold-back, down at one eighth outside it, never below zero (R443). -/
def PowerPath.soaAt (p : PowerPath) (now : Nat) : Nat :=
  let us := usOf (now - p.foldSince)
  if p.foldback then min (p.soa8 + 8 * us) p.soaSetting else p.soa8 - us

/-- Fold-back begins or ends. -/
def State.setFold (s : State) (v : Bool) : State :=
  s.onPower fun p => if p.foldback = v then p else { p with soa8 := p.soaAt s.clock, foldSince := s.clock, foldback := v }

/-! ## Measurement -/

/-- A conversion (R451 to R453): readings, power, energy over the time since the last, and in Active the peaks. -/
def State.convert (s : State) (mainMv mainMa auxMv aux100uA : Nat) (us : Nat) (peaks : Bool) : State :=
  let p10 := 10 * mainMv * mainMa + auxMv * aux100uA
  let mw := p10 / 10000
  s.onPower fun p =>
    { p with
      mainMv := BitVec.ofNat 16 mainMv, mainMa := BitVec.ofNat 16 mainMa, auxMv := BitVec.ofNat 16 auxMv,
      aux100uA := BitVec.ofNat 16 aux100uA, powerMw := BitVec.ofNat 32 mw, energy := p.energy + p10 * us,
      peakMa := if peaks then BitVec.ofNat 16 (max p.peakMa.toNat mainMa) else p.peakMa,
      peakMw := if peaks then BitVec.ofNat 32 (max p.peakMw.toNat mw) else p.peakMw,
      conversionSeconds := s.seconds }

/-! ## The controller's thermal ladder -/

/-- Half degrees at which a controller stage is entered, and below which it is left (R514). -/
def controllerMarks : Nat → Int × Int
  | 1 => (200, 190)
  | _ => (216, 206)

/-- The hottest controller sensor: its number among the sensors of R515, and its reading. -/
def Thermal.hottest (t : Thermal) : Nat × BitVec 16 :=
  (t.sensors.zipIdx.foldl (fun (best : Option (Nat × BitVec 16)) x =>
    match best with
    | some b => if b.2.toInt < x.1.toInt then some (16 + x.2, x.1) else some b
    | none => some (16 + x.2, x.1)) none).getD (16, 0)

/-- One step of the controller stage, with event 1302h; at C2 the engines' jobs pause (R143, R514). Seconds at C1 or above count from
and to the edges (C4C0h). -/
def State.setControllerStage (s : State) (k : Nat) : State :=
  let old := s.therm.controller
  let (sensor, v) := s.therm.hottest
  let s := s.onTherm fun t =>
    { t with controller := k,
             c1Since := if old = 0 ∧ 1 ≤ k then some s.clock else if k = 0 then none else t.c1Since,
             c1Cycles := if k = 0 then t.c1Cycles + (s.clock - t.c1Since.getD s.clock) else t.c1Cycles }
  let s := s.raiseAll 0x1302 .warning (le 1 old ++ le 1 k ++ le 1 sensor ++ le 2 v.toNat)
  if k = 2 then foldState State.pauseJob s (List.range 4) else s

/-- The controller stage follows the hottest sensor, one step at a time. -/
def State.controllerThermal (s : State) : Nat → State
  | 0 => s
  | fuel + 1 =>
    let k := s.therm.controller
    let v := s.therm.hottest.2.toInt
    if k < 2 ∧ (controllerMarks (k + 1)).1 ≤ v then (s.setControllerStage (k + 1)).controllerThermal fuel
    else if 1 ≤ k ∧ v < (controllerMarks k).2 then (s.setControllerStage (k - 1)).controllerThermal fuel
    else s

/-- The sensors are read and both ladders act on them (R514). -/
def State.readSensors (s : State) (groups controller : List (BitVec 16)) : State :=
  let s := s.onTherm fun t => { t with sensors := controller }
  let s := foldState (fun s g => s.onGroup g fun x => { x with sensor := groups.getD g 0 }) s (List.range 16)
  let s := foldState (fun s g => s.dramThermal g 4) s (List.range 16)
  s.controllerThermal 4

end Sys2Proof.Machine
end

