-- ==== Sys2Proof/Machine/PowerStates.lean ====
section
/-! DEFINITION. The power states (spec/14_eaves_and_power_states.md R411 to R437): the conditions of Drowse and Watch, the sleep
handshake, the sampler, the sideband wake, and the commands C380h to C385h. The exit from Watch is in Machine/Serve.lean. -/

namespace Sys2Proof.Machine

/-! ## When the sled may sleep -/

/-- Is every channel group powered down: none live, waking or being admitted (R417)? -/
def State.groupsDown (s : State) : Bool :=
  s.boot.admission.isNone && (List.range 16).all fun g => (s.group g).st != .live && !(s.group g).waking

/-- Background work that keeps the sled awake (R417). -/
def State.owesWork (s : State) : Bool :=
  let promoting := s.place.engines.any fun e => match e with | .promotion _ _ _ _ => true | _ => false
  s.xlat.rebuild.isSome || !s.xlat.rebuildsWaiting.isEmpty || s.xlat.clearing.isSome || !s.xlat.swaps.isEmpty
    || s.xlat.dir.any (fun e => e.2.walks != 0) || s.flash.pass.isSome || !s.spare.moving.isEmpty || !s.spare.urgent.isEmpty
    || !s.xlat.moves.isEmpty || !s.spare.scrubs.isEmpty || !s.casc.resilver.isEmpty || promoting || !s.place.promotionsWaiting.isEmpty

/-- Is a command in service or a background command running (R417)? -/
def State.commandsRun (s : State) : Bool :=
  !s.purlin.relays.isEmpty || !s.purlin.serving.isEmpty || s.purlin.background.any fun b => b.2.running

/-- The conditions of R417 other than the link condition. -/
def State.idle (s : State) : Bool :=
  s.eaves.drowseOn && s.storeUsed == 0 && s.reg.landed.isEmpty && s.reg.inFlight.isEmpty && !s.commandsRun && s.groupsDown && !s.owesWork

/-- Is every trained host link in the state that a target asks (R417, R420)? -/
def State.linksRest (s : State) (target : SledState) : Bool :=
  let rests (x : PortState) : Bool := !x.up || (if target = .watch then x.l2 else x.l1)
  rests s.host.hp0 && rests s.host.hp1

/-- Is every rafter port disabled with Set Rafter Port (R420)? -/
def State.portsDisabled (s : State) : Bool := (List.range 4).all fun p => !(s.rport p).enabled

/-- Does a logical device hold accepted capacity? -/
def State.holdsCapacity (s : State) (l : LdId) : Bool :=
  !(s.blocksOf l).isEmpty || s.casc.extents.any fun e => e.accepted && e.ld == l

/-- The logical devices whose consent is still required (R420), in the bit order of Get Power State. -/
def State.consentWanted (s : State) : Nat :=
  ((s.lds.filter fun l => s.holdsCapacity l &&
    !(if s.host.gfam then s.eaves.wholeConsent else bitAt s.eaves.consent.toNat l.toNat)).map fun l => 2 ^ l.toNat).sum

/-- The conditions of R420. -/
def State.watchReady (s : State) : Bool :=
  s.eaves.watchOn && s.consentWanted == 0 && s.portsDisabled && s.linksRest .watch && s.idle

/-! ## The handshake -/

/-- The blocks in the order in which they are asked (R428). -/
def sleepOrder : List Nat := [1, 2, 3, 4, 5, 6, 7, 8, 9, 10, 11, 12, 16, 17, 18, 19]

/-- Is a block ID one of R428? -/
def sleepBlock (id : Nat) : Bool := sleepOrder.contains id

/-- Why a block cannot agree (R428, R430); 0 where it can. -/
def State.sleepRefusal (s : State) (target : SledState) (id : Nat) : Nat :=
  let watch := target = .watch
  let port (x : PortState) : Nat := if x.up && !(if watch then x.l2 else x.l1) then 3 else 0
  match id with
  | 1 => port s.host.hp0
  | 2 => port s.host.hp1
  | 3 => if watch && !s.portsDisabled then 3 else 0
  | 5 => if s.storeUsed = 0 && s.reg.inFlight.isEmpty then 0 else 1
  | 6 => if s.place.engines.any (fun e => match e with | .promotion _ _ _ _ => true | _ => false) then 2 else 0
  | 8 => if s.owesWork || (watch && s.xlat.cache.any fun e => e.2.dirty) then 2 else 0
  | 9 => if s.tile.gathers.isEmpty then 0 else 4
  | 10 => if s.spare.locks.isEmpty then 0 else 1
  | 11 => if s.commandsRun then 1 else if watch && s.eaves.saveAreas.isEmpty then 6 else 0
  | 16 => if (List.range 4).any fun g => (s.group g).st == .live then 2 else 0
  | 17 => if (List.range 4).any fun g => (s.group (4 + g)).st == .live then 2 else 0
  | 18 => if (List.range 4).any fun g => (s.group (8 + g)).st == .live then 2 else 0
  | 19 => if (List.range 4).any fun g => (s.group (12 + g)).st == .live then 2 else 0
  | _ => 0

/-- The region test abandons its region before the first block is asked (R461, R463). -/
def State.leaveRegion (s : State) : State :=
  if s.sram.inTest then s.onSram fun m => { m with inTest := false, skipped := m.skipped + 1 } else s

/-- An entry asks its first block. -/
def State.beginEntry (s : State) (target : SledState) : State :=
  s.leaveRegion.onEaves fun e => { e with entry := some { target }, retry := none, gated := [] }

/-- Place one run of the Watch save area. -/
def saveRun (strong : Bool) (x : State × List Run) (n : Nat) : State × List Run :=
  let (s, r) := x.1.alloc? n strong false
  (s, x.2 ++ r.toList)

/-- Place the 65,536 slots of the Watch save area (R421): one run of stripes, or light runs of a lath each; none where a part finds
no place. -/
def State.allocSave (s : State) : State × List Run :=
  let lens := if s.strongReady then [65536] else [15360, 15360, 15360, 15360, 4096]
  let x := lens.foldl (saveRun s.strongReady) (s, [])
  if x.2.length = lens.length then x else (x.2.foldl State.unalloc x.1, [])

/-- The entry work of Watch (R421): jobs stop with reason 5, gathers close, dirty battens are written back, the save area is placed. -/
def State.watchWork (s : State) : State :=
  let jobs := (s.place.jobs.filter fun (j : Nat × Job) => j.2.st == .running || j.2.st == .paused).map fun j => j.1
  let s := foldState (fun s j => s.stopJob j 5) s jobs
  let s := s.closeGathers fun _ => true
  let s := foldState State.writeBackBatten s ((s.xlat.cache.filter fun c => c.2.dirty).map fun c => c.1)
  let (s, runs) := s.allocSave
  s.onEaves fun e => { e with saveAreas := runs, stopped := jobs }

/-- Free the Watch save area. -/
def State.freeSave (s : State) : State :=
  (foldState State.release s s.eaves.saveAreas).onEaves fun e => { e with saveAreas := [] }

/-- Abandon an entry (R429): every agreed block restarts; a Watch entry gives back its save area and resumes the jobs it stopped. -/
def State.abandonEntry (s : State) : State :=
  let jobs := s.eaves.stopped
  let s := s.onEaves fun e => { e with entry := none, gated := [], stopped := [] }
  let s := s.freeSave
  foldState (fun s j => if (s.job j).st = .stopped ∧ (s.job j).reason = 5 then s.resumeJob j 0 else s) s jobs

/-- Count a refusal of a block (R430). -/
def Refusals.count (r : Refusals) (reason seconds : Nat) : Refusals :=
  { counts := r.counts.set (reason - 1) (min (r.counts.getD (reason - 1) 0 + 1) 0xFFFFFFFF), lastReason := reason, seconds }

/-- A block refuses (R429, R430): the entry is abandoned, the refusal counted, event 0E02h raised, and the back-off doubles for the
next refusal up to its ceiling. -/
def State.refuseSleep (s : State) (e : Entry) (id reason : Nat) : State :=
  let s := s.abandonEntry
  let s := s.onEaves fun x =>
    { x with refusals := Sparse.modify {} x.refusals id fun r => r.count reason s.seconds,
             retry := some e.target,
             backoffUs := min (2 * x.backoffUs) (1000 * x.ceilingMs) }
  s.raiseLimited 0x0E02 id .warning 0xFFFF (le 1 e.target.code ++ le 1 id ++ le 1 reason ++ zeros 4) [(3, 4)] [1] s.lds

/-- The commit of an entry (R429, R431). -/
def State.commitEntry (s : State) (target : SledState) : State :=
  (s.onEaves fun e => { e with entry := none, backoffUs := 1000, stopped := [], exiting := false }).changeState target none

/-- A block agrees (R428): its clocks are gated; the thatch engines' jobs pause in Drowse (R418). The sixteenth commits the entry. -/
def State.agreeSleep (s : State) (e : Entry) (id : Nat) : State :=
  if e.next + 1 < sleepOrder.length then
    let s := s.onEaves fun x => { x with gated := x.gated ++ [id], entry := some { e with next := e.next + 1 } }
    if id = 6 ∧ e.target = .drowse then foldState State.pauseJob s (List.range 4) else s
  else (s.onEaves fun x => { x with gated := x.gated ++ [id] }).commitEntry e.target

/-- The answer of the block asked (R429): `refusal` is the reason a block gives of itself, or 0. -/
def State.answerSleep (s : State) (refusal : Nat) : State :=
  match s.eaves.entry with
  | none => s
  | some e =>
    let id := sleepOrder.getD e.next 0
    let r := if 1 ≤ refusal ∧ refusal ≤ 6 then refusal else s.sleepRefusal e.target id
    if r ≠ 0 then s.refuseSleep e id r
    else if e.wake then s.abandonEntry
    else s.agreeSleep e id

/-- DROWSE_IDLE_TIMER (R417): the conditions have held for the idle time, and the handshake starts. -/
def execDrowseIdleTimer (s : State) : Host.Outcome State Fault Refusal :=
  if s.eaves.st = .active ∧ s.boot.step ≠ .off ∧ s.eaves.entry.isNone ∧ s.eaves.retry.isNone ∧ s.linksRest .drowse ∧ s.idle then
    done (s.beginEntry .drowse)
  else done s

/-- WATCH_ENTRY_START (R416, R420, R421): a sled in Drowse first returns to Active. -/
def execWatchEntryStart (s : State) : Host.Outcome State Fault Refusal :=
  if !s.firmwareRuns || s.purlin.paused || s.eaves.entry.isSome || !s.watchReady then done s
  else
    let back := (s.onEaves fun e => { e with gated := [] }).changeState .active none
    let s := if s.eaves.st = .drowse then back.deliverHeld else s
    if s.eaves.st ≠ .active then done s else done (s.beginEntry .watch).watchWork

/-- SLEEP_BLOCK_ANSWER (R429). -/
def execSleepBlockAnswer (refusal : BitVec 8) (s : State) : Host.Outcome State Fault Refusal := done (s.answerSleep refusal.toNat)

/-- SLEEP_ANSWER_TIMEOUT (R429): no answer within 1 ms is a refusal with reason 5. -/
def execSleepAnswerTimeout (s : State) : Host.Outcome State Fault Refusal := done (s.answerSleep 5)

/-- SLEEP_BACKOFF_RETRY (R429): the entry is tried again; Watch redoes its entry work. -/
def execSleepBackoffRetry (s : State) : Host.Outcome State Fault Refusal :=
  match s.eaves.retry with
  | none => done s
  | some t =>
    let s := s.onEaves fun e => { e with retry := none }
    if s.eaves.st ≠ .active ∨ s.eaves.entry.isSome then done s
    else if t = .watch then done (if s.eaves.watchOn && s.consentWanted == 0 then (s.beginEntry .watch).watchWork else s)
    else done (if s.eaves.drowseOn then s.beginEntry .drowse else s)

/-! ## The sampler -/

/-- Is a quantity signed (R425)? -/
def signedQuantity (i : Nat) : Bool := decide (i ≤ 18)

/-- Is one value of a quantity below another? -/
def below (i : Nat) (a b : BitVec 16) : Bool := if signedQuantity i then decide (a.toInt < b.toInt) else decide (a.toNat < b.toNat)

/-- Take a sample (R425). -/
def Sampled.take (x : Sampled) (i : Nat) (v : BitVec 16) : Sampled :=
  { x with last := v, seen := true,
           min := if x.seen && below i x.min v then x.min else v,
           max := if x.seen && below i v x.max then x.max else v }

/-- The side of its window on which a sample lies: [0] low, [1] high (R426). -/
def Sampled.crossed (x : Sampled) (i : Nat) (v : BitVec 16) : Nat :=
  b2n (x.lowOn && below i v x.low) + 2 * b2n (x.highOn && below i x.high v)

/-- SAMPLER_CYCLE (R425, R426): in Drowse and Watch the sampler converts every quantity; the energy counter adds the sampled power
over the sample period; a crossing wakes the sled, raises event 0E03h and acts on the thermal ladders. -/
def execSamplerCycle (samples : List (BitVec 16)) (s : State) : Host.Outcome State Fault Refusal :=
  if s.eaves.st ≠ .drowse ∧ s.eaves.st ≠ .watch then done s
  else
    let v (i : Nat) : BitVec 16 := samples.getD i 0
    let hits := (s.eaves.sampled.zipIdx.map fun x => (x.2, x.1.crossed x.2 (v x.2))).filter fun x => x.2 != 0
    let s := s.onEaves fun e => { e with cycles := e.cycles + 1, sampled := e.sampled.zipIdx.map fun x => x.1.take x.2 (v x.2) }
    let s := s.convert (v 19).toNat (v 21).toNat (v 20).toNat s.power.aux100uA.toNat (1000 * s.eaves.period) false
    if hits.isEmpty then done s
    else
      let s := (s.wakeDrowse 5).wakeWatch 5
      let s := foldState (fun s x => s.raiseAll 0x0E03 .warning (le 1 x.1 ++ le 2 (v x.1).toNat ++ le 1 x.2)) s hits
      done (s.readSensors ((List.range 16).map v) ((List.range 3).map fun i => v (16 + i)))

/-! ## Other events of the eaves domain -/

/-- SIDEBAND_ADDRESS_MATCH (R427). -/
def execSidebandAddressMatch (address : BitVec 7) (s : State) : Host.Outcome State Fault Refusal :=
  done (if s.ownAddress = some address then s.addressMatch address else s)

/-- CRYSTAL_STOP (R412): event 0E06h when firmware next runs. -/
def execCrystalStop (s : State) : Host.Outcome State Fault Refusal :=
  if !s.eaves.retention || !s.eaves.crystal then done s
  else
    let t := s.seconds
    let s := s.onEaves fun e => { e with crystal := false }
    done (if s.ready rdyMailbox then s.raiseAll 0x0E06 .warning (le 4 t) else s.onEaves fun e => { e with crystalEvent := some t })

/-- TIME_BASE_SAVE (R521): the seconds count is written to the log store. -/
def execTimeBaseSave (s : State) : Host.Outcome State Fault Refusal :=
  done (if s.eaves.retention then s.onEaves fun e => { e with savedSeconds := s.seconds } else s)

/-- Is a block gated (R428, R433): it agreed to a sleep entry, or it is the rafter interface and every port is disabled? -/
def State.gated (s : State) (id : Nat) : Bool := s.eaves.gated.contains id || (id == 3 && s.portsDisabled)

/-- PURLIN_GATED_ACCESS (R434). -/
def execPurlinGatedAccess (block : BitVec 8) (s : State) : Host.Outcome State Fault Refusal :=
  let id := block.toNat
  if !s.gated id then done s
  else done ((s.emit .busError).raiseLimited 0x0E05 id .warning 0xFFFF (le 1 id ++ zeros 4) [(1, 4)] [1] s.lds)

/-! ## Commands -/

/-- C380h Get Power State. -/
def execGetPowerState (p : Path) (s : State) : Host.Outcome State Fault Refusal :=
  done (s.command (.getPowerState p) p 0xC380 fun s =>
    let e := s.eaves
    (s, .success, le 2 0 ++ le 1 e.arrival.code ++ le 1 e.exitCause ++ le 4 (if s.host.gfam then b2n e.wholeConsent else e.consent.toNat)
      ++ le 4 s.consentWanted ++ le 4 e.drowses ++ le 4 e.watches ++ le 8 (msOf e.drowseCycles) ++ le 8 (msOf e.watchCycles)
      ++ le 4 e.lastExitUs ++ le 4 e.backoffUs))

/-- C381h Set Watch Consent, on a primary mailbox and on the privileged paths (R420, R436); the whole sled on these only. -/
def execSetWatchConsent (p : Path) (consent whole : Bool) (s : State) : Host.Outcome State Fault Refusal :=
  done (s.command (.setWatchConsent p consent whole) p 0xC381 fun s =>
    let primary := match p with | .primary _ _ => true | _ => false
    if !primary && !Path.privileged p then refuse s .unsupported
    else if whole && !Path.privileged p then refuse s .invalidInput
    else
      let bit := BitVec.ofNat 32 (2 ^ (s.issuing p).toNat)
      let s := s.onEaves fun e =>
        if whole then { e with wholeConsent := consent }
        else { e with consent := if consent then e.consent ||| bit else e.consent &&& ~~~ bit }
      (s, .success, s.status (if s.watchReady then 0 else 1) false))

/-- C382h Set Power State Policy. -/
def execSetPowerStatePolicy (p : Path) (drowse watch : Bool) (idleUs sampleMs ceilingMs : BitVec 32) (s : State) : Host.Outcome State Fault Refusal :=
  done (s.privileged (.setPowerStatePolicy p drowse watch idleUs sampleMs ceilingMs) p 0xC382 fun s =>
    let within (v : BitVec 32) (lo hi : Nat) : Bool := decide (lo ≤ v.toNat) && decide (v.toNat ≤ hi)
    if !within idleUs 10 100000 || !within sampleMs 1 10000 || !within ceilingMs 1 10000 then refuse s .invalidInput
    else
      let s := s.onEaves fun e =>
        { e with drowseOn := drowse, watchOn := watch, idleUs := idleUs.toNat, period := sampleMs.toNat, ceilingMs := ceilingMs.toNat }
      (s, .success, s.status 0 true))

/-- C383h Set Watch Thresholds. -/
def execSetWatchThresholds (p : Path) (index : BitVec 8) (lowOn highOn : Bool) (low high : BitVec 16) (s : State) : Host.Outcome State Fault Refusal :=
  done (s.privileged (.setWatchThresholds p index lowOn highOn low high) p 0xC383 fun s =>
    let i := index.toNat
    if 21 < i || !below i low high then refuse s .invalidInput
    else
      let s := s.onEaves fun e =>
        { e with sampled := e.sampled.zipIdx.map fun x => if x.2 = i then { x.1 with lowOn, highOn, low, high } else x.1 }
      (s, .success, s.status 0 true))

/-- C384h Get Watch Samples. -/
def execGetWatchSamples (p : Path) (s : State) : Host.Outcome State Fault Refusal :=
  done (s.command (.getWatchSamples p) p 0xC384 fun s =>
    (s, .success, le 2 0 ++ zeros 2 ++ le 4 s.eaves.cycles
      ++ s.eaves.sampled.flatMap fun x => le 2 x.last.toNat ++ le 2 x.min.toNat ++ le 2 x.max.toNat))

/-- C385h Get Sleep Refusals. -/
def execGetSleepRefusals (p : Path) (block : BitVec 8) (s : State) : Host.Outcome State Fault Refusal :=
  done (s.command (.getSleepRefusals p block) p 0xC385 fun s =>
    if !sleepBlock block.toNat then refuse s .invalidInput
    else
      let r := Sparse.get {} s.eaves.refusals block.toNat
      (s, .success, le 2 0 ++ le 1 r.lastReason ++ zeros 1 ++ le 4 r.seconds ++ r.counts.flatMap fun n => le 4 n))

end Sys2Proof.Machine
end

