-- ==== Sys2Proof/Machine/PowerPath.lean ====
section
/-! DEFINITION. The power path (spec/15_power_path.md R438 to R455): insertion and removal, the switch, trips and the latch, measurement,
and the commands C3C0h to C3C4h; the release of the hub at main rails good (spec/13_bring_up.md R393 to R396). -/

namespace Sys2Proof.Machine

/-! ## Inputs -/

/-- A bring-up starts (R393): milestones count from here. -/
def State.insertion (s : State) : State := (s.onBoot fun b => { b with inserted := s.clock }).tryDelay

/-- The sled is in its bay again within hold-up (R450): event 0F05h. -/
def State.reinserted (s : State) : State :=
  match s.power.removedAt with
  | none => s
  | some t =>
    if s.power.present && s.power.auxIn then
      (s.onPower fun p => { p with removedAt := none }).raisePower 0x0F05 .warning
        (le 2 (secOf (s.clock - t)) ++ le 1 s.power.count ++ le 1 (b2n s.power.latched))
    else s

/-- AUX_POWER_UP (R411, R448): aux enters its window and the eaves domain runs from it. -/
def execAuxPowerUp (s : State) : Host.Outcome State Fault Refusal :=
  if s.power.auxIn then done s
  else
    let s := s.onPower fun p => { p with auxIn := true }
    let s := if s.eaves.retention then s else s.startEaves
    done s.reinserted.insertion

/-- PRSNT_ASSERT (R440, R450, R497). -/
def execPrsntAssert (s : State) : Host.Outcome State Fault Refusal :=
  if s.power.present then done s
  else
    let s := s.onPower fun p => { p with present := true }
    let s := if s.power.auxIn && !s.eaves.retention then s.startEaves else s
    let s := s.onConn fun c => { c with inForce := { c.inForce with sbmode := c.now.sbmode, sa := c.now.sa } }
    done s.reinserted.insertion

/-- A removal (R449): the switch opens, and hold-up runs from here. -/
def State.remove (s : State) : State :=
  let s := s.setFold false
  let s := s.openSwitch.onPower fun p => { p with removedAt := if s.eaves.retention then some (p.removedAt.getD s.clock) else none }
  s.enterOffAux

/-- PRSNT_DEASSERT (R449). -/
def execPrsntDeassert (s : State) : Host.Outcome State Fault Refusal :=
  if !s.power.present then done s else done (s.onPower fun p => { p with present := false }).remove

/-- AUX_EXCURSION (R439, R449): handled as a removal. -/
def execAuxExcursion (s : State) : Host.Outcome State Fault Refusal :=
  if !s.power.auxIn then done s else done (s.onPower fun p => { p with auxIn := false }).remove

/-- MAIN_EXCURSION (R439): the switch opens, no trip counts, event 0F03h. -/
def execMainExcursion (excess : Bool) (mv : BitVec 16) (s : State) : Host.Outcome State Fault Refusal :=
  if !s.power.mainIn then done s
  else
    let s := s.onPower fun p => { p with mainIn := false, excursions := min (p.excursions + 1) 0xFFFFFFFF }
    let s := (s.setFold false).openSwitch.enterOffAux
    done (s.raisePower 0x0F03 .warning (le 1 (if excess then 2 else 1) ++ le 2 mv.toNat))

/-- MAIN_IN_WINDOW (R393, R439): the insertion delay runs again. -/
def execMainInWindow (s : State) : Host.Outcome State Fault Refusal :=
  if s.power.mainIn then done s else done (s.onPower fun p => { p with mainIn := true }).insertion

/-- HOLDUP_END (R449, R452, R521): the count is saved, retention RAM is erased and the eaves domain shuts down. -/
def execHoldupEnd (s : State) : Host.Outcome State Fault Refusal :=
  if s.power.removedAt.isNone then done s
  else
    let p := s.power
    let k := s.stored
    let s := s.onEaves fun e =>
      { drowseOn := e.drowseOn, watchOn := e.watchOn, idleUs := e.idleUs, period := e.period, ceilingMs := e.ceilingMs,
        sampled := k.windows, savedSeconds := s.seconds, seconds := s.seconds, secondsAt := s.clock }
    let s := s.onPower fun _ =>
      { present := p.present, mainIn := p.mainIn, auxIn := p.auxIn, limit := k.power.1, retry := k.power.2.1, soa := k.power.2.2.1,
        delay := k.power.2.2.2 }
    done (s.onTherm fun _ => {})

/-! ## The ramp -/

/-- INSERTION_DELAY_END (R440): with every condition holding the ramp begins; else the delay waits for them. -/
def execInsertionDelayEnd (s : State) : Host.Outcome State Fault Refusal :=
  if s.power.sw ≠ .delay then done s else done (s.onPower fun p => { p with sw := if s.mayStart then .ramp else .off })

/-- RAMP_POWER_GOOD (R441). -/
def execRampPowerGood (s : State) : Host.Outcome State Fault Refusal :=
  done (if s.power.sw = .ramp then s.onPower fun p => { p with sw := .rails } else s)

/-- RAILS_GOOD (R394 steps 3 and 4, R396, R441, R479, R497, R521): the hub is released from reset, and its boot ROM tests the
SRAM banks; `marchOk`: every bank and the checker pass. -/
def execRailsGood (marchOk : Bool) (s : State) : Host.Outcome State Fault Refusal :=
  if s.power.sw ≠ .rails then done s
  else
    let s := s.onPower fun p => { p with sw := .on, railsGoodAt := some s.clock }
    let s := s.onConn fun c =>
      { c with inForce := { c.inForce with id := c.now.id, idv := c.now.idv, ridge := c.now.ridge }, sampledAt := s.seconds, locate := .off }
    let s := s.onEaves fun e => { e with savedSeconds := s.seconds, cycles := 0, consent := 0, wholeConsent := false }
    let s := s.onCtr fun c => { c with epoch := c.epoch + 1, bringUpAt := s.clock }
    let s := s.changeState .active none
    let s := s.onBoot fun b =>
      { b with step := if marchOk then .sramTested else .hubReleased, msPower := some s.msNow, heldOutNow := b.heldOut }
    let s := if marchOk then s.setReady rdySram true else s.setReady rdyRecovery true
    done (s.milestone 1)

/-! ## Trips -/

/-- A trip (R445, R446, R448): the switch opens, the trip is counted and recorded, and above the retry limit the switch latches. -/
def State.trip (s : State) (cause : Nat) (t : TripSense) : State :=
  let p := s.power
  let phase := if p.sw = .ramp then 1 else 2
  let soa := p.soaAt s.clock
  let count := min (p.count + 1) 255
  let latch := decide (p.retry < count)
  let now := s.seconds
  let s := s.setFold false
  let s := s.onPower fun p =>
    { p with sw := if latch then .latched else .retryWait, count, latched := latch, tripWait := true, lastCause := cause,
             lastTripSeconds := now, trips := min (p.trips + 1) 0xFFFFFFFF,
             records := ({ seconds := now, cause, phase, count, latched := latch, mainMv := t.mainMv.toNat, busMv := t.busMv.toNat,
                           peakMa := t.peakMa.toNat, soaUs := soa / 8 } :: p.records).take 16 }
  let s := s.enterOffAux
  let s := s.raisePower 0x0F01 .failure (le 1 cause ++ le 1 phase ++ le 1 count ++ le 2 t.peakMa.toNat)
  if latch then s.raisePower 0x0F04 .failure (le 1 count ++ le 1 cause) else s

/-- RAMP_TIMEOUT (R445): power good is not reached within 40 ms. -/
def execRampTimeout (sense : TripSense) (s : State) : Host.Outcome State Fault Refusal :=
  done (if s.power.sw = .ramp then s.trip 3 sense else s)

/-- RAILS_TIMEOUT (R445): the rails are not good within 20 ms of power good. -/
def execRailsTimeout (sense : TripSense) (s : State) : Host.Outcome State Fault Refusal :=
  done (if s.power.sw = .rails then s.trip 4 sense else s)

/-- REGULATOR_FAULT (R445): a regulator faults while on. -/
def execRegulatorFault (sense : TripSense) (s : State) : Host.Outcome State Fault Refusal :=
  done (if s.power.sw = .on then s.trip 4 sense else s)

/-- FOLDBACK_ENTRY (R442, R443). -/
def execFoldbackEntry (s : State) : Host.Outcome State Fault Refusal := done (if s.power.sw.closed then s.setFold true else s)

/-- FOLDBACK_EXIT (R443): the timer counts down at one eighth of its rate. -/
def execFoldbackExit (s : State) : Host.Outcome State Fault Refusal := done (s.setFold false)

/-- SOA_TIMER_EXPIRY (R443): the integrator, which counts up in fold-back, reaches its setting. -/
def execSoaTimerExpiry (sense : TripSense) (s : State) : Host.Outcome State Fault Refusal :=
  if s.power.sw.closed && s.power.foldback then
    done ((s.onPower fun p => { p with soa8 := p.soaSetting, foldSince := s.clock }).trip 1 sense)
  else done s

/-- FAST_TRIP (R444). -/
def execFastTrip (sense : TripSense) (s : State) : Host.Outcome State Fault Refusal :=
  done (if s.power.sw.closed then s.trip 2 sense else s)

/-- TRIP_RETRY (R440, R446): 1 s after a trip; an unlatched sled whose inputs have held ramps again, with event 0F02h. -/
def execTripRetry (s : State) : Host.Outcome State Fault Refusal :=
  if !s.power.tripWait then done s
  else
    let s := s.onPower fun p => { p with tripWait := false }
    if s.power.sw = .retryWait ∧ s.mayStart then
      done ((s.onPower fun p => { p with sw := .ramp }).raisePower 0x0F02 .warning (le 1 s.power.count ++ le 1 s.power.retry))
    else done s.tryDelay

/-- TRIP_COUNT_RESET (R446): the rails have stayed good for 60 s without a trip. -/
def execTripCountReset (s : State) : Host.Outcome State Fault Refusal :=
  done (if s.power.sw = .on then s.onPower fun p => { p with count := 0 } else s)

/-- POWER_CONVERSION (R451): every 100 µs in Active; every 100 ms in Off-aux, where the main current is zero; in Drowse and Watch
only the sampler converts. -/
def execPowerConversion (c : Conversion) (s : State) : Host.Outcome State Fault Refusal :=
  match s.eaves.st with
  | .active => done (s.convert c.mainMv.toNat c.mainMa.toNat c.auxMv.toNat c.aux100uA.toNat 100 true)
  | .offAux =>
    if s.eaves.retention then done (s.convert c.mainMv.toNat 0 c.auxMv.toNat c.aux100uA.toNat 100000 false) else done s
  | _ => done s

/-! ## Commands -/

/-- The code of the switch (C3C0h byte 2). -/
def Switch.code : Switch → Nat
  | .off => 0 | .delay => 1 | .ramp => 2 | .rails => 2 | .on => 3 | .retryWait => 4 | .latched => 5

/-- C3C0h Get Power Path Status. -/
def execGetPowerPathStatus (p : Path) (s : State) : Host.Outcome State Fault Refusal :=
  done (s.arrive (.getPowerPathStatus p) p 0xC3C0 true fun s =>
    let x := s.power
    let holds := b2n x.present + 2 * b2n x.mainIn + 4 * b2n x.auxIn + 8 * b2n (!x.latched) + 16 * b2n (!x.tripWait)
    (s, .success, le 2 0 ++ le 1 x.sw.code ++ le 1 x.count ++ le 1 holds ++ le 1 x.lastCause ++ zeros 2 ++ le 4 x.lastTripSeconds
      ++ le 4 (match x.railsGoodAt with | some t => msOf (s.clock - t) | none => 0xFFFFFFFF) ++ le 4 x.trips ++ le 4 x.excursions))

/-- C3C1h Set Power Path Policy. -/
def execSetPowerPathPolicy (p : Path) (limit retry : BitVec 8) (soa delay : BitVec 16) (s : State) : Host.Outcome State Fault Refusal :=
  done (s.arrive (.setPowerPathPolicy p limit retry soa delay) p 0xC3C1 true fun s =>
    let within (v lo hi : Nat) : Bool := decide (lo ≤ v) && decide (v ≤ hi)
    if !Path.privileged p then refuse s .unsupported
    else if !within limit.toNat 30 60 || !within retry.toNat 0 7 || !within soa.toNat 5 100 || !within delay.toNat 50 2000
        || decide (limit.toNat * 100 < s.power.mainMa.toNat + 500) then refuse s .invalidInput
    else
      let s := s.onPower fun x =>
        { x with limit := limit.toNat, retry := retry.toNat, soa := soa.toNat, delay := delay.toNat, soa8 := x.soaAt s.clock, foldSince := s.clock }
      (s, .success, s.status 0 true))

/-- The path code of event 0F06h: 1 sideband, 2 fabric manager; a relayed request carries that of its origin path. -/
def Path.managerCode : Path → Nat
  | .rafter _ o _ => o.toNat
  | .sideband _ => 1
  | _ => 2

/-- C3C2h Clear Power Latch (R447): the latch and the count clear, with event 0F06h. -/
def execClearPowerLatch (p : Path) (s : State) : Host.Outcome State Fault Refusal :=
  done (s.arrive (.clearPowerLatch p) p 0xC3C2 true fun s =>
    if !Path.privileged p then refuse s .unsupported
    else if !s.power.latched then (s, .success, le 2 1 ++ le 1 s.power.count ++ zeros 1)
    else
      let before := s.power.count
      let s := s.onPower fun x => { x with latched := false, count := 0, sw := if x.sw = .latched then .off else x.sw }
      let s := s.raisePower 0x0F06 .informational (le 1 before ++ le 1 (Path.managerCode p))
      (s.tryDelay, .success, le 2 0 ++ le 1 before ++ zeros 1))

/-- C3C3h Get Power Readings; the resets act in the instant of the reading. -/
def execGetPowerReadings (p : Path) (resetPeaks resetEnergy : Bool) (s : State) : Host.Outcome State Fault Refusal :=
  done (s.arrive (.getPowerReadings p resetPeaks resetEnergy) p 0xC3C3 true fun s =>
    let x := s.power
    let out := le 2 0 ++ le 2 x.mainMv.toNat ++ le 2 x.mainMa.toNat ++ le 2 x.auxMv.toNat ++ le 2 x.aux100uA.toNat ++ zeros 2
      ++ le 4 x.powerMw.toNat ++ le 8 (x.energy / 10 ^ 7) ++ le 2 x.peakMa.toNat ++ zeros 2 ++ le 4 x.peakMw.toNat ++ le 4 x.conversionSeconds
    let s := s.onPower fun x =>
      { x with peakMa := if resetPeaks then 0 else x.peakMa, peakMw := if resetPeaks then 0 else x.peakMw,
               energy := if resetEnergy then 0 else x.energy }
    (s, .success, out))

/-- A trip record (R448). -/
def TripRecord.toBytes (r : TripRecord) : List Byte :=
  le 4 r.seconds ++ le 1 r.cause ++ le 1 r.phase ++ le 1 r.count ++ le 1 (b2n r.latched) ++ le 2 r.mainMv ++ le 2 r.busMv ++ le 2 r.peakMa ++ le 2 r.soaUs

/-- C3C4h Get Trip Records, newest first. -/
def execGetTripRecords (p : Path) (s : State) : Host.Outcome State Fault Refusal :=
  done (s.arrive (.getTripRecords p) p 0xC3C4 true fun s =>
    let r := s.power.records
    (s, .success, le 2 0 ++ le 1 r.length ++ zeros 1 ++ slice (r.flatMap TripRecord.toBytes) 0 256))

end Sys2Proof.Machine
end

