-- ==== Sys2Proof/Machine/OnChipMemory.lean ====
section
/-! DEFINITION. On-chip memory (spec/16_on_chip_memory.md R461 to R466): the region test, and commands C400h and C401h. Corrected and
uncorrectable words are met where a unit reads them (Machine/CacheOps.lean). -/

namespace Sys2Proof.Machine

/-- Does the region test run: in Active, enabled, and stopped by no failure (R461, R462)? -/
def State.regionTests (s : State) : Bool := s.hubRuns && s.ready rdySram && s.sram.enable && s.sram.stopped.isNone

/-- The next region, in bank order and then region order; a lap of 16,384 regions ends after the last (R461). -/
def OnChip.nextRegion (m : OnChip) (now : Nat) : OnChip :=
  if m.region < 63 then { m with region := m.region + 1 }
  else if m.bank < 255 then { m with bank := m.bank + 1, region := 0 }
  else { m with bank := 0, region := 0, lastLap := msOf (now - m.lapStart) }

/-- REGION_TEST_INTERVAL (R461, R462): the next region is tested. `failingWord`: the march met a failing cell in that word, and the
region stays on the shadow bank; `finished`: the region is done, else it is still in test. -/
def execRegionTestInterval (failingWord : Option (BitVec 16)) (finished : Bool) (s : State) : Host.Outcome State Fault Refusal :=
  if !s.regionTests then done s
  else
    let s := s.onSram fun m => if m.bank = 0 ∧ m.region = 0 ∧ !m.inTest then { m with lapStart := s.clock } else m
    match failingWord with
    | some w =>
      let (b, r) := (s.sram.bank, s.sram.region)
      let s := s.onSram fun m => { m with inTest := false, stopped := some (b, r) }
      done (s.raiseAll 0x1003 .failure (le 2 b ++ le 1 r ++ le 2 w.toNat))
    | none =>
      if finished then done (s.onSram fun m => ({ m with inTest := false, done := m.done + 1 } : OnChip).nextRegion s.clock)
      else done (s.onSram fun m => { m with inTest := true })

/-- REGION_TEST_ABANDON (R461): a region not finished 100 µs after copy-in is skipped and tried again. -/
def execRegionTestAbandon (s : State) : Host.Outcome State Fault Refusal := done s.leaveRegion

/-- C400h Get On-chip Memory Status. -/
def execGetOnchipMemoryStatus (p : Path) (s : State) : Host.Outcome State Fault Refusal :=
  done (s.command (.getOnchipMemoryStatus p) p 0xC400 fun s =>
    let m := s.sram
    let held := match m.stopped with
      | some x => le 2 x.1 ++ le 1 x.2
      | none => le 2 0xFFFF ++ le 1 Config.noRegion.toNat
    (s, .success, le 2 0 ++ le 1 (b2n m.enable + 2 * b2n m.stopped.isSome) ++ zeros 1 ++ held ++ le 1 m.fencedRecords ++ le 4 m.lastLap
      ++ le 8 m.done ++ le 8 m.skipped ++ le 8 (m.corrected.map fun c => c.2).sum ++ le 8 m.uncorrectable
      ++ le 8 (Config.conflictWaits s.clock).toNat))

/-- C401h Set Memory Test Policy; a region in test completes first. -/
def execSetMemoryTestPolicy (p : Path) (enable : Bool) (us : BitVec 32) (s : State) : Host.Outcome State Fault Refusal :=
  done (s.privileged (.setMemoryTestPolicy p enable us) p 0xC401 fun s =>
    if us.toNat < 10 || 10000000 < us.toNat then refuse s .invalidInput
    else (s.onSram fun m => { m with enable, intervalUs := us.toNat }, .success, s.status 0 true))

end Sys2Proof.Machine
end

