-- ==== Sys2Proof/Machine/Tick.lean ====
section
/-! DEFINITION. A hub cycle passes (notes/assumptions/2.md): the clock counts on, and the condition events of the general
counters are sampled (spec/17_counters_and_trace.md R472, R473). -/

namespace Sys2Proof.Machine

/-- Does a condition event hold at an instance; at FFFFh, at any instance (R473)? -/
def State.condition (s : State) (event q : Nat) : Bool :=
  let at_ (n : Nat) (p : Nat → Bool) : Bool := if q = 0xFFFF then (List.range n).any p else decide (q < n) && p q
  match event with
  | 0x12 => at_ 16 fun g => (s.group g).st == .poweredDown
  | 0x13 => at_ 128 fun c => (s.channel c).asleep
  | 0x14 => at_ 128 fun c => (s.channel c).retraining
  | 0x15 => decide (8192 ≤ s.storeUsed)
  | 0x16 => at_ 2 fun p => (s.withheldSince p).isSome
  | 0x17 => s.reg.waiting.any fun w => w.reason == .fill
  | 0x1B => if q = 0xFFFF then decide (1 ≤ s.place.stage) else decide (1 ≤ q) && decide (q ≤ s.place.stage)
  | 0x1C => true
  | _ => false

/-- Sample the condition of one counter: 1 for each cycle in level mode, 1 for each rise in edge mode. -/
def State.sampleCounter (s : State) (n : Nat) : State :=
  let c := Sparse.get {} s.ctr.general n
  let now := s.condition c.event.toNat c.qualifier.toNat
  let s := s.onCtr fun t => { t with general := Sparse.modify {} t.general n fun c => { c with was := now } }
  if c.enable && now && (c.level || !c.was) then s.bumpOne n 1 else s

/-- One hub cycle. -/
def State.tick (s : State) : State :=
  let s := { s with clock := s.clock + 1 }
  if s.hubRuns then foldState State.sampleCounter s (Sparse.keys s.ctr.general) else s

end Sys2Proof.Machine
end

