-- ==== Sys2Proof/Machine/Flags.lean ====
section
/-! DEFINITION. The registers of BAR2 (spec/01_host_view.md R50 to R53, spec/09_queues_and_regulation.md R304,
spec/13_bring_up.md R397, spec/17_counters_and_trace.md R467 to R478): the status flags, the doorbell pages, the counter pages and the
trace window, as an MMIO access reads and writes them. -/

namespace Sys2Proof.Machine

/-! ## Sources -/

/-- The logical device of an MMIO source. -/
def State.srcLd (s : State) (m : MmioSrc) : LdId := s.ldOf m.port m.ldid
/-- The requestor ID of an MMIO source (R25, R468). -/
def State.srcRid (s : State) (m : MmioSrc) : Nat := (s.ridOf m.port m.ldid m.pbr).toNat

/-- Does a port serve MMIO: its link is up and not in L2, in a state in which the hub has power (R395, R433)? -/
def State.mmioServes (s : State) (p : HostPort) : Bool := s.portServes p

/-- Who reads a counter page: a logical device in multi-logical-device mode, whose view R468 and R478 narrow, or another reader. -/
def State.narrow (s : State) (l : LdId) : Option LdId := if !s.host.gfam && (s.port (ldPort l)).mld then some l else none

/-! ## The control and status page -/

/-- Is a log not empty? -/
def LdState.pend (d : LdState) (l : EventLog) : Bool := !(d.log l).records.isEmpty

/-- The event status register at 0100h (R52, R53). -/
def State.eventStatus (s : State) (l : LdId) : Nat :=
  let d := s.ld l.toNat
  b2n (d.pend .informational) + 2 * b2n (d.pend .warning) + 4 * b2n (d.pend .failure) + 8 * b2n (d.pend .fatal)
    + 16 * b2n (d.pend .dynamicCapacity) + 2 ^ 8 * s.place.stage + 2 ^ 16 * b2n d.pressureChg + 2 ^ 17 * b2n d.groupChg

/-- A register of the control and status page (R52); reserved offsets read 0. SLED_ID is valid once the cascade is joined. -/
def State.statusWord (s : State) (l : LdId) (off : Nat) : Nat :=
  match off with
  | 0 => s.boot.readiness.toNat
  | 4 => s.partCode * 2 ^ 16 + 0x1000
  | 8 => s.serial.toNat % 2 ^ 32
  | 12 => s.serial.toNat / 2 ^ 32
  | 16 => if s.ready rdyCascade then s.casc.sledId.toNat else 0
  | 0x100 => s.eventStatus l
  | 0x104 => b2n (s.ld l.toNat).pressureChgIe + 2 * b2n (s.ld l.toNat).groupChgIe
  | _ => 0

/-- Clear GROUP_CHG of a logical device (R52). -/
def State.clearGroupChg (s : State) (l : LdId) : State := s.onLd l.toNat fun d => { d with groupChg := false }
/-- Clear PRESSURE_CHG of a logical device (R52). -/
def State.clearPressureChg (s : State) (l : LdId) : State := s.onLd l.toNat fun d => { d with pressureChg := false }

/-- A write to the control and status page (R52): 1 to GROUP_CHG or PRESSURE_CHG clears it, the interrupt enables are stored, every
other field is read-only. -/
def State.statusWrite (s : State) (l : LdId) (off value : Nat) : State :=
  if off = 0x100 then
    let s := if bitAt value 17 then s.clearGroupChg l else s
    if bitAt value 16 then s.clearPressureChg l else s
  else if off = 0x104 then s.onLd l.toNat fun d => { d with pressureChgIe := bitAt value 0, groupChgIe := bitAt value 1 }
  else s

/-! ## Doorbell pages -/

/-- EFF_CLASS: the class that a request of a requestor's default context would take now (R304). -/
def State.effClassNow (s : State) (rid : Nat) : Nat :=
  let l := (s.ldOfRid rid).getD 0
  let base := s.baseClass (s.defaultCtx rid) l rid
  s.effClass rid base.toNat (s.urgencyOf rid)

/-- A register of a doorbell page (R304); in multi-logical-device mode the pages of another logical device's requestors read as 0
(R51). -/
def State.doorbellWord (s : State) (l : LdId) (page off : Nat) : Nat :=
  let hidden := match s.narrow l with
    | some l => s.ldOfRid page != some l
    | none => false
  if hidden then 0
  else
    match off with
    | 0 => (s.doorbell page).urgency.toNat
    | 4 => (s.doorbell page).hold.toNat
    | 8 => s.effClassNow page * 4 + s.urgencyOf page
    | _ => 0

/-- A write to a doorbell page: that of its own requestor acts; another's is discarded, counted in event 0107h to the logical
device that owns the page (R51). -/
def State.doorbellWrite (s : State) (m : MmioSrc) (page : Nat) (f : Doorbell → Doorbell) : State :=
  let rid := s.srcRid m
  if rid = page then s.onReg fun r => { r with doorbells := Sparse.modify {} r.doorbells page f }
  else
    s.raiseLimited 0x0107 page .warning rid (le 2 page ++ le 2 rid ++ zeros 4) [(4, 4)] [1]
      (match s.ldOfRid page with | some l => [l] | none => [])

/-- A write to URGENCY (R304). -/
def State.writeUrgency (s : State) (m : MmioSrc) (page value : Nat) : State :=
  s.doorbellWrite m page fun d => { d with urgency := BitVec.ofNat 2 value }

/-- A write to URGENCY_HOLD (R304). -/
def State.writeHold (s : State) (m : MmioSrc) (page value : Nat) : State :=
  s.doorbellWrite m page fun d => { d with hold := BitVec.ofNat 16 value }

/-! ## Counter pages -/

/-- May a reader see a monitor slot (R468)? -/
def Monitor.seen (m : Monitor) (viewer : Option LdId) : Bool :=
  match viewer, m.owner with
  | some l, some o => l == o
  | _, _ => true

/-- Page 0 (R469), 32 bits at an offset. -/
def State.windowWord (s : State) (off : Nat) : Nat :=
  let c := s.ctr
  if off = 0 then c.epoch.toNat
  else if off = 4 then c.window
  else if off = 8 then c.seq.toNat
  else if 0x40 ≤ off ∧ off < 0x40 + 6 * 0x40 then
    let b := Sparse.get {} c.ports ((off - 0x40) / 0x40)
    let o := (off - 0x40) % 0x40
    let v := match o / 8 with
      | 0 => b.inLast | 1 => b.outLast | 2 => b.inPeak | 3 => b.outPeak | 4 => b.inTotal | 5 => b.outTotal | _ => 0
    v % 2 ^ 64 / 2 ^ (8 * (o % 8)) % 2 ^ 32
  else if off = 0x200 then c.head.toNat
  else if off = 0x204 then c.traceDropped.toNat
  else if off = 0x208 then c.sample.toNat * 2 ^ 16 + c.kinds.toNat
  else 0

/-- The configuration word of a general counter (R472). -/
def GeneralCounter.word (c : GeneralCounter) : Nat :=
  b2n c.enable * 2 ^ 31 + b2n c.level * 2 ^ 30 + b2n c.overflow * 2 ^ 29 + c.event.toNat * 2 ^ 16 + c.qualifier.toNat

/-- Page 1 (R472). -/
def State.generalWord (s : State) (off : Nat) : Nat :=
  let c (n : Nat) : GeneralCounter := Sparse.get {} s.ctr.general n
  if off < 0x200 then (c (off / 8)).value.toNat / 2 ^ (8 * (off % 8)) % 2 ^ 32
  else if off < 0x300 then (c ((off - 0x200) / 4)).word
  else 0

/-- A word of a histogram area (R474): depth bins, then delay bins. -/
def Histogram.word (h : Histogram) (off : Nat) : Nat :=
  if off < 0x40 then h.depth.getD (off / 4) 0 else h.delay.getD ((off - 0x40) / 4) 0

/-- The binding of a monitor slot (R474). -/
def Monitor.word (m : Monitor) : Nat :=
  2 ^ 31 + m.queue % 64 * 2 ^ 24 + m.queue / 64 * 2 ^ 12 + (match m.owner with | some l => l.toNat | none => 0)

/-- 32 bits of a counter page (R467) as a reader sees them. -/
def State.counterWord (s : State) (viewer : Option LdId) (page off : Nat) : Nat :=
  if page = 0 then s.windowWord off
  else if page = 1 then s.generalWord off
  else if page ≤ 3 then (Sparse.get {} s.reg.histograms (((page - 2) * 4096 + off) / 128)).word (off % 128)
  else if page ≤ 35 then
    match Sparse.find s.reg.monitors (((page - 4) * 4096 + off) / 128) with
    | some m => if m.seen viewer then m.hist.word (off % 128) else 0
    | none => 0
  else if page = 36 then
    match Sparse.find s.reg.monitors (off / 4) with
    | some m => if m.seen viewer then m.word else 0
    | none => 0
  else 0

/-- Does a trace record belong to another logical device than its reader (R478)? -/
def State.foreignRecord (s : State) (l : LdId) (r : List Byte) : Bool :=
  let rid := fieldLe r 14 2
  let course := fieldLe r 18 4
  let named := fieldLe r 12 1 == 1 || fieldLe r 12 1 == 2
  let byRid := match s.ldOfRid rid with
    | some o => o != l
    | none => false
  let byBlock := named && course != 0xFFFFFFFF && (match s.ownerOf (course / blockCourses) with
    | some o => o != l
    | none => false)
  byRid || byBlock

/-- The 32 bytes of a slot of the trace ring (R475), as a reader sees them (R478). -/
def State.traceSlot (s : State) (viewer : Option LdId) (n : Nat) : List Byte :=
  let r := slice (Sparse.get [] s.ctr.ring n) 0 32
  match viewer with
  | some l => if s.foreignRecord l r then slice r 0 14 ++ zeros 18 else r
  | none => r

/-- 32 bits of the trace window. -/
def State.traceWord (s : State) (viewer : Option LdId) (off : Nat) : Nat := fieldLe (s.traceSlot viewer (off / 32)) (off % 32) 4

/-- Bytes of a counter page or of a trace page, from an offset that is a multiple of 4. -/
def State.counterBytes (s : State) (viewer : Option LdId) (trace : Bool) (page off len : Nat) : List Byte :=
  (List.range (len / 4)).flatMap fun i =>
    le 4 (if trace then s.traceWord viewer (page * 4096 + off + 4 * i) else s.counterWord viewer page (off + 4 * i))

/-- The access bits of a requestor (R468): [0] counters, [1] trace. -/
def State.accessOf (s : State) (rid : Nat) : Nat := (Sparse.get 0 s.ctr.access rid).toNat

/-! ## BAR2 -/

/-- An MMIO read of 32 bits (R50). -/
def State.barRead (s : State) (m : MmioSrc) (offset : Nat) : Nat :=
  let l := s.srcLd m
  let rid := s.srcRid m
  let off := offset / 4 * 4
  if off < 0x10000 then s.statusWord l off
  else if off < 0x100000 then
    if bitAt (s.accessOf rid) 0 then s.counterWord (s.narrow l) ((off - 0x10000) / 4096) (off % 4096) else 0
  else if off < 0x200000 then if bitAt (s.accessOf rid) 1 then s.traceWord (s.narrow l) (off - 0x100000) else 0
  else if 0x1000000 ≤ off ∧ off < 0x2000000 then s.doorbellWord l ((off - 0x1000000) / 4096) (off % 4096)
  else 0

/-- An MMIO write of 32 bits (R50 to R52, R304, R467). -/
def State.barWrite (s : State) (m : MmioSrc) (offset value : Nat) : State :=
  let off := offset / 4 * 4
  if off < 0x10000 then s.statusWrite (s.srcLd m) off value
  else if 0x1000000 ≤ off ∧ off < 0x2000000 then
    let page := (off - 0x1000000) / 4096
    if off % 4096 = 0 then s.writeUrgency m page value
    else if off % 4096 = 4 then s.writeHold m page value
    else s.doorbellWrite m page id
  else s

/-- The block whose register an offset names (R433, notes/assumptions/36.md): the doorbell pages the queue manager's, the others the
host port's. -/
def blockOfOffset (m : MmioSrc) (offset : Nat) : Nat :=
  if 0x1000000 ≤ offset ∧ offset < 0x2000000 then 5 else portNat m.port + 1

end Sys2Proof.Machine
end

