-- ==== Sys2Proof/Machine/Registers.lean ====
section
/-! DEFINITION. MMIO accesses (spec/01_host_view.md R50 to R53, spec/09_queues_and_regulation.md R304, spec/14_eaves_and_power_states.md
R433) and the commands of counters and trace (spec/17_counters_and_trace.md R470, R471, R479 to R482). -/

namespace Sys2Proof.Machine

/-- An MMIO access by a port that serves it; in a Watch exit it waits (R423). -/
def State.mmio (s : State) (i : Instr) (m : MmioSrc) (f : State → State) : State :=
  s.afterExit i fun s => if s.mmioServes m.port then f s else s

/-- DOORBELL_URGENCY_WRITE (R51, R304). -/
def execDoorbellUrgencyWrite (src : MmioSrc) (page : BitVec 12) (value : BitVec 32) (s : State) : Host.Outcome State Fault Refusal :=
  done (s.mmio (.doorbellUrgencyWrite src page value) src fun s => s.writeUrgency src page.toNat value.toNat)

/-- DOORBELL_URGENCY_HOLD_WRITE (R51, R304). -/
def execDoorbellUrgencyHoldWrite (src : MmioSrc) (page : BitVec 12) (value : BitVec 32) (s : State) : Host.Outcome State Fault Refusal :=
  done (s.mmio (.doorbellUrgencyHoldWrite src page value) src fun s => s.writeHold src page.toNat value.toNat)

/-- URGENCY_HOLD_EXPIRY (R304): the level returns to 0; a hold of 0 never expires. -/
def execUrgencyHoldExpiry (page : BitVec 12) (s : State) : Host.Outcome State Fault Refusal :=
  if (s.doorbell page.toNat).hold = 0 then done s
  else done (s.onReg fun r => { r with doorbells := Sparse.modify {} r.doorbells page.toNat fun d => { d with urgency := 0 } })

/-- GROUP_CHG_CLEAR (R52, R53). -/
def execGroupChgClear (src : MmioSrc) (s : State) : Host.Outcome State Fault Refusal :=
  done (s.mmio (.groupChgClear src) src fun s => s.clearGroupChg (s.srcLd src))

/-- PRESSURE_CHG_CLEAR (R52, R53). -/
def execPressureChgClear (src : MmioSrc) (s : State) : Host.Outcome State Fault Refusal :=
  done (s.mmio (.pressureChgClear src) src fun s => s.clearPressureChg (s.srcLd src))

/-- REGISTER_WRITE (R50, R52). -/
def execRegisterWrite (src : MmioSrc) (offset : BitVec 26) (value : BitVec 32) (s : State) : Host.Outcome State Fault Refusal :=
  done (s.mmio (.registerWrite src offset value) src fun s => s.barWrite src offset.toNat value.toNat)

/-- GATED_BLOCK_MMIO (R433): the access ungates the block and completes; the sled stays in its state. A read answers its value. -/
def execGatedBlockMmio (src : MmioSrc) (offset : BitVec 26) (write : Option (BitVec 32)) (s : State) : Host.Outcome State Fault Refusal :=
  done (s.mmio (.gatedBlockMmio src offset write) src fun s =>
    let s := s.onEaves fun e => { e with gated := e.gated.filter fun id => id != blockOfOffset src offset.toNat }
    match write with
    | some v => s.barWrite src offset.toNat v.toNat
    | none => s.emit (.mmio src.port (s.barRead src offset.toNat)))

/-! ## The bandwidth window -/

/-- A window ends for a port (R470). -/
def PortBlock.endWindow (b : PortBlock) : PortBlock :=
  { inNow := 0, outNow := 0, inLast := b.inNow, outLast := b.outNow, inPeak := max b.inPeak b.inNow, outPeak := max b.outPeak b.outNow
    inTotal := b.inTotal + b.inNow, outTotal := b.outTotal + b.outNow }

/-- BANDWIDTH_WINDOW_END (R470, R471): every port's fields and BW_SEQ change together; the timer stops in Drowse. -/
def execBandwidthWindowEnd (s : State) : Host.Outcome State Fault Refusal :=
  if !s.hubRuns then done s
  else done (s.onCtr fun c => { c with ports := Sparse.update {} c.ports fun _ b => b.endWindow, seq := c.seq + 1 })

/-! ## Commands -/

/-- Is a qualifier in range for an event (R473)? -/
def qualifierOk (event q : Nat) : Bool :=
  q == 0xFFFF ||
    (if decide (1 ≤ event) && decide (event ≤ 4) then decide (q < 64)
     else if decide (0x0E ≤ event) && decide (event ≤ 0x11) then decide (q < 128)
     else if event = 0x12 then decide (q < 16)
     else if event = 0x13 ∨ event = 0x14 then decide (q < 128)
     else if event = 0x16 then decide (q < 2)
     else if event = 0x18 then decide (1 ≤ q) && decide (q ≤ 11)
     else if event = 0x19 ∨ event = 0x1A then decide (q < 4)
     else if event = 0x1B then decide (1 ≤ q) && decide (q ≤ 4)
     else true)

/-- C440h Set General Counter (R472, R473, R480). -/
def execSetGeneralCounter (p : Path) (counter : BitVec 8) (enable level : Bool) (event : BitVec 8) (qualifier : BitVec 16) (s : State) :
    Host.Outcome State Fault Refusal :=
  done (s.privileged (.setGeneralCounter p counter enable level event qualifier) p 0xC440 fun s =>
    if 63 < counter.toNat || 0x1C < event.toNat || !qualifierOk event.toNat qualifier.toNat then refuse s .invalidInput
    else
      let old := Sparse.get {} s.ctr.general counter.toNat
      let was := s.condition event.toNat qualifier.toNat
      let s := s.onCtr fun c =>
        { c with general := Sparse.set {} c.general counter.toNat { enable, level, event, qualifier, was } }
      (s, .success, le 2 0 ++ zeros 2 ++ le 8 old.value.toNat))

/-- C441h Clear Counters (R480). -/
def execClearCounters (p : Path) (groups : BitVec 8) (s : State) : Host.Outcome State Fault Refusal :=
  done (s.privileged (.clearCounters p groups) p 0xC441 fun s =>
    let g (i : Nat) : Bool := bitAt groups.toNat i
    let s := s.onCtr fun c =>
      { c with
        general := if g 0 then Sparse.update {} c.general fun _ x => { x with value := 0, overflow := false } else c.general
        ports := if g 1 then Sparse.update {} c.ports fun _ b => { b with inPeak := 0, outPeak := 0, inTotal := 0, outTotal := 0 } else c.ports
        ring := if g 4 then [] else c.ring
        traceDropped := if g 4 then 0 else c.traceDropped }
    let s := s.onReg fun r =>
      { r with
        histograms := if g 2 then [] else r.histograms
        monitors := if g 3 then r.monitors.map fun (m : Nat × Monitor) => (m.1, { m.2 with hist := {} }) else r.monitors }
    (s, .success, le 2 0))

/-- C442h Set Bandwidth Window: the window in progress ends and its partial values are discarded. -/
def execSetBandwidthWindow (p : Path) (us : BitVec 32) (s : State) : Host.Outcome State Fault Refusal :=
  done (s.privileged (.setBandwidthWindow p us) p 0xC442 fun s =>
    if us = 0 || 1000000 < us.toNat then refuse s .invalidInput
    else
      let s := s.onCtr fun c =>
        { c with window := us.toNat, ports := Sparse.update {} c.ports fun _ b => { b with inNow := 0, outNow := 0 } }
      (s, .success, le 2 0))

/-- C443h Set Trace Policy. -/
def execSetTracePolicy (p : Path) (kinds sample : BitVec 8) (rid : BitVec 16) (cls : BitVec 8) (s : State) : Host.Outcome State Fault Refusal :=
  done (s.privileged (.setTracePolicy p kinds sample rid cls) p 0xC443 fun s =>
    if 15 < sample.toNat || (63 < cls.toNat && cls != 0xFF) then refuse s .invalidInput
    else
      let s := s.onCtr fun c => { c with kinds := kinds.setWidth 4, sample := sample.setWidth 4, filterRid := rid, filterClass := cls }
      (s, .success, s.status 0 true))

/-- C444h Set Counter Access (R468). -/
def execSetCounterAccess (p : Path) (rid : BitVec 16) (counter trace : Bool) (s : State) : Host.Outcome State Fault Refusal :=
  done (s.privileged (.setCounterAccess p rid counter trace) p 0xC444 fun s =>
    let v := BitVec.ofNat 2 (b2n counter + 2 * b2n trace)
    if rid = 0xFFFF then
      let all := if v = 0 then [] else (List.range 4096).map fun n => (n, v)
      let s := s.onCtr fun c => { c with access := all }
      (s, .success, s.status 0 true)
    else if 0xFFF < rid.toNat then refuse s .invalidInput
    else
      let s := s.onCtr fun c => { c with access := Sparse.set 0 c.access rid.toNat v }
      (s, .success, s.status 0 true))

/-- C445h Read Counter Area (R478, R481): a mailbox reads as its requestor's MMIO would, a privileged path reads all. -/
def execReadCounterArea (p : Path) (area : BitVec 8) (page offset length : BitVec 16) (s : State) : Host.Outcome State Fault Refusal :=
  done (s.command (.readCounterArea p area page offset length) p 0xC445 fun s =>
    let trace := area.toNat = 1
    let n := length.toNat
    if 1 < area.toNat || (if trace then 255 else 239) < page.toNat || offset.toNat % 8 ≠ 0 || n % 8 ≠ 0 || n < 8 || 2048 < n
        || 4096 < offset.toNat + n then refuse s .invalidInput
    else
      let bytes := match s.sourceRid p with
        | none => s.counterBytes none trace page.toNat offset.toNat n
        | some rid =>
          if bitAt (s.accessOf rid) (if trace then 1 else 0) then s.counterBytes (s.narrow (s.issuing p)) trace page.toNat offset.toNat n
          else zeros n
      (s, .success, le 2 0 ++ zeros 6 ++ bytes))

end Sys2Proof.Machine
end

