-- ==== Sys2Proof/Machine/ConnectorOps.lean ====
section
/-! DEFINITION. Sled and connector (spec/18_sled_and_connector.md R485 to R504): straps, indicators, the sideband bus, WAKE# and
ALERT#, and commands C480h and C481h. -/

namespace Sys2Proof.Machine

/-! ## Straps -/

/-- The straps by the numbers of event 1201h, as values. -/
def strapValue (x : Straps) : Nat → Nat
  | 1 => b2n x.x16 | 2 => b2n x.sbmode | 3 => x.sa.toNat | 4 => x.id.toNat | 5 => b2n x.idv | _ => b2n x.ridge

/-- STRAP_POLL (R497): the straps are read; in Active, one that differs from its sampled value raises event 1201h. -/
def execStrapPoll (read : Straps) (s : State) : Host.Outcome State Fault Refusal :=
  let s := s.onConn fun c => { c with now := read }
  if s.eaves.st ≠ .active || !s.firmwareRuns then done s
  else
    done (foldState (fun s n =>
      if strapValue s.conn.inForce n = strapValue read n then s
      else s.raiseLimited 0x1201 n .warning 0xFFFF (le 1 n ++ le 2 (strapValue s.conn.inForce n) ++ le 2 (strapValue read n)) [] [] s.lds) s
      [1, 2, 3, 4, 5, 6])

/-! ## Outputs -/

/-- LOCATE_TIMEOUT (R485, C481h). -/
def execLocateTimeout (s : State) : Host.Outcome State Fault Refusal :=
  done (s.onConn fun c => if c.locate = .timed then { c with locate := .off } else c)

/-- WAKE_HOLD_TIMEOUT (R493). -/
def execWakeHoldTimeout (s : State) : Host.Outcome State Fault Refusal :=
  done (s.onConn fun c => { c with wake0 := false, wake1 := false })

/-- ALERT_RESPONSE_ADDRESS (R494): the sled answers with its own address and releases ALERT#. -/
def execAlertResponseAddress (s : State) : Host.Outcome State Fault Refusal :=
  if s.conn.alert && !s.conn.inForce.sbmode then
    done ((s.onConn fun c => { c with alert := false }).emit (.alertAddress (s.ownAddress.getD 0)))
  else done s

/-- What the status indicator shows (R485). -/
inductive Indicator where
  | off | amber | amberBlink | greenFast | greenSlow | green
  deriving DecidableEq, Repr

/-- The status indicator: the highest row of R485 that applies. -/
def State.indicator (s : State) : Indicator :=
  if !s.power.auxIn then .off
  else if s.power.latched || s.ready rdyRecovery then .amber
  else
    match s.eaves.st with
    | .offAux => .amberBlink
    | .drowse => if s.ready rdySettled then .greenSlow else .greenFast
    | .watch => if s.ready rdySettled then .greenSlow else .greenFast
    | .active => if s.ready rdySettled then .green else .greenFast

/-! ## The I3C address -/

/-- Does the sideband block listen to an address assignment: on I3C, in a state in which its bus interface runs (R427, R495)? -/
def State.takesAddress (s : State) : Bool :=
  s.conn.inForce.sbmode && s.eaves.retention && (s.eaves.st == .active || s.eaves.st == .offAux)

/-- I3C_SETDASA (R495). -/
def execI3cSetdasa (address : BitVec 7) (s : State) : Host.Outcome State Fault Refusal :=
  done (if s.takesAddress then s.onConn fun c => { c with dynamic := some address } else s)

/-- I3C_ENTDAA (R495): only a target without a dynamic address takes part, as I3C basic defines. -/
def execI3cEntdaa (address : BitVec 7) (s : State) : Host.Outcome State Fault Refusal :=
  done (if s.takesAddress && s.conn.dynamic.isNone then s.onConn fun c => { c with dynamic := some address } else s)

/-! ## Commands -/

/-- Byte 2 of Get Connector Status. -/
def strapByte (x : Straps) : Nat := b2n x.x16 + 2 * b2n x.sbmode + 4 * b2n x.idv + 8 * b2n x.ridge + 16 * x.sa.toNat

/-- C480h Get Connector Status. -/
def execGetConnectorStatus (p : Path) (s : State) : Host.Outcome State Fault Refusal :=
  done (s.command (.getConnectorStatus p) p 0xC480 fun s =>
    let c := s.conn
    let pins (i : Nat) : Nat := (Sparse.get 0 s.reg.pins i).toNat
    (s, .success, le 2 0 ++ le 1 (strapByte c.inForce) ++ zeros 1 ++ le 2 c.inForce.id.toNat ++ le 1 (strapByte c.now) ++ zeros 1
      ++ le 2 c.now.id.toNat
      ++ le 1 (b2n s.power.present + 2 * b2n c.perst0 + 4 * b2n c.perst1 + 8 * b2n c.refclk0 + 16 * b2n c.refclk1
          + 32 * b2n (c.wake0 || c.wake1) + 64 * b2n c.alert)
      ++ le 1 (pins 0 + 4 * pins 1 + 16 * pins 2 + 64 * pins 3) ++ le 1 (b2n c.oscillator0 + 2 * b2n c.oscillator1)
      ++ le 1 (b2n (c.locate != .off)) ++ zeros 2 ++ le 4 c.sampledAt))

/-- C481h Set Locate Indicator. -/
def execSetLocateIndicator (p : Path) (value : BitVec 8) (s : State) : Host.Outcome State Fault Refusal :=
  done (s.privileged (.setLocateIndicator p value) p 0xC481 fun s =>
    if 2 < value.toNat then refuse s .invalidInput
    else
      let x : Locate := if value = 0 then .off else if value = 1 then .on else .timed
      (s.onConn fun c => { c with locate := x }, .success, le 2 0))

end Sys2Proof.Machine
end

