-- ==== Sys2Proof/Machine/ThermalOps.lean ====
section
/-! DEFINITION. Thermal limits (spec/19_electrical_and_thermal.md R514 to R518): the sensor poll, the thermal shutdown, and command
C4C0h. The ladders are in Machine/RateOps.lean and Machine/PowerOps.lean. -/

namespace Sys2Proof.Machine

/-- SENSOR_POLL (R425, R514): in Active, Purlin reads the sensors. -/
def execSensorPoll (groups controller : List (BitVec 16)) (s : State) : Host.Outcome State Fault Refusal :=
  done (if s.eaves.st = .active && s.firmwareRuns then s.readSensors groups controller else s)

/-- The half degrees at which main power is removed, for a sensor of R515. -/
def shutdownMark (sensor : Nat) : Int := if sensor < 16 then 220 else 230

/-- THERMAL_SHUTDOWN (R515): a sensor at its shutdown level for 1 ms opens the switch; a second shutdown within 10 minutes latches it. -/
def execThermalShutdown (sensor : BitVec 8) (reading : BitVec 16) (s : State) : Host.Outcome State Fault Refusal :=
  if s.power.sw ≠ .on || 18 < sensor.toNat || decide (reading.toInt < shutdownMark sensor.toNat) then done s
  else
    let again := match s.therm.lastShutdown with
      | some t => decide (s.clock < t + 600 * 1600000000)
      | none => false
    let s := s.onTherm fun t =>
      { t with shutdowns := min (t.shutdowns + 1) 0xFFFFFFFF, lastShutdown := some s.clock, coolDown := true,
               pendingEvent := t.pendingEvent ++ [(sensor.toNat, reading.toNat, again)] }
    let s := (s.setFold false).onPower fun p => { p with latched := p.latched || again }
    done s.openSwitch.enterOffAux

/-- THERMAL_COOLDOWN_END (R515). -/
def execThermalCooldownEnd (s : State) : Host.Outcome State Fault Refusal :=
  done (s.onTherm fun t => { t with coolDown := false }).tryDelay

/-- C4C0h Get Thermal Status. -/
def execGetThermalStatus (p : Path) (s : State) : Host.Outcome State Fault Refusal :=
  done (s.command (.getThermalStatus p) p 0xC4C0 fun s =>
    let t := s.therm
    let running (since : Option Nat) : Nat := match since with | some x => s.clock - x | none => 0
    (s, .success, le 2 0 ++ le 1 t.controller ++ zeros 1 ++ ((List.range 16).flatMap fun g => le 1 (Sparse.get 0 t.dram g))
      ++ ((List.range 16).flatMap fun g => le 2 (s.group g).sensor.toNat) ++ (t.sensors.flatMap fun v => le 2 v.toNat) ++ zeros 2
      ++ le 4 t.shutdowns ++ le 4 (secOf (t.hotCycles + running t.hotSince)) ++ le 4 (secOf (t.c1Cycles + running t.c1Since))))

end Sys2Proof.Machine
end

