-- ==== Sys2Proof/Machine/Wire.lean ====
section
/-! DEFINITION. The input payloads of the commands as bytes (each chapter's input payload tables), by which a rafter-borne mailbox
request names its command (spec/12_purlin_and_mailboxes.md R378). Payloads that the manual leaves to CXL 3.1 are those of
notes/assumptions/29.md. -/

namespace Sys2Proof.Machine

/-- A command's opcode, the lengths its input payload may have, and its operands from the payload; none where an operand has no such
value. -/
structure WireRow where
  opcode : Nat
  size : Nat → Bool
  read : Path → List Byte → Option Instr

/-- A field of a payload. -/
def num {w : Nat} (b : List Byte) (o n : Nat) : BitVec w := BitVec.ofNat w (fieldLe b o n)
/-- A flag of a payload. -/
def flagOf (b : List Byte) (o i : Nat) : Bool := bitAt (fieldLe b o 1) i

/-- A command without input payload. -/
def noInput (op : Nat) (i : Path → Instr) : WireRow := { opcode := op, size := (· == 0), read := fun p _ => some (i p) }
/-- A command with an input payload of one length. -/
def fixedInput (op n : Nat) (i : Path → List Byte → Instr) : WireRow := { opcode := op, size := (· == n), read := fun p b => some (i p b) }

/-- An event log by its number in CXL. -/
def logNamed (n : Nat) : Option EventLog := if n ≤ 4 then some (logOf n) else none

/-- The range entry of Set Cascade Range (R356). -/
def rangeSpecOf (b : List Byte) : RangeSpec :=
  { base := num b 0 4, length := num b 4 3, kind := num b 7 1, n := num b 8 1, flags := num b 9 1, first := num b 10 2, watermark := num b 12 4 }

/-- `n` numbers of `k` bytes from offset `o`. -/
def numsOf {w : Nat} (b : List Byte) (o k n : Nat) : List (BitVec w) := (List.range n).map fun i => num b (o + k * i) k

/-- The standard commands. -/
def wireStandard : List WireRow := [
  noInput 0x0002 .backgroundOperationStatus,
  noInput 0x0005 .requestAbortBackgroundOperation,
  { opcode := 0x0100, size := (· == 1), read := fun p b => (logNamed (fieldLe b 0 1)).map fun l => .getEventRecords p l },
  { opcode := 0x0101, size := fun n => decide (6 ≤ n),
    read := fun p b =>
      let n := fieldLe b 2 1
      if b.length = 6 + 2 * n then (logNamed (fieldLe b 0 1)).map fun l => .clearEventRecords p l (flagOf b 1 0) (numsOf b 6 2 n)
      else none },
  noInput 0x0102 .getEventInterruptPolicy,
  fixedInput 0x0103 5 fun p b => .setEventInterruptPolicy p (num b 0 5),
  noInput 0x0200 .getFwInfo,
  { opcode := 0x0201, size := fun n => decide (128 ≤ n), read := fun p b => some (.transferFw p (num b 1 1) (num b 0 1) (num b 4 4) (b.drop 128)) },
  { opcode := 0x0202, size := (· == 2),
    read := fun p b =>
      if fieldLe b 0 1 = 0 then some (.activateFwOnline p (num b 1 1))
      else if fieldLe b 0 1 = 1 then some (.activateFwOffline p (num b 1 1))
      else none },
  noInput 0x0300 .getTimestamp,
  fixedInput 0x0301 8 fun p b => .setTimestamp p (num b 0 8),
  noInput 0x0400 .getSupportedLogs,
  fixedInput 0x0401 24 fun p b => .getLog p (BitVec.ofNat 128 (ofBe (slice b 0 16))) (num b 16 4) (num b 20 4),
  noInput 0x4000 .identifyMemoryDevice,
  fixedInput 0x4300 16 fun p b => .getPoisonList p (num b 0 8) (num b 8 8),
  fixedInput 0x4301 8 fun p b => .injectPoison p (num b 0 8),
  fixedInput 0x4302 72 fun p b => .clearPoison p (num b 0 8) (slice b 8 64),
  noInput 0x4400 .sanitize,
  noInput 0x4401 .secureErase]

/-- The commands of chapters 01 to 04. -/
def wireA : List WireRow := [
  noInput 0xC040 .getCapacityStatus,
  fixedInput 0xC041 4 fun p b => .setOvercommitRatio p (num b 0 2),
  fixedInput 0xC042 4 fun p b => .setDefaultContext p (num b 0 2) (num b 2 2),
  fixedInput 0xC043 2 fun p b => .getDefaultContext p (num b 0 2),
  fixedInput 0xC044 4 fun p b => .setReleaseWait p (num b 0 4),
  fixedInput 0xC045 4 fun p b => .setGrowthDevice p (num b 0 1),
  fixedInput 0xC080 16 fun p b => .getBatten p (num b 0 1) (num b 8 8),
  noInput 0xC081 .getTranslationStatus,
  fixedInput 0xC082 4 fun p b => .rebuildBattenBlock p (num b 0 2),
  fixedInput 0xC083 16 fun p b => .discardCourseRange p (num b 0 8) (num b 8 4),
  fixedInput 0xC084 4 fun p b => .setCompactionPolicy p (num b 0 2) (num b 2 1) (num b 3 1),
  noInput 0xC0C0 .getTileCodingStatus,
  fixedInput 0xC0C1 4 fun p b => .setWriteGather p (num b 0 1),
  fixedInput 0xC0C2 24 fun p b => .setPhiozRange p (num b 0 1) (num b 1 1) (num b 8 8) (num b 16 4),
  fixedInput 0xC0C3 4 fun p b => .getPhiozRange p (num b 0 1),
  fixedInput 0xC0C4 4 fun p b => .setPhiozConversion p (num b 0 2) (num b 2 1),
  fixedInput 0xC0C5 16 fun p b => .getTileForm p (num b 0 1) (num b 1 1) (num b 8 8),
  noInput 0xC100 .getPlacementStatus,
  fixedInput 0xC101 16 fun p b =>
    .setPlacementPolicy p
      { occupancy := num b 0 1, coldMax := num b 1 1, rawMin := num b 2 1, tile := num b 3 1, ftTarget := num b 4 4, scanRate := num b 8 4,
        share := num b 12 1, cap := num b 13 1, ceiling := num b 14 1 },
  fixedInput 0xC102 4 fun p b => .setClassPlacement p (num b 0 1) (num b 1 1) (num b 2 1) (flagOf b 3 0),
  fixedInput 0xC103 24 fun p b => .startThatchingJob p (num b 0 1) (num b 1 1) (num b 2 1) (num b 4 4) (num b 8 8) (num b 16 4),
  fixedInput 0xC104 2 fun p b => .getThatchingJob p (num b 0 2),
  fixedInput 0xC105 8 fun p b => .resumeThatchingJob p (num b 0 2) (num b 4 4),
  fixedInput 0xC106 4 fun p b => .stopThatchingJob p (num b 0 2) (flagOf b 2 0),
  fixedInput 0xC107 16 fun p b => .warmCourseRange p (num b 0 8) (num b 8 4)]

/-- The commands of chapters 05 to 08. -/
def wireB : List WireRow := [
  noInput 0xC140 .getTileCacheStatus,
  fixedInput 0xC141 24 fun p b => .invalidateTileCacheRange p (num b 0 1) (num b 8 8) (num b 16 4),
  fixedInput 0xC142 16 fun p b => .setTileCachePolicy p (flagOf b 0 0) (num b 8 8),
  fixedInput 0xC143 4 fun p b => .getTileCacheSet p (num b 0 2),
  noInput 0xC180 .getFlashingStatus,
  fixedInput 0xC181 96 fun p b => .establishWrappingKey p b,
  fixedInput 0xC182 84 fun p b => .loadContextKey p (num b 0 2) (flagOf b 2 0) (slice b 4 80),
  fixedInput 0xC183 4 fun p b => .destroyContextKey p (num b 0 2) (flagOf b 2 0),
  fixedInput 0xC184 2 fun p b => .getContext p (num b 0 2),
  fixedInput 0xC185 4 fun p b => .setContextAttributes p (num b 0 2) (num b 2 1) (num b 3 1),
  fixedInput 0xC186 4 fun p b => .startRekey p (num b 0 2),
  fixedInput 0xC187 16 fun p b => .setWriteCounterLimit p (num b 0 2) (num b 8 8),
  noInput 0xC188 .rotateRafterKey,
  fixedInput 0xC1C0 4 fun p b => .getChannelStatus p (num b 0 1),
  fixedInput 0xC1C1 4 fun p b => .getGroupStatus p (num b 0 1),
  fixedInput 0xC1C2 12 fun p b => .setGroupPowerPolicy p (num b 0 1) (flagOf b 1 0) (num b 4 4) (num b 8 4),
  fixedInput 0xC1C3 8 fun p b => .setTrainingPolicy p (num b 0 2) (num b 2 1) (num b 3 1) (num b 4 1),
  fixedInput 0xC1C4 4 fun p b => .setDramSpeed p (num b 0 1),
  fixedInput 0xC1C5 24 fun p b => .setBankHashMasks p (num b 0 8) (num b 8 8) (num b 16 8),
  fixedInput 0xC1C6 8 fun p b => .getAddressMap p (num b 0 8),
  fixedInput 0xC1C7 4 fun p b => .retrainChannel p (num b 0 1) (num b 1 1),
  noInput 0xC200 .getCodeStatus,
  noInput 0xC201 .getSpareStatus,
  fixedInput 0xC202 16 fun p b => .startRangeScrub p (num b 0 8) (num b 8 4) (flagOf b 12 0) (num b 13 1),
  fixedInput 0xC203 8 fun p b => .setPatrolPolicy p (flagOf b 0 0) (num b 4 4),
  fixedInput 0xC204 8 fun p b => .getFaultRecords p (num b 0 4) (num b 4 2),
  fixedInput 0xC205 8 fun p b => .setRetirementPolicy p (num b 0 1) (num b 1 1) (num b 2 2) (num b 4 1) (flagOf b 5 0),
  fixedInput 0xC206 8 fun p b => .retireStorage p (num b 0 1) (num b 1 1) (num b 2 1) (num b 3 1) (num b 4 4),
  fixedInput 0xC207 8 fun p b => .clearRetirement p (num b 0 1) (num b 1 1) (num b 2 1) (num b 3 1) (num b 4 4),
  fixedInput 0xC208 16 fun p b => .injectSlotError p (num b 0 8) (num b 8 1) (num b 9 1) (num b 10 1)]

/-- The commands of chapters 09 to 12. -/
def wireC : List WireRow := [
  noInput 0xC240 .getRegulationStatus,
  fixedInput 0xC241 16 fun p b =>
    .setQueueRegulation p
      { rid := num b 0 2, cls := num b 2 1, shaperOn := flagOf b 3 0, policerOn := flagOf b 3 1, shaperRate := num b 4 4, shaperBurst := num b 8 2,
        policerBurst := num b 10 2, policerRate := num b 12 4 },
  fixedInput 0xC242 4 fun p b => .getQueue p (num b 0 2) (num b 2 1),
  fixedInput 0xC243 12 fun p b => .setClassRegulation p (num b 0 1) (num b 1 1) (flagOf b 2 0) (num b 4 4) (num b 8 2),
  fixedInput 0xC244 12 fun p b => .setClassGuarantee p (num b 0 1) (num b 4 4) (num b 8 2),
  fixedInput 0xC245 8 fun p b => .setUrgencySource p (num b 0 1) (num b 1 1) (num b 2 2) (num b 4 3),
  fixedInput 0xC246 12 fun p b => .setHistogramMonitor p (num b 0 2) (num b 2 1) (num b 3 1) (num b 4 2) (num b 8 4),
  fixedInput 0xC280 4 fun p b => .getRafterPortStatus p (num b 0 1),
  fixedInput 0xC281 4 fun p b => .getTransportPair p (num b 0 2),
  fixedInput 0xC282 8 fun p b => .setTransportPolicy p (num b 0 2) (num b 2 2) (num b 4 4),
  fixedInput 0xC283 4 fun p b => .setRafterPort p (num b 0 1) (num b 1 1),
  noInput 0xC2C0 .getCascadeStatus,
  { opcode := 0xC2C1, size := fun n => decide (20 ≤ n) && n % 4 == 0,
    read := fun p b => some (.setCascadeRange p (num b 0 1) (num b 2 2) (rangeSpecOf (slice b 4 16)) (numsOf b 20 4 ((b.length - 20) / 4))) },
  fixedInput 0xC2C2 4 fun p b => .getCascadeRange p (num b 0 2),
  fixedInput 0xC2C3 24 fun p b => .addCascadeExtent p (num b 0 1) (num b 1 1) (num b 4 4) (num b 8 4) (num b 16 8),
  fixedInput 0xC2C4 4 fun p b => .getCascadeRoute p (num b 0 2),
  fixedInput 0xC2C5 4 fun p b => .setCascadePolicy p (num b 0 2) (num b 2 1) (flagOf b 3 0),
  noInput 0xC000 .getSledIdentity,
  noInput 0xC001 .getBackgroundResult,
  { opcode := 0xC002, size := fun n => decide (8 ≤ n),
    read := fun p b => if b.length = 8 + fieldLe b 4 2 then some (.relayCommand p (num b 0 2) (num b 2 2) (b.drop 8)) else none },
  noInput 0xC300 .getPurlinStatus,
  noInput 0xC301 .getFirmwareStatus,
  fixedInput 0xC302 4 fun p b => .setFirmwarePolicy p (num b 0 1) (flagOf b 1 0) (flagOf b 1 1),
  noInput 0xC303 .getLogStoreStatus]

/-- The commands of chapters 13 to 19. -/
def wireD : List WireRow := [
  noInput 0xC340 .getBringupStatus,
  fixedInput 0xC341 4 fun p b => .retryGroupAdmission p (num b 0 1),
  fixedInput 0xC342 4 fun p b => .setGroupAdmission p (num b 0 1) (num b 1 1),
  noInput 0xC380 .getPowerState,
  fixedInput 0xC381 4 fun p b => .setWatchConsent p (flagOf b 0 0) (flagOf b 0 1),
  fixedInput 0xC382 16 fun p b => .setPowerStatePolicy p (flagOf b 0 0) (flagOf b 0 1) (num b 4 4) (num b 8 4) (num b 12 4),
  fixedInput 0xC383 8 fun p b => .setWatchThresholds p (num b 0 1) (flagOf b 1 0) (flagOf b 1 1) (num b 4 2) (num b 6 2),
  noInput 0xC384 .getWatchSamples,
  fixedInput 0xC385 4 fun p b => .getSleepRefusals p (num b 0 1),
  noInput 0xC3C0 .getPowerPathStatus,
  fixedInput 0xC3C1 16 fun p b => .setPowerPathPolicy p (num b 0 1) (num b 1 1) (num b 2 2) (num b 4 2),
  noInput 0xC3C2 .clearPowerLatch,
  fixedInput 0xC3C3 4 fun p b => .getPowerReadings p (flagOf b 0 0) (flagOf b 0 1),
  noInput 0xC3C4 .getTripRecords,
  noInput 0xC400 .getOnchipMemoryStatus,
  fixedInput 0xC401 8 fun p b => .setMemoryTestPolicy p (flagOf b 0 0) (num b 4 4),
  fixedInput 0xC440 8 fun p b => .setGeneralCounter p (num b 0 1) (flagOf b 1 0) (flagOf b 1 1) (num b 2 1) (num b 4 2),
  fixedInput 0xC441 4 fun p b => .clearCounters p (num b 0 1),
  fixedInput 0xC442 4 fun p b => .setBandwidthWindow p (num b 0 4),
  fixedInput 0xC443 8 fun p b => .setTracePolicy p (num b 0 1) (num b 1 1) (num b 2 2) (num b 4 1),
  fixedInput 0xC444 4 fun p b => .setCounterAccess p (num b 0 2) (flagOf b 2 0) (flagOf b 2 1),
  fixedInput 0xC445 8 fun p b => .readCounterArea p (num b 0 1) (num b 2 2) (num b 4 2) (num b 6 2),
  noInput 0xC480 .getConnectorStatus,
  fixedInput 0xC481 4 fun p b => .setLocateIndicator p (num b 0 1),
  noInput 0xC4C0 .getThermalStatus]

/-- The row of an opcode. -/
def wireRow (op : Nat) : Option WireRow := (wireStandard ++ wireA ++ wireB ++ wireC ++ wireD).find? fun r => r.opcode == op

/-- A command read from its opcode and input payload, or the return code that refuses it: Unsupported for an opcode of no command (R19),
Invalid Payload Length for a length it does not have, Invalid Input for an operand of no such value. -/
def parseCommand (p : Path) (op : Nat) (b : List Byte) : Instr ⊕ ReturnCode :=
  match wireRow op with
  | none => .inr .unsupported
  | some r =>
    if !r.size b.length then .inr .invalidPayloadLength
    else
      match r.read p b with
      | some i => .inl i
      | none => .inr .invalidInput

end Sys2Proof.Machine
end

