-- ==== Sys2Proof/Machine/Serve.lean ====
section
/-! DEFINITION. Commands served other than on arrival: those held through an activation pause (R384), those that waited in a Watch
exit (R423), and those of the rafter-borne mailbox (R378); with them the packets that land on a rafter port (spec/10_rafter_link.md
R326, R331), the end of the pause and the end of the exit. -/

namespace Sys2Proof.Machine

/-! ## Serving a command that has waited -/

/-- The meaning of a command that can wait: a request of a host port, an MMIO access, a command on a path, a DOE message. -/
def perform (i : Instr) (s : State) : Host.Outcome State Fault Refusal :=
  match i with
  | .memrd r => execMemrd r s
  | .memrddata r => execMemrddata r s
  | .memwr r data => execMemwr r data s
  | .memwrptl r data enables => execMemwrptl r data enables s
  | .sanitize p => execSanitize p s
  | .secureErase p => execSecureErase p s
  | .injectPoison p dpa => execInjectPoison p dpa s
  | .clearPoison p dpa data => execClearPoison p dpa data s
  | .getPoisonList p dpa length => execGetPoisonList p dpa length s
  | .identifyMemoryDevice p => execIdentifyMemoryDevice p s
  | .getSupportedLogs p => execGetSupportedLogs p s
  | .getLog p uuid offset length => execGetLog p uuid offset length s
  | .getEventRecords p log => execGetEventRecords p log s
  | .clearEventRecords p log all handles => execClearEventRecords p log all handles s
  | .getEventInterruptPolicy p => execGetEventInterruptPolicy p s
  | .setEventInterruptPolicy p settings => execSetEventInterruptPolicy p settings s
  | .getTimestamp p => execGetTimestamp p s
  | .setTimestamp p value => execSetTimestamp p value s
  | .backgroundOperationStatus p => execBackgroundOperationStatus p s
  | .requestAbortBackgroundOperation p => execRequestAbortBackgroundOperation p s
  | .backgroundCommandComplete p => execBackgroundCommandComplete p s
  | .getCapacityStatus p => execGetCapacityStatus p s
  | .setOvercommitRatio p ratio => execSetOvercommitRatio p ratio s
  | .setDefaultContext p rid ctx => execSetDefaultContext p rid ctx s
  | .getDefaultContext p rid => execGetDefaultContext p rid s
  | .setReleaseWait p ms => execSetReleaseWait p ms s
  | .setGrowthDevice p ld => execSetGrowthDevice p ld s
  | .getBatten p kind addr => execGetBatten p kind addr s
  | .getTranslationStatus p => execGetTranslationStatus p s
  | .rebuildBattenBlock p block => execRebuildBattenBlock p block s
  | .discardCourseRange p dpa courses => execDiscardCourseRange p dpa courses s
  | .setCompactionPolicy p lowMark victim share => execSetCompactionPolicy p lowMark victim share s
  | .getTileCodingStatus p => execGetTileCodingStatus p s
  | .setWriteGather p window => execSetWriteGather p window s
  | .setPhiozRange p entry action dpa courses => execSetPhiozRange p entry action dpa courses s
  | .getPhiozRange p entry => execGetPhiozRange p entry s
  | .setPhiozConversion p ctx allow => execSetPhiozConversion p ctx allow s
  | .getTileForm p kind tile addr => execGetTileForm p kind tile addr s
  | .getPlacementStatus p => execGetPlacementStatus p s
  | .setPlacementPolicy p policy => execSetPlacementPolicy p policy s
  | .setClassPlacement p cls tier pin strong => execSetClassPlacement p cls tier pin strong s
  | .startThatchingJob p kind heat cap budget start bundles => execStartThatchingJob p kind heat cap budget start bundles s
  | .getThatchingJob p job => execGetThatchingJob p job s
  | .resumeThatchingJob p job add => execResumeThatchingJob p job add s
  | .stopThatchingJob p job free => execStopThatchingJob p job free s
  | .warmCourseRange p dpa courses => execWarmCourseRange p dpa courses s
  | .getTileCacheStatus p => execGetTileCacheStatus p s
  | .invalidateTileCacheRange p kind start courses => execInvalidateTileCacheRange p kind start courses s
  | .setTileCachePolicy p enable noFill => execSetTileCachePolicy p enable noFill s
  | .getTileCacheSet p set => execGetTileCacheSet p set s
  | .getFlashingStatus p => execGetFlashingStatus p s
  | .establishWrappingKey p ownerKey => execEstablishWrappingKey p ownerKey s
  | .loadContextKey p ctx next wrapped => execLoadContextKey p ctx next wrapped s
  | .destroyContextKey p ctx discard => execDestroyContextKey p ctx discard s
  | .getContext p ctx => execGetContext p ctx s
  | .setContextAttributes p ctx cls owner => execSetContextAttributes p ctx cls owner s
  | .startRekey p ctx => execStartRekey p ctx s
  | .setWriteCounterLimit p ctx limit => execSetWriteCounterLimit p ctx limit s
  | .rotateRafterKey p => execRotateRafterKey p s
  | .getChannelStatus p ch => execGetChannelStatus p ch s
  | .getGroupStatus p g => execGetGroupStatus p g s
  | .setGroupPowerPolicy p g enable groupUs chan100ns => execSetGroupPowerPolicy p g enable groupUs chan100ns s
  | .setTrainingPolicy p zqMs checkMs driftPs pollMs => execSetTrainingPolicy p zqMs checkMs driftPs pollMs s
  | .setDramSpeed p speed => execSetDramSpeed p speed s
  | .setBankHashMasks p m0 m1 m2 => execSetBankHashMasks p m0 m1 m2 s
  | .getAddressMap p slot => execGetAddressMap p slot s
  | .retrainChannel p ch kind => execRetrainChannel p ch kind s
  | .getCodeStatus p => execGetCodeStatus p s
  | .getSpareStatus p => execGetSpareStatus p s
  | .startRangeScrub p dpa courses deep share => execStartRangeScrub p dpa courses deep share s
  | .setPatrolPolicy p enable minutes => execSetPatrolPolicy p enable minutes s
  | .getFaultRecords p first count => execGetFaultRecords p first count s
  | .setRetirementPolicy p rowThreshold dieBanks rankRows share hold => execSetRetirementPolicy p rowThreshold dieBanks rankRows share hold s
  | .retireStorage p kind ch rank bank row => execRetireStorage p kind ch rank bank row s
  | .clearRetirement p kind ch rank bank row => execClearRetirement p kind ch rank bank row s
  | .injectSlotError p slot count first pattern => execInjectSlotError p slot count first pattern s
  | .getRegulationStatus p => execGetRegulationStatus p s
  | .setQueueRegulation p q => execSetQueueRegulation p q s
  | .getQueue p rid cls => execGetQueue p rid cls s
  | .setClassRegulation p cls weight on rate burst => execSetClassRegulation p cls weight on rate burst s
  | .setClassGuarantee p cls guarantee burst => execSetClassGuarantee p cls guarantee burst s
  | .setUrgencySource p kind index rid map => execSetUrgencySource p kind index rid map s
  | .setHistogramMonitor p slot action cls rid us => execSetHistogramMonitor p slot action cls rid us s
  | .getRafterPortStatus p port => execGetRafterPortStatus p port s
  | .getTransportPair p peer => execGetTransportPair p peer s
  | .setTransportPolicy p credits replayUs unreachUs => execSetTransportPolicy p credits replayUs unreachUs s
  | .setRafterPort p port action => execSetRafterPort p port action s
  | .getCascadeStatus p => execGetCascadeStatus p s
  | .setCascadeRange p action index entry segments => execSetCascadeRange p action index entry segments s
  | .getCascadeRange p index => execGetCascadeRange p index s
  | .addCascadeExtent p ld region base blocks dpa => execAddCascadeExtent p ld region base blocks dpa s
  | .getCascadeRoute p sled => execGetCascadeRoute p sled s
  | .setCascadePolicy p timeout rate eligible => execSetCascadePolicy p timeout rate eligible s
  | .getFwInfo p => execGetFwInfo p s
  | .transferFw p slot action offset data => execTransferFw p slot action offset data s
  | .activateFwOnline p slot => execActivateFwOnline p slot s
  | .activateFwOffline p slot => execActivateFwOffline p slot s
  | .getSledIdentity p => execGetSledIdentity p s
  | .getBackgroundResult p => execGetBackgroundResult p s
  | .relayCommand p target opcode payload => execRelayCommand p target opcode payload s
  | .getPurlinStatus p => execGetPurlinStatus p s
  | .getFirmwareStatus p => execGetFirmwareStatus p s
  | .setFirmwarePolicy p minutes rollBack svn => execSetFirmwarePolicy p minutes rollBack svn s
  | .getLogStoreStatus p => execGetLogStoreStatus p s
  | .getBringupStatus p => execGetBringupStatus p s
  | .retryGroupAdmission p g => execRetryGroupAdmission p g s
  | .setGroupAdmission p g action => execSetGroupAdmission p g action s
  | .getPowerState p => execGetPowerState p s
  | .setWatchConsent p consent whole => execSetWatchConsent p consent whole s
  | .setPowerStatePolicy p drowse watch idleUs sampleMs ceilingMs => execSetPowerStatePolicy p drowse watch idleUs sampleMs ceilingMs s
  | .setWatchThresholds p index lowOn highOn low high => execSetWatchThresholds p index lowOn highOn low high s
  | .getWatchSamples p => execGetWatchSamples p s
  | .getSleepRefusals p block => execGetSleepRefusals p block s
  | .getPowerPathStatus p => execGetPowerPathStatus p s
  | .setPowerPathPolicy p limit retry soa delay => execSetPowerPathPolicy p limit retry soa delay s
  | .clearPowerLatch p => execClearPowerLatch p s
  | .getPowerReadings p resetPeaks resetEnergy => execGetPowerReadings p resetPeaks resetEnergy s
  | .getTripRecords p => execGetTripRecords p s
  | .getOnchipMemoryStatus p => execGetOnchipMemoryStatus p s
  | .setMemoryTestPolicy p enable us => execSetMemoryTestPolicy p enable us s
  | .setGeneralCounter p counter enable level event qualifier => execSetGeneralCounter p counter enable level event qualifier s
  | .clearCounters p groups => execClearCounters p groups s
  | .setBandwidthWindow p us => execSetBandwidthWindow p us s
  | .setTracePolicy p kinds sample rid cls => execSetTracePolicy p kinds sample rid cls s
  | .setCounterAccess p rid counter trace => execSetCounterAccess p rid counter trace s
  | .readCounterArea p area page offset length => execReadCounterArea p area page offset length s
  | .getConnectorStatus p => execGetConnectorStatus p s
  | .setLocateIndicator p value => execSetLocateIndicator p value s
  | .getThermalStatus p => execGetThermalStatus p s
  | .undefinedVendorOpcode p opcode => execUndefinedVendorOpcode p opcode s
  | .addDcResponse ld accepted => execAddDcResponse ld accepted s
  | .releaseDcCapacity ld released => execReleaseDcCapacity ld released s
  | .doorbellUrgencyWrite src page value => execDoorbellUrgencyWrite src page value s
  | .doorbellUrgencyHoldWrite src page value => execDoorbellUrgencyHoldWrite src page value s
  | .groupChgClear src => execGroupChgClear src s
  | .pressureChgClear src => execPressureChgClear src s
  | .registerWrite src offset value => execRegisterWrite src offset value s
  | .gatedBlockMmio src offset write => execGatedBlockMmio src offset write s
  | .cxlIdeKm port message => execCxlIdeKm port message s
  | .pcieIdeKm port message => execPcieIdeKm port message s
  | .spdmGetCertificate port offset length => execSpdmGetCertificate port offset length s
  | .tspSetKey ld session ctx wrapped => execTspSetKey ld session ctx wrapped s
  | .tspReplaceKey ld session ctx wrapped => execTspReplaceKey ld session ctx wrapped s
  | .tspClearKey ld session ctx => execTspClearKey ld session ctx s
  | .tspUnsupportedRequest ld session opcode => execTspUnsupportedRequest ld session opcode s
  | _ => done s

/-- The state after a command. -/
def State.serveLate (s : State) (i : Instr) : State :=
  match perform i s with
  | .next t => t
  | _ => s

/-! ## The rafter-borne mailbox -/

/-- A relayed request (R378): an origin with eight requests in service is answered Busy; else the command is served under the privilege
of its origin path. -/
def State.takeRelayed (s : State) (m : Message) : State :=
  let b := m.payload
  let o : SledId := BitVec.ofNat 10 m.src
  let tag : BitVec 16 := num b 6 2
  let op := fieldLe b 2 2
  let p : Path := .rafter o (num b 1 1) tag
  if s.service p op false = .drop then s
  else
    let full := decide (8 ≤ (s.purlin.serving.filter fun x => x.1 == o).length)
    let s := s.onPurlin fun x => { x with serving := x.serving ++ [(o, tag, m.seq)] }
    if full then s.reply p op .busy []
    else if s.relayRefused p op then s.reply p op .unsupported []
    else
      match parseCommand p op (slice b 16 (fieldLe b 10 2)) with
      | .inr rc => s.reply p op rc []
      | .inl i => s.serveLate i

/-- A relayed reply (R378, R391): it completes the Relay Command that waits for it. -/
def State.takeReply (s : State) (m : Message) : State :=
  let b := m.payload
  let mine (x : RelayWait) : Bool := x.target.toNat == m.src && x.tag == fieldLe b 6 2
  match s.purlin.relays.find? mine with
  | none => s
  | some x =>
    let n := fieldLe b 10 2
    (s.onPurlin fun y => { y with relays := y.relays.erase x }).reply x.path 0xC002 .success
      (le 2 0 ++ le 2 (fieldLe b 8 2) ++ le 2 n ++ zeros 2 ++ slice b 16 n)

/-- A message of a kind 6 packet by its class (R378). The control messages of classes 10h to FFh are commands of their own. -/
def State.takeMessage (s : State) (m : Message) : State :=
  if fieldLe m.payload 0 1 = 1 then s.takeRelayed m
  else if fieldLe m.payload 0 1 = 2 then s.takeReply m
  else s

/-! ## Packets -/

/-- A packet lands on a port; a mailbox message for this sled is served (R326, R336, R378). -/
def State.arrivePacket (s : State) (p : RaftPort) (iv : Option SyncIv) (packet : List Byte) : State :=
  let x := s.land p.toNat iv packet
  match x.2 with
  | none => x.1
  | some m => x.1.takeMessage m

/-- FORWARDED_PACKET_LANDED (R326 to R328). -/
def execForwardedPacketLanded (port : RaftPort) (packet : List Byte) (s : State) : Host.Outcome State Fault Refusal :=
  done (s.arrivePacket port none packet)

/-- READ_REQUEST_PACKET, kind 1 (R331). -/
def execReadRequestPacket (port : RaftPort) (packet : List Byte) (s : State) : Host.Outcome State Fault Refusal :=
  done (s.arrivePacket port none packet)

/-- WRITE_REQUEST_PACKET, kind 2 (R331). -/
def execWriteRequestPacket (port : RaftPort) (packet : List Byte) (s : State) : Host.Outcome State Fault Refusal :=
  done (s.arrivePacket port none packet)

/-- READ_RESPONSE_PACKET, kind 3 (R331). -/
def execReadResponsePacket (port : RaftPort) (packet : List Byte) (s : State) : Host.Outcome State Fault Refusal :=
  done (s.arrivePacket port none packet)

/-- WRITE_COMPLETION_PACKET, kind 4 (R331, R340). -/
def execWriteCompletionPacket (port : RaftPort) (packet : List Byte) (s : State) : Host.Outcome State Fault Refusal :=
  done (s.arrivePacket port none packet)

/-- ACK_PACKET, kind 5 (R331, R337). -/
def execAckPacket (port : RaftPort) (packet : List Byte) (s : State) : Host.Outcome State Fault Refusal :=
  done (s.arrivePacket port none packet)

/-- PAIR_SYNC_PACKET, kind 7 (R331, R342). -/
def execPairSyncPacket (port : RaftPort) (iv : SyncIv) (packet : List Byte) (s : State) : Host.Outcome State Fault Refusal :=
  done (s.arrivePacket port (some iv) packet)

/-- RAFTER_MAILBOX_REQUEST, kind 6 and class 01h (R331, R378). -/
def execRafterMailboxRequest (port : RaftPort) (packet : List Byte) (s : State) : Host.Outcome State Fault Refusal :=
  done (s.arrivePacket port none packet)

/-- RAFTER_MAILBOX_REPLY, kind 6 and class 02h (R331, R378). -/
def execRafterMailboxReply (port : RaftPort) (packet : List Byte) (s : State) : Host.Outcome State Fault Refusal :=
  done (s.arrivePacket port none packet)

/-! ## The end of an activation pause -/

/-- ACTIVATION_PAUSE_END (R384): the new runtime runs, and the commands held are served in arrival order. -/
def execActivationPauseEnd (pauseUs : BitVec 32) (s : State) : Host.Outcome State Fault Refusal :=
  if !s.purlin.paused then done s
  else
    let held := s.purlin.held
    let s := (s.endPause pauseUs.toNat).onPurlin fun x => { x with held := [] }
    done (foldState State.serveLate s held)

/-! ## The end of a Watch exit -/

/-- The counters and the trace ring after Watch (R479): everything counted is 0, COUNTER_EPOCH advances, and the settings come from the
Watch save image, or where it is lost from the log store. -/
def Counters.afterWatch (c : Counters) (kept : Bool) : Counters :=
  let general : Sparse GeneralCounter :=
    if kept then c.general.map fun (g : Nat × GeneralCounter) => (g.1, { g.2 with value := 0, overflow := false, was := false }) else []
  { epoch := c.epoch + 1, bringUpAt := c.bringUpAt, kinds := c.kinds, sample := c.sample, filterRid := c.filterRid, filterClass := c.filterClass,
    access := c.access, window := if kept then c.window else 1000, general }

/-- A queue after Watch: no request, its shaper and policer with full buckets where the save area could be read (R292, R424). -/
def Queue.afterWatch (q : Queue) (now : Nat) : Queue :=
  { shaper := q.shaper.full now, policer := q.policer.full now, throttleShaper := q.throttleShaper.map (·.full now), later := q.later }

/-- The queue manager after Watch (R292, R304, R308, R432): doorbells at 0, histograms empty, monitor bindings where the image is kept,
queue settings where the save area is read, the sample interval where the keep list is. -/
def Regulator.afterWatch (g : Regulator) (now : Nat) (image save keepList : Bool) : Regulator :=
  { g with
    queues := if save then g.queues.map fun (q : Nat × Queue) => (q.1, q.2.afterWatch now) else []
    classes := g.classes.map fun (c : Nat × ClassRow) =>
      (c.1, { c.2 with shaper := Bucket.full c.2.shaper now, policer := Bucket.full c.2.policer now })
    weightedIn := {}
    weightedOut := {}
    strictIn := []
    strictOut := []
    doorbells := []
    histograms := []
    monitors := if image then g.monitors.map fun (m : Nat × Monitor) => (m.1, { m.2 with hist := {} }) else []
    sampleUs := if keepList then g.sampleUs else 1000
    interval := {} }

/-- The tile cache after Watch (R187, R188): empty, its fences from the image or from their copy in the log store, and lost with both. -/
def TileCache.afterWatch (c : TileCache) (image copyGone : Bool) : TileCache :=
  { c with
    ways := []
    trees := []
    trackers := []
    fences := if image then c.fences else if copyGone then [] else c.fenceCopy
    drops := if image then c.drops else [] }

/-- The settings that only the Watch save image held return to their power-on values (R424). -/
def State.forgetSettings (s : State) : State :=
  let s := s.onCap fun c => { c with releaseWaitMs := 2000 }
  let s := s.onAlloc fun a => { a with lowMark := 64, victim := 50, share := 10 }
  let s := s.onTile fun t => { t with window := 64, ranges := [] }
  s.onPlace fun p => { p with policy := {}, classes := [] }

/-- The boot ROM checks the boot slot's runtime, and the other where it fails, and Purlin runs it (R381, R424); with neither the sled
is in recovery (R386). -/
def State.reboot (s : State) : State :=
  let run (s : State) (slot : Nat) : State :=
    s.onFw fun f => { f with running := slot, trial := if f.running = slot then f.trial else .none }
  let first := s.purlin.fw.boot
  let x := s.tryBoot first {}
  if x.2 then run x.1 first
  else
    let y := x.1.tryBoot (3 - first) {}
    if y.2 then run y.1 (3 - first) else y.1.setReady rdyRecovery true

/-- Event 0E04h (R424, R437). -/
def State.notRestored (s : State) (cause : Nat) : State := s.raiseAll 0x0E04 .failure (le 1 cause)

/-- The save area is read: the groups that hold it wake (R253, R423 step 6), and its slots are given back. -/
def State.readSave (s : State) (ns : Nat) : State :=
  let channels := s.eaves.saveAreas.flatMap Run.channels
  let s := foldState (fun s ch => s.onChannel ch fun c => { c with waking := true }) s channels
  let groups := (List.range 16).filter fun g => (s.group g).st == .poweredDown && channels.any fun ch => ch / 8 == g
  (foldState (fun s g => s.upGroup g ns) s groups).freeSave

/-- Neither copy of the block directory decodes: every course of every bound block is lost (R78, R274). -/
def State.loseDirectory (s : State) : State :=
  let bound := (s.xlat.dir.filter fun e => e.2.st == .bound).map fun e => e.1
  foldState (fun s b =>
    let s := foldState State.loseCourse s ((List.range blockCourses).map fun i => b * blockCourses + i)
    (s.lostEvent b 0 32768).lostEvent b 32768 32768) s bound

/-- What is lost in Watch and what is restored (R188, R413, R423, R424, R432, R479): `image` the Purlin image, `save` the queue settings
and default contexts, `keepList` the keep list. -/
def State.restore (s : State) (image save keepList : Bool) : State :=
  let s := s.onXlat fun x => { x with cache := [] }
  let s := s.onSram fun m => { m with errors := [] }
  let s := s.onCache fun c => c.afterWatch image s.purlin.log.privateGone
  let s := s.onReg fun g => g.afterWatch s.clock image save keepList
  let s := s.onCtr fun c => c.afterWatch image
  let s := if save then s else s.onHost fun h => { h with defaultContext := [] }
  let s := if keepList then s else s.onHost fun h =>
    { h with lds := Sparse.update {} h.lds fun _ d => { d with groupChg := false, pressureChg := false, groupChgIe := false, pressureChgIe := false } }
  if image then s else s.forgetSettings.reboot

/-- The sideband host is told that the sled answers again (R427): ALERT# on SMBus, an in-band interrupt on I3C. -/
def State.tellSideband (s : State) : State :=
  if !s.eaves.alertDue then s
  else
    let s := s.onEaves fun e => { e with alertDue := false }
    if s.conn.inForce.sbmode then s.emit .inBandInterrupt else s.onConn fun c => { c with alert := true }

/-- Serve in arrival order what waited in a Watch exit (R423). -/
def State.serveWaiting (s : State) : State :=
  let waiting := s.eaves.waiting
  let s := s.onEaves fun e => { e with waiting := [], late := some .watch }
  (foldState State.serveLate s waiting).onEaves fun e => { e with late := none }

/-- The sled leaves Watch for Active (R423 step 8): what was held for it is delivered. -/
def State.leaveWatch (s : State) : State :=
  if s.eaves.st = .watch then (s.changeState .active (some s.eaves.exitCause)).deliverHeld else s

/-- WATCH_EXIT_COMPLETE (R423 step 8, R424): what the sequence found of the Purlin image's digest, the save area's slots, the retention
RAM and the directory's two copies; the time the wake of the save area's groups took, and the exit's time. -/
def execWatchExitComplete (imageOk saveOk retentionOk directoryOk : Bool) (wakeNs exitUs : BitVec 32) (s : State) : Host.Outcome State Fault Refusal :=
  if s.eaves.st ≠ .watch ∨ !s.eaves.exiting then done s
  else
    let save := saveOk && retentionOk
    let s := s.readSave wakeNs.toNat
    let s := s.restore (imageOk && save) save retentionOk
    let s := if directoryOk then s else s.loseDirectory
    let s := s.onEaves fun e => { e with exiting := false, gated := [], lastExitUs := exitUs.toNat, stopped := [] }
    let s := s.leaveWatch
    let s := if !retentionOk then s.notRestored 3
      else
        let s := if imageOk then s else s.notRestored 1
        if saveOk then s else s.notRestored 2
    done s.tellSideband.serveWaiting

end Sys2Proof.Machine
end

