-- ==== Sys2Proof/Machine/Dispatch.lean ====
section
/-! DEFINITION. One arm per command: each is one direct call of its meaning. -/

namespace Sys2Proof.Machine

/-- The effect of a command on everything but the queue. -/
def exec (i : Instr) (s : State) : Host.Outcome State Fault Refusal :=
  match i with
  | .memrd r => Sys2Proof.Machine.execMemrd r s
  | .memrddata r => Sys2Proof.Machine.execMemrddata r s
  | .memwr r data => Sys2Proof.Machine.execMemwr r data s
  | .memwrptl r data enables => Sys2Proof.Machine.execMemwrptl r data enables s
  | .memspecrd r => Sys2Proof.Machine.execMemspecrd r s
  | .sanitize p => Sys2Proof.Machine.execSanitize p s
  | .secureErase p => Sys2Proof.Machine.execSecureErase p s
  | .injectPoison p dpa => Sys2Proof.Machine.execInjectPoison p dpa s
  | .clearPoison p dpa data => Sys2Proof.Machine.execClearPoison p dpa data s
  | .getPoisonList p dpa length => Sys2Proof.Machine.execGetPoisonList p dpa length s
  | .identifyMemoryDevice p => Sys2Proof.Machine.execIdentifyMemoryDevice p s
  | .getSupportedLogs p => Sys2Proof.Machine.execGetSupportedLogs p s
  | .getLog p uuid offset length => Sys2Proof.Machine.execGetLog p uuid offset length s
  | .getEventRecords p log => Sys2Proof.Machine.execGetEventRecords p log s
  | .clearEventRecords p log all handles => Sys2Proof.Machine.execClearEventRecords p log all handles s
  | .getEventInterruptPolicy p => Sys2Proof.Machine.execGetEventInterruptPolicy p s
  | .setEventInterruptPolicy p settings => Sys2Proof.Machine.execSetEventInterruptPolicy p settings s
  | .getTimestamp p => Sys2Proof.Machine.execGetTimestamp p s
  | .setTimestamp p value => Sys2Proof.Machine.execSetTimestamp p value s
  | .backgroundOperationStatus p => Sys2Proof.Machine.execBackgroundOperationStatus p s
  | .requestAbortBackgroundOperation p => Sys2Proof.Machine.execRequestAbortBackgroundOperation p s
  | .backgroundCommandComplete p => Sys2Proof.Machine.execBackgroundCommandComplete p s
  | .getCapacityStatus p => Sys2Proof.Machine.execGetCapacityStatus p s
  | .setOvercommitRatio p ratio => Sys2Proof.Machine.execSetOvercommitRatio p ratio s
  | .setDefaultContext p rid ctx => Sys2Proof.Machine.execSetDefaultContext p rid ctx s
  | .getDefaultContext p rid => Sys2Proof.Machine.execGetDefaultContext p rid s
  | .setReleaseWait p ms => Sys2Proof.Machine.execSetReleaseWait p ms s
  | .setGrowthDevice p ld => Sys2Proof.Machine.execSetGrowthDevice p ld s
  | .getBatten p kind addr => Sys2Proof.Machine.execGetBatten p kind addr s
  | .getTranslationStatus p => Sys2Proof.Machine.execGetTranslationStatus p s
  | .rebuildBattenBlock p block => Sys2Proof.Machine.execRebuildBattenBlock p block s
  | .discardCourseRange p dpa courses => Sys2Proof.Machine.execDiscardCourseRange p dpa courses s
  | .setCompactionPolicy p lowMark victim share => Sys2Proof.Machine.execSetCompactionPolicy p lowMark victim share s
  | .getTileCodingStatus p => Sys2Proof.Machine.execGetTileCodingStatus p s
  | .setWriteGather p window => Sys2Proof.Machine.execSetWriteGather p window s
  | .setPhiozRange p entry action dpa courses => Sys2Proof.Machine.execSetPhiozRange p entry action dpa courses s
  | .getPhiozRange p entry => Sys2Proof.Machine.execGetPhiozRange p entry s
  | .setPhiozConversion p ctx allow => Sys2Proof.Machine.execSetPhiozConversion p ctx allow s
  | .getTileForm p kind tile addr => Sys2Proof.Machine.execGetTileForm p kind tile addr s
  | .getPlacementStatus p => Sys2Proof.Machine.execGetPlacementStatus p s
  | .setPlacementPolicy p policy => Sys2Proof.Machine.execSetPlacementPolicy p policy s
  | .setClassPlacement p cls tier pin strong => Sys2Proof.Machine.execSetClassPlacement p cls tier pin strong s
  | .startThatchingJob p kind heat cap budget start bundles => Sys2Proof.Machine.execStartThatchingJob p kind heat cap budget start bundles s
  | .getThatchingJob p job => Sys2Proof.Machine.execGetThatchingJob p job s
  | .resumeThatchingJob p job add => Sys2Proof.Machine.execResumeThatchingJob p job add s
  | .stopThatchingJob p job free => Sys2Proof.Machine.execStopThatchingJob p job free s
  | .warmCourseRange p dpa courses => Sys2Proof.Machine.execWarmCourseRange p dpa courses s
  | .getTileCacheStatus p => Sys2Proof.Machine.execGetTileCacheStatus p s
  | .invalidateTileCacheRange p kind start courses => Sys2Proof.Machine.execInvalidateTileCacheRange p kind start courses s
  | .setTileCachePolicy p enable noFill => Sys2Proof.Machine.execSetTileCachePolicy p enable noFill s
  | .getTileCacheSet p set => Sys2Proof.Machine.execGetTileCacheSet p set s
  | .getFlashingStatus p => Sys2Proof.Machine.execGetFlashingStatus p s
  | .establishWrappingKey p ownerKey => Sys2Proof.Machine.execEstablishWrappingKey p ownerKey s
  | .loadContextKey p ctx next wrapped => Sys2Proof.Machine.execLoadContextKey p ctx next wrapped s
  | .destroyContextKey p ctx discard => Sys2Proof.Machine.execDestroyContextKey p ctx discard s
  | .getContext p ctx => Sys2Proof.Machine.execGetContext p ctx s
  | .setContextAttributes p ctx cls owner => Sys2Proof.Machine.execSetContextAttributes p ctx cls owner s
  | .startRekey p ctx => Sys2Proof.Machine.execStartRekey p ctx s
  | .setWriteCounterLimit p ctx limit => Sys2Proof.Machine.execSetWriteCounterLimit p ctx limit s
  | .rotateRafterKey p => Sys2Proof.Machine.execRotateRafterKey p s
  | .getChannelStatus p ch => Sys2Proof.Machine.execGetChannelStatus p ch s
  | .getGroupStatus p g => Sys2Proof.Machine.execGetGroupStatus p g s
  | .setGroupPowerPolicy p g enable groupUs chan100ns => Sys2Proof.Machine.execSetGroupPowerPolicy p g enable groupUs chan100ns s
  | .setTrainingPolicy p zqMs checkMs driftPs pollMs => Sys2Proof.Machine.execSetTrainingPolicy p zqMs checkMs driftPs pollMs s
  | .setDramSpeed p speed => Sys2Proof.Machine.execSetDramSpeed p speed s
  | .setBankHashMasks p m0 m1 m2 => Sys2Proof.Machine.execSetBankHashMasks p m0 m1 m2 s
  | .getAddressMap p slot => Sys2Proof.Machine.execGetAddressMap p slot s
  | .retrainChannel p ch kind => Sys2Proof.Machine.execRetrainChannel p ch kind s
  | .getCodeStatus p => Sys2Proof.Machine.execGetCodeStatus p s
  | .getSpareStatus p => Sys2Proof.Machine.execGetSpareStatus p s
  | .startRangeScrub p dpa courses deep share => Sys2Proof.Machine.execStartRangeScrub p dpa courses deep share s
  | .setPatrolPolicy p enable minutes => Sys2Proof.Machine.execSetPatrolPolicy p enable minutes s
  | .getFaultRecords p first count => Sys2Proof.Machine.execGetFaultRecords p first count s
  | .setRetirementPolicy p rowThreshold dieBanks rankRows share hold => Sys2Proof.Machine.execSetRetirementPolicy p rowThreshold dieBanks rankRows share hold s
  | .retireStorage p kind ch rank bank row => Sys2Proof.Machine.execRetireStorage p kind ch rank bank row s
  | .clearRetirement p kind ch rank bank row => Sys2Proof.Machine.execClearRetirement p kind ch rank bank row s
  | .injectSlotError p slot count first pattern => Sys2Proof.Machine.execInjectSlotError p slot count first pattern s
  | .getRegulationStatus p => Sys2Proof.Machine.execGetRegulationStatus p s
  | .setQueueRegulation p q => Sys2Proof.Machine.execSetQueueRegulation p q s
  | .getQueue p rid cls => Sys2Proof.Machine.execGetQueue p rid cls s
  | .setClassRegulation p cls weight on rate burst => Sys2Proof.Machine.execSetClassRegulation p cls weight on rate burst s
  | .setClassGuarantee p cls guarantee burst => Sys2Proof.Machine.execSetClassGuarantee p cls guarantee burst s
  | .setUrgencySource p kind index rid map => Sys2Proof.Machine.execSetUrgencySource p kind index rid map s
  | .setHistogramMonitor p slot action cls rid us => Sys2Proof.Machine.execSetHistogramMonitor p slot action cls rid us s
  | .getRafterPortStatus p port => Sys2Proof.Machine.execGetRafterPortStatus p port s
  | .getTransportPair p peer => Sys2Proof.Machine.execGetTransportPair p peer s
  | .setTransportPolicy p credits replayUs unreachUs => Sys2Proof.Machine.execSetTransportPolicy p credits replayUs unreachUs s
  | .setRafterPort p port action => Sys2Proof.Machine.execSetRafterPort p port action s
  | .getCascadeStatus p => Sys2Proof.Machine.execGetCascadeStatus p s
  | .setCascadeRange p action index entry segments => Sys2Proof.Machine.execSetCascadeRange p action index entry segments s
  | .getCascadeRange p index => Sys2Proof.Machine.execGetCascadeRange p index s
  | .addCascadeExtent p ld region base blocks dpa => Sys2Proof.Machine.execAddCascadeExtent p ld region base blocks dpa s
  | .getCascadeRoute p sled => Sys2Proof.Machine.execGetCascadeRoute p sled s
  | .setCascadePolicy p timeout rate eligible => Sys2Proof.Machine.execSetCascadePolicy p timeout rate eligible s
  | .getFwInfo p => Sys2Proof.Machine.execGetFwInfo p s
  | .transferFw p slot action offset data => Sys2Proof.Machine.execTransferFw p slot action offset data s
  | .activateFwOnline p slot => Sys2Proof.Machine.execActivateFwOnline p slot s
  | .activateFwOffline p slot => Sys2Proof.Machine.execActivateFwOffline p slot s
  | .getSledIdentity p => Sys2Proof.Machine.execGetSledIdentity p s
  | .getBackgroundResult p => Sys2Proof.Machine.execGetBackgroundResult p s
  | .relayCommand p target opcode payload => Sys2Proof.Machine.execRelayCommand p target opcode payload s
  | .getPurlinStatus p => Sys2Proof.Machine.execGetPurlinStatus p s
  | .getFirmwareStatus p => Sys2Proof.Machine.execGetFirmwareStatus p s
  | .setFirmwarePolicy p minutes rollBack svn => Sys2Proof.Machine.execSetFirmwarePolicy p minutes rollBack svn s
  | .getLogStoreStatus p => Sys2Proof.Machine.execGetLogStoreStatus p s
  | .getBringupStatus p => Sys2Proof.Machine.execGetBringupStatus p s
  | .retryGroupAdmission p g => Sys2Proof.Machine.execRetryGroupAdmission p g s
  | .setGroupAdmission p g action => Sys2Proof.Machine.execSetGroupAdmission p g action s
  | .getPowerState p => Sys2Proof.Machine.execGetPowerState p s
  | .setWatchConsent p consent whole => Sys2Proof.Machine.execSetWatchConsent p consent whole s
  | .setPowerStatePolicy p drowse watch idleUs sampleMs ceilingMs => Sys2Proof.Machine.execSetPowerStatePolicy p drowse watch idleUs sampleMs ceilingMs s
  | .setWatchThresholds p index lowOn highOn low high => Sys2Proof.Machine.execSetWatchThresholds p index lowOn highOn low high s
  | .getWatchSamples p => Sys2Proof.Machine.execGetWatchSamples p s
  | .getSleepRefusals p block => Sys2Proof.Machine.execGetSleepRefusals p block s
  | .getPowerPathStatus p => Sys2Proof.Machine.execGetPowerPathStatus p s
  | .setPowerPathPolicy p limit retry soa delay => Sys2Proof.Machine.execSetPowerPathPolicy p limit retry soa delay s
  | .clearPowerLatch p => Sys2Proof.Machine.execClearPowerLatch p s
  | .getPowerReadings p resetPeaks resetEnergy => Sys2Proof.Machine.execGetPowerReadings p resetPeaks resetEnergy s
  | .getTripRecords p => Sys2Proof.Machine.execGetTripRecords p s
  | .getOnchipMemoryStatus p => Sys2Proof.Machine.execGetOnchipMemoryStatus p s
  | .setMemoryTestPolicy p enable us => Sys2Proof.Machine.execSetMemoryTestPolicy p enable us s
  | .setGeneralCounter p counter enable level event qualifier => Sys2Proof.Machine.execSetGeneralCounter p counter enable level event qualifier s
  | .clearCounters p groups => Sys2Proof.Machine.execClearCounters p groups s
  | .setBandwidthWindow p us => Sys2Proof.Machine.execSetBandwidthWindow p us s
  | .setTracePolicy p kinds sample rid cls => Sys2Proof.Machine.execSetTracePolicy p kinds sample rid cls s
  | .setCounterAccess p rid counter trace => Sys2Proof.Machine.execSetCounterAccess p rid counter trace s
  | .readCounterArea p area page offset length => Sys2Proof.Machine.execReadCounterArea p area page offset length s
  | .getConnectorStatus p => Sys2Proof.Machine.execGetConnectorStatus p s
  | .setLocateIndicator p value => Sys2Proof.Machine.execSetLocateIndicator p value s
  | .getThermalStatus p => Sys2Proof.Machine.execGetThermalStatus p s
  | .undefinedVendorOpcode p opcode => Sys2Proof.Machine.execUndefinedVendorOpcode p opcode s
  | .unsupportedM2sOpcode port opcode => Sys2Proof.Machine.execUnsupportedM2sOpcode port opcode s
  | .requestIssue => Sys2Proof.Machine.execRequestIssue s
  | .perstAssert port => Sys2Proof.Machine.execPerstAssert port s
  | .perstRelease port refclk => Sys2Proof.Machine.execPerstRelease port refclk s
  | .hostLinkUp port rate => Sys2Proof.Machine.execHostLinkUp port rate s
  | .linkL1Entry port => Sys2Proof.Machine.execLinkL1Entry port s
  | .linkL2Entry port => Sys2Proof.Machine.execLinkL2Entry port s
  | .linkElectricalIdleExit port => Sys2Proof.Machine.execLinkElectricalIdleExit port s
  | .blockFillComplete block => Sys2Proof.Machine.execBlockFillComplete block s
  | .addDcResponse ld accepted => Sys2Proof.Machine.execAddDcResponse ld accepted s
  | .releaseDcCapacity ld released => Sys2Proof.Machine.execReleaseDcCapacity ld released s
  | .fmInitiateDcAdd ld region extent => Sys2Proof.Machine.execFmInitiateDcAdd ld region extent s
  | .fmInitiateDcRelease ld extent => Sys2Proof.Machine.execFmInitiateDcRelease ld extent s
  | .releaseWaitExpiry => Sys2Proof.Machine.execReleaseWaitExpiry s
  | .writeThrottleStep => Sys2Proof.Machine.execWriteThrottleStep s
  | .ldReset ld => Sys2Proof.Machine.execLdReset ld s
  | .cxlReset ld memClear => Sys2Proof.Machine.execCxlReset ld memClear s
  | .fmUnbindLd ld => Sys2Proof.Machine.execFmUnbindLd ld s
  | .ldDrainComplete ld => Sys2Proof.Machine.execLdDrainComplete ld s
  | .eventRatePeriodEnd code subject => Sys2Proof.Machine.execEventRatePeriodEnd code subject s
  | .doorbellUrgencyWrite src page value => Sys2Proof.Machine.execDoorbellUrgencyWrite src page value s
  | .doorbellUrgencyHoldWrite src page value => Sys2Proof.Machine.execDoorbellUrgencyHoldWrite src page value s
  | .urgencyHoldExpiry page => Sys2Proof.Machine.execUrgencyHoldExpiry page s
  | .groupChgClear src => Sys2Proof.Machine.execGroupChgClear src s
  | .pressureChgClear src => Sys2Proof.Machine.execPressureChgClear src s
  | .registerWrite src offset value => Sys2Proof.Machine.execRegisterWrite src offset value s
  | .gatedBlockMmio src offset write => Sys2Proof.Machine.execGatedBlockMmio src offset write s
  | .runMoveStart course => Sys2Proof.Machine.execRunMoveStart course s
  | .runMoveCommit course => Sys2Proof.Machine.execRunMoveCommit course s
  | .placementRetry => Sys2Proof.Machine.execPlacementRetry s
  | .clearingWalkStep => Sys2Proof.Machine.execClearingWalkStep s
  | .tableFillStep => Sys2Proof.Machine.execTableFillStep s
  | .drainWalkStep => Sys2Proof.Machine.execDrainWalkStep s
  | .tableRebuildStep => Sys2Proof.Machine.execTableRebuildStep s
  | .watermarkStallEnd => Sys2Proof.Machine.execWatermarkStallEnd s
  | .gatherWindowExpiry buffer => Sys2Proof.Machine.execGatherWindowExpiry buffer s
  | .gatherClose buffer => Sys2Proof.Machine.execGatherClose buffer s
  | .thatchBundleTake engine => Sys2Proof.Machine.execThatchBundleTake engine s
  | .thatchBundleCommit engine => Sys2Proof.Machine.execThatchBundleCommit engine s
  | .thatchJobAutoResume job => Sys2Proof.Machine.execThatchJobAutoResume job s
  | .promotionCommit engine => Sys2Proof.Machine.execPromotionCommit engine s
  | .placementScanVisit => Sys2Proof.Machine.execPlacementScanVisit s
  | .recode course => Sys2Proof.Machine.execRecode course s
  | .thresholdAdjust => Sys2Proof.Machine.execThresholdAdjust s
  | .rekeyPassCourse => Sys2Proof.Machine.execRekeyPassCourse s
  | .destroyDiscardWalkStep => Sys2Proof.Machine.execDestroyDiscardWalkStep s
  | .ideIntegrityFailure port => Sys2Proof.Machine.execIdeIntegrityFailure port s
  | .cxlIdeKm port message => Sys2Proof.Machine.execCxlIdeKm port message s
  | .pcieIdeKm port message => Sys2Proof.Machine.execPcieIdeKm port message s
  | .spdmGetCertificate port offset length => Sys2Proof.Machine.execSpdmGetCertificate port offset length s
  | .tspSetKey ld session ctx wrapped => Sys2Proof.Machine.execTspSetKey ld session ctx wrapped s
  | .tspReplaceKey ld session ctx wrapped => Sys2Proof.Machine.execTspReplaceKey ld session ctx wrapped s
  | .tspClearKey ld session ctx => Sys2Proof.Machine.execTspClearKey ld session ctx s
  | .tspUnsupportedRequest ld session opcode => Sys2Proof.Machine.execTspUnsupportedRequest ld session opcode s
  | .queueHeadExecute ch => Sys2Proof.Machine.execQueueHeadExecute ch s
  | .slotReadComplete ch => Sys2Proof.Machine.execSlotReadComplete ch s
  | .bufferDrain ch => Sys2Proof.Machine.execBufferDrain ch s
  | .refreshDue ch => Sys2Proof.Machine.execRefreshDue ch s
  | .mr4Poll ch codes => Sys2Proof.Machine.execMr4Poll ch codes s
  | .zqCalibrationDue ch passed stallNs => Sys2Proof.Machine.execZqCalibrationDue ch passed stallNs s
  | .dqsCheckDue ch drift => Sys2Proof.Machine.execDqsCheckDue ch drift s
  | .writeDqRetrainTurn ch drift => Sys2Proof.Machine.execWriteDqRetrainTurn ch drift s
  | .writeDqRetrainDone ch passed stallNs => Sys2Proof.Machine.execWriteDqRetrainDone ch passed stallNs s
  | .channelSelfRefreshEntry ch => Sys2Proof.Machine.execChannelSelfRefreshEntry ch s
  | .groupPowerDownEntry g abandoned => Sys2Proof.Machine.execGroupPowerDownEntry g abandoned s
  | .groupWakeComplete g ns => Sys2Proof.Machine.execGroupWakeComplete g ns s
  | .groupTrainingAttemptDone g passed failStep failRank settled sensorValid => Sys2Proof.Machine.execGroupTrainingAttemptDone g passed failStep failRank settled sensorValid s
  | .stripeRebuild ch => Sys2Proof.Machine.execStripeRebuild ch s
  | .stripeLockGrant => Sys2Proof.Machine.execStripeLockGrant s
  | .rereadClassify ch => Sys2Proof.Machine.execRereadClassify ch s
  | .retirementMovesResume => Sys2Proof.Machine.execRetirementMovesResume s
  | .patrolRead => Sys2Proof.Machine.execPatrolRead s
  | .patrolLapOverdue => Sys2Proof.Machine.execPatrolLapOverdue s
  | .rangeScrubStep ld => Sys2Proof.Machine.execRangeScrubStep ld s
  | .landedRequestEnterStore => Sys2Proof.Machine.execLandedRequestEnterStore s
  | .histogramSample => Sys2Proof.Machine.execHistogramSample s
  | .deliverableRateInterval => Sys2Proof.Machine.execDeliverableRateInterval s
  | .urgencyPinChange pair level => Sys2Proof.Machine.execUrgencyPinChange pair level s
  | .laneParityError port lane => Sys2Proof.Machine.execLaneParityError port lane s
  | .downNoticeReceived port => Sys2Proof.Machine.execDownNoticeReceived port s
  | .hopTrainingDone port result => Sys2Proof.Machine.execHopTrainingDone port result s
  | .portRetryTimer port result => Sys2Proof.Machine.execPortRetryTimer port result s
  | .forwardedPacketLanded port packet => Sys2Proof.Machine.execForwardedPacketLanded port packet s
  | .forwardAgeDrop port => Sys2Proof.Machine.execForwardAgeDrop port s
  | .egressPacketSend port => Sys2Proof.Machine.execEgressPacketSend port s
  | .readRequestPacket port packet => Sys2Proof.Machine.execReadRequestPacket port packet s
  | .writeRequestPacket port packet => Sys2Proof.Machine.execWriteRequestPacket port packet s
  | .readResponsePacket port packet => Sys2Proof.Machine.execReadResponsePacket port packet s
  | .writeCompletionPacket port packet => Sys2Proof.Machine.execWriteCompletionPacket port packet s
  | .ackPacket port packet => Sys2Proof.Machine.execAckPacket port packet s
  | .pairSyncPacket port iv packet => Sys2Proof.Machine.execPairSyncPacket port iv packet s
  | .ackTimer peer => Sys2Proof.Machine.execAckTimer peer s
  | .replayTimer peer => Sys2Proof.Machine.execReplayTimer peer s
  | .pairUnreachable peer => Sys2Proof.Machine.execPairUnreachable peer s
  | .ridgeClaimMessage port claim => Sys2Proof.Machine.execRidgeClaimMessage port claim s
  | .ridgeClaimTimeout => Sys2Proof.Machine.execRidgeClaimTimeout s
  | .heartbeatSend => Sys2Proof.Machine.execHeartbeatSend s
  | .heartbeatReceived src term => Sys2Proof.Machine.execHeartbeatReceived src term s
  | .heartbeatTimeout => Sys2Proof.Machine.execHeartbeatTimeout s
  | .mapChangeAck src version => Sys2Proof.Machine.execMapChangeAck src version s
  | .joinRequest port join => Sys2Proof.Machine.execJoinRequest port join s
  | .joinComplete grant => Sys2Proof.Machine.execJoinComplete grant s
  | .routeUpdate src term neighbours routes => Sys2Proof.Machine.execRouteUpdate src term neighbours routes s
  | .memberProbeTimeout member => Sys2Proof.Machine.execMemberProbeTimeout member s
  | .mirrorCopy lead copy => Sys2Proof.Machine.execMirrorCopy lead copy s
  | .resilverStep range usable => Sys2Proof.Machine.execResilverStep range usable s
  | .rafterMailboxRequest port packet => Sys2Proof.Machine.execRafterMailboxRequest port packet s
  | .rafterMailboxReply port packet => Sys2Proof.Machine.execRafterMailboxReply port packet s
  | .coreWatchdogExpiry core => Sys2Proof.Machine.execCoreWatchdogExpiry core s
  | .activationStaged => Sys2Proof.Machine.execActivationStaged s
  | .activationPauseEnd pauseUs => Sys2Proof.Machine.execActivationPauseEnd pauseUs s
  | .healthWindowEnd => Sys2Proof.Machine.execHealthWindowEnd s
  | .logStoreUpdate block words readBackOk => Sys2Proof.Machine.execLogStoreUpdate block words readBackOk s
  | .firmwareBoot tests => Sys2Proof.Machine.execFirmwareBoot tests s
  | .groupAdmission => Sys2Proof.Machine.execGroupAdmission s
  | .groupJoin codecsFailed repairsFailed => Sys2Proof.Machine.execGroupJoin codecsFailed repairsFailed s
  | .drowseIdleTimer => Sys2Proof.Machine.execDrowseIdleTimer s
  | .watchEntryStart => Sys2Proof.Machine.execWatchEntryStart s
  | .sleepBlockAnswer refusal => Sys2Proof.Machine.execSleepBlockAnswer refusal s
  | .sleepAnswerTimeout => Sys2Proof.Machine.execSleepAnswerTimeout s
  | .sleepBackoffRetry => Sys2Proof.Machine.execSleepBackoffRetry s
  | .watchExitComplete imageOk saveOk retentionOk directoryOk wakeNs exitUs => Sys2Proof.Machine.execWatchExitComplete imageOk saveOk retentionOk directoryOk wakeNs exitUs s
  | .samplerCycle samples => Sys2Proof.Machine.execSamplerCycle samples s
  | .sidebandAddressMatch address => Sys2Proof.Machine.execSidebandAddressMatch address s
  | .crystalStop => Sys2Proof.Machine.execCrystalStop s
  | .timeBaseSave => Sys2Proof.Machine.execTimeBaseSave s
  | .purlinGatedAccess block => Sys2Proof.Machine.execPurlinGatedAccess block s
  | .auxPowerUp => Sys2Proof.Machine.execAuxPowerUp s
  | .prsntAssert => Sys2Proof.Machine.execPrsntAssert s
  | .prsntDeassert => Sys2Proof.Machine.execPrsntDeassert s
  | .auxExcursion => Sys2Proof.Machine.execAuxExcursion s
  | .mainExcursion excess mv => Sys2Proof.Machine.execMainExcursion excess mv s
  | .mainInWindow => Sys2Proof.Machine.execMainInWindow s
  | .insertionDelayEnd => Sys2Proof.Machine.execInsertionDelayEnd s
  | .rampPowerGood => Sys2Proof.Machine.execRampPowerGood s
  | .railsGood marchOk => Sys2Proof.Machine.execRailsGood marchOk s
  | .rampTimeout sense => Sys2Proof.Machine.execRampTimeout sense s
  | .railsTimeout sense => Sys2Proof.Machine.execRailsTimeout sense s
  | .regulatorFault sense => Sys2Proof.Machine.execRegulatorFault sense s
  | .foldbackEntry => Sys2Proof.Machine.execFoldbackEntry s
  | .soaTimerExpiry sense => Sys2Proof.Machine.execSoaTimerExpiry sense s
  | .fastTrip sense => Sys2Proof.Machine.execFastTrip sense s
  | .tripRetry => Sys2Proof.Machine.execTripRetry s
  | .tripCountReset => Sys2Proof.Machine.execTripCountReset s
  | .holdupEnd => Sys2Proof.Machine.execHoldupEnd s
  | .powerConversion c => Sys2Proof.Machine.execPowerConversion c s
  | .regionTestInterval failingWord finished => Sys2Proof.Machine.execRegionTestInterval failingWord finished s
  | .regionTestAbandon => Sys2Proof.Machine.execRegionTestAbandon s
  | .bandwidthWindowEnd => Sys2Proof.Machine.execBandwidthWindowEnd s
  | .strapPoll read => Sys2Proof.Machine.execStrapPoll read s
  | .locateTimeout => Sys2Proof.Machine.execLocateTimeout s
  | .wakeHoldTimeout => Sys2Proof.Machine.execWakeHoldTimeout s
  | .alertResponseAddress => Sys2Proof.Machine.execAlertResponseAddress s
  | .i3cSetdasa address => Sys2Proof.Machine.execI3cSetdasa address s
  | .i3cEntdaa address => Sys2Proof.Machine.execI3cEntdaa address s
  | .sensorPoll groups controller => Sys2Proof.Machine.execSensorPoll groups controller s
  | .thermalShutdown sensor reading => Sys2Proof.Machine.execThermalShutdown sensor reading s
  | .thermalCooldownEnd => Sys2Proof.Machine.execThermalCooldownEnd s
  | .hostLinkDown port => Sys2Proof.Machine.execHostLinkDown port s
  | .linkL1Exit port => Sys2Proof.Machine.execLinkL1Exit port s
  | .foldbackExit => Sys2Proof.Machine.execFoldbackExit s
  | .unreachablePairReport src member => Sys2Proof.Machine.execUnreachablePairReport src member s
  | .linkKeyConfirmation src keyId stopped wrapped => Sys2Proof.Machine.execLinkKeyConfirmation src keyId stopped wrapped s
  | .ridgeTermAnnounce src term deputy => Sys2Proof.Machine.execRidgeTermAnnounce src term deputy s
  | .cascadeMapUpdate src update => Sys2Proof.Machine.execCascadeMapUpdate src update s

end Sys2Proof.Machine
end

