-- ==== Sys2Proof/Safety.lean ====
section
/-! DEFINITION. The terms that statements about the block are made in: when a path serves, how a command answers, the fields of
a payload, and what every command keeps. -/

namespace Sys2Proof.Machine

/-! ## Answers -/

/-- A path serves a command of an opcode now (R370, R384, R400, R423). -/
abbrev State.serves (s : State) (p : Path) (op : Nat) : Prop := s.service p op false = .serve

/-- A served command has been counted and answered. -/
def State.answered (s : State) (p : Path) (op : Nat) (rc : ReturnCode) (out : List Byte) : State :=
  (s.onPurlin fun x => { x with served := x.served + 1 }).reply p op rc out

/-- A command leaves a state and answers Success with an output. -/
def Performs (c : Instr) (p : Path) (op : Nat) (s t : State) (out : List Byte) : Prop :=
  exec c s = .next (t.answered p op .success out)

/-- A command answers Success with some output, and its arrival is all that changes; the output is as `post` says of the state
it was read from. -/
def Answers (c : Instr) (p : Path) (op : Nat) (s : State) (post : State → List Byte → Prop) : Prop :=
  ∃ out, Performs c p op s (s.arrives p) out ∧ post (s.arrives p) out

/-- A background command begins: it answers Background Command Started (R376). -/
def Begins (c : Instr) (p : Path) (op : Nat) (s t : State) : Prop := exec c s = .next (t.answered p op .backgroundStarted [])

/-- A command is turned away with a return code, and its arrival is all that changes. -/
def TurnedAway (c : Instr) (p : Path) (op : Nat) (s : State) (rc : ReturnCode) : Prop :=
  exec c s = .next ((s.arrives p).answered p op rc [])

/-- A payload of `n` bytes with fields (offset, length, value), little-endian as R49 has them. -/
def Fields (out : List Byte) (n : Nat) (fs : List (Nat × Nat × Nat)) : Prop :=
  out.length = n ∧ ∀ f ∈ fs, fieldLe out f.1 f.2.1 = f.2.2 % 256 ^ f.2.1

/-! ## What every command keeps -/

/-- The states that a run can be in: canonical DRAM contents; a latched switch is open for good and the sled in Off-aux (R447);
no sleep entry is under way in Off-aux (R416, R428). -/
structure State.Sound (s : State) : Prop where
  memory : Memory.wf s.dram.cells = true
  latched : s.power.latched = true → s.power.sw = .latched ∧ s.eaves.st = .offAux
  asleep : s.eaves.st = .offAux → s.eaves.entry = none

/-- From `s` to `t`: the queue, the clock and the sled's identity stand; the fused security version number does not fall (R382);
a sound state stays sound. -/
structure Keeps (s t : State) : Prop where
  queue : t.pending = s.pending
  clock : t.clock = s.clock
  small : t.small = s.small
  serial : t.serial = s.serial
  fused : s.purlin.fw.fused ≤ t.purlin.fw.fused
  sound : s.Sound → t.Sound

end Sys2Proof.Machine
end

