-- ==== Sys2Proof/Certificates/Slice0/Obligations.lean ====
section
/-! DEFINITION. The statements about the model, one definition each. A docstring names the rules that a statement formalises, or the
log entries (notes/assumptions) that it rests on where it states a choice of the model. -/

open Sys2Proof Sys2Proof.Machine

/-- A served IDENTIFY_MEMORY_DEVICE, GET_SUPPORTED_LOGS, GET_LOG, GET_EVENT_RECORDS, GET_EVENT_INTERRUPT_POLICY and GET_TIMESTAMP
answer Success and change nothing but their own arrival: the static capacity in units of 256 MiB, logs of 256 records, a
poison list of 8,192 and 64 injected lines; one supported log; the asked bytes of the command effects log; the overflow count
and the number of records returned; the policy; the timestamp. The payload layouts are the model's choice of CXL's
(notes/assumptions/29.md). (R20, R32, R46, R48, R49, R391, 12_purlin_and_mailboxes.md, notes/assumptions/29.md) -/
def Obligations.GeneralQueries : Prop :=
  ∀ (s : State) (p : Path),
    (s.serves p 0x4000 → Answers (.identifyMemoryDevice p) p 0x4000 s fun a out =>
      Fields out 69 [(16, 8, if a.cap.memActive ∧ a.issuing p = a.cap.staticLd then 256 else 0),
        (24, 8, if a.cap.memActive ∧ a.issuing p = a.cap.staticLd then 256 else 0), (48, 2, 256), (50, 2, 256), (52, 2, 256), (54, 2, 256),
        (60, 3, 8192), (63, 2, 64)]) ∧
    (s.serves p 0x0400 → Answers (.getSupportedLogs p) p 0x0400 s fun _ out => Fields out 28 [(0, 2, 1), (24, 4, effectsLog.length)]) ∧
    (∀ offset length : BitVec 32, s.serves p 0x0401 → offset.toNat + length.toNat ≤ effectsLog.length → length.toNat ≤ Path.limit p →
      Answers (.getLog p effectsId offset length) p 0x0401 s fun _ out => out = slice effectsLog offset.toNat length.toNat) ∧
    (∀ log, s.serves p 0x0100 → Answers (.getEventRecords p log) p 0x0100 s fun a out =>
      let l := (a.ld (a.issuing p).toNat).log log
      fieldLe out 2 2 = l.overflow % 65536 ∧ fieldLe out 20 2 = min ((Path.limit p - 32) / 128) l.records.length ∧
        out.drop 32 = (l.records.take ((Path.limit p - 32) / 128)).flatMap (eventRecordBytes log)) ∧
    (s.serves p 0x0102 → Answers (.getEventInterruptPolicy p) p 0x0102 s fun a out =>
      Fields out 5 [(0, 5, (a.ld (a.issuing p).toNat).policy.toNat)]) ∧
    (s.serves p 0x0300 → Answers (.getTimestamp p) p 0x0300 s fun a out => Fields out 8 [(0, 8, a.timestamp)])

/-- A served SET_EVENT_INTERRUPT_POLICY with no reserved code stores the policy of the issuing device; SET_TIMESTAMP stores the
value at the present cycle; CLEAR_EVENT_RECORDS of the oldest records by their handles in order, or of an overflowed log as a
whole, removes them and clears the overflow; each answers Success with no output and changes nothing else.
EVENT_RATE_PERIOD_END ends the period of its code and subject. A vendor opcode that no chapter defines is Unsupported. (R49,
R376, R377, 12_purlin_and_mailboxes.md, notes/assumptions/29.md) -/
def Obligations.GeneralSettings : Prop :=
  ∀ (s : State) (p : Path),
    (∀ settings : BitVec 40, s.serves p 0x0103 → (∀ i < 5, bits settings.toNat (8 * i + 1) (8 * i) ≠ 3) →
      Performs (.setEventInterruptPolicy p settings) p 0x0103 s
        ((s.arrives p).onLd ((s.arrives p).issuing p).toNat fun d => { d with policy := settings }) []) ∧
    (∀ value : BitVec 64, s.serves p 0x0301 → Performs (.setTimestamp p value) p 0x0301 s
      ((s.arrives p).onHost fun h => { h with timestamp := value.toNat, timestampSet := true, timestampAt := (s.arrives p).clock }) []) ∧
    (∀ log handles, s.serves p 0x0101 →
      let a := s.arrives p
      let x := (a.ld (a.issuing p).toNat).log log
      (x.records.take handles.length).map (·.handle) = handles.map (·.toNat) →
      Performs (.clearEventRecords p log false handles) p 0x0101 s
        (a.onLd (a.issuing p).toNat fun d => d.setLog log
          { x with records := x.records.drop handles.length, overflow := 0, firstOverflow := 0, lastOverflow := 0 }) []) ∧
    (∀ log handles, s.serves p 0x0101 →
      let a := s.arrives p
      let x := (a.ld (a.issuing p).toNat).log log
      x.overflow ≠ 0 →
      Performs (.clearEventRecords p log true handles) p 0x0101 s
        (a.onLd (a.issuing p).toNat fun d => d.setLog log { x with records := [], overflow := 0, firstOverflow := 0, lastOverflow := 0 }) []) ∧
    (∀ code subject, exec (.eventRatePeriodEnd code subject) s = .next (s.endPeriod code.toNat subject.toNat)) ∧
    (∀ opcode, s.serves p opcode.toNat → TurnedAway (.undefinedVendorOpcode p opcode) p opcode.toNat s .unsupported)

/-- With a background command on the path's carrier: a served BACKGROUND_OPERATION_STATUS answers whether it runs, its percentage
and opcode, and once it has ended its return code; GET_BACKGROUND_RESULT after its end answers its opcode, return code,
length and output, and status 0001h while it runs or where there is none; REQUEST_ABORT_BACKGROUND_OPERATION asks Discard
Course Range, Warm Course Range, Start Range Scrub or Destroy Context Key to stop and is Unsupported for any other that runs;
BACKGROUND_COMMAND_COMPLETE ends a command whose work is done and tells the host its return code. (R376, R377,
12_purlin_and_mailboxes.md) -/
def Obligations.BackgroundCommands : Prop :=
  ∀ (s : State) (p : Path) (b : Background),
    ((s.serves p 0x0002 ∧ (s.arrives p).backgroundOf (Path.carrier p) = some b) → Answers (.backgroundOperationStatus p) p 0x0002 s fun _ out =>
      Fields out 8 [(0, 1, (if b.running then 1 else 0) + 2 * b.percent), (2, 2, b.opcode), (4, 2, if b.running then 0 else b.rc.code)]) ∧
    ((s.serves p 0xC001 ∧ (s.arrives p).backgroundOf (Path.carrier p) = some b ∧ b.running = false) → Answers (.getBackgroundResult p) p 0xC001 s fun _ out =>
      Fields out (8 + b.output.length) [(0, 2, 0), (2, 2, b.opcode), (4, 2, b.rc.code), (6, 2, b.output.length)] ∧ out.drop 8 = b.output) ∧
    ((s.serves p 0xC001 ∧ (s.arrives p).backgroundBusy (Path.carrier p) = true) → Answers (.getBackgroundResult p) p 0xC001 s fun _ out => fieldLe out 0 2 = 1) ∧
    ((s.serves p 0x0005 ∧ (s.arrives p).backgroundOf (Path.carrier p) = some b ∧ b.running = true ∧ b.opcode ∈ [0xC083, 0xC107, 0xC202, 0xC183]) →
      Performs (.requestAbortBackgroundOperation p) p 0x0005 s ((s.arrives p).askAbort b.opcode (some p)) []) ∧
    ((s.serves p 0x0005 ∧ (s.arrives p).backgroundOf (Path.carrier p) = some b ∧ b.running = true ∧ b.opcode ∉ [0xC083, 0xC107, 0xC202, 0xC183]) →
      TurnedAway (.requestAbortBackgroundOperation p) p 0x0005 s .unsupported) ∧
    ((s.backgroundOf (Path.carrier p) = some b ∧ b.running = true ∧ b.done = true) → exec (.backgroundCommandComplete p) s =
      .next ((s.setBackground (Path.carrier p) { b with running := false }).emit (.backgroundDone p b.opcode b.rc (fieldLe b.output 0 2))))

/-- A served ADD_DC_RESPONSE and RELEASE_DC_CAPACITY with well-formed extents do what accepting and releasing those DPA blocks
does, answering its return code; FM_INITIATE_DC_ADD in region 1 to 7 of a device that exists, over DPA blocks not taken, with
room in the pool, offers the lowest free blocks at those DPA blocks and announces them; FM_INITIATE_DC_RELEASE of accepted
dynamic capacity logs the release request and event 0104h; BLOCK_FILL_COMPLETE ends the fill of its block. (R34, R38, R58,
R88, R526, 01_host_view.md, notes/assumptions/29.md) -/
def Obligations.DynamicCapacityMoves : Prop :=
  ∀ (s : State),
    (∀ (ld : LdId) (es : List Extent) (exts : List Nat), (s.serves (.primary ld 0) 0x4802 ∧ extBlocks es = some exts) →
      let r := (s.arrives (.primary ld 0)).acceptOffers (if (s.arrives (.primary ld 0)).host.gfam then 0 else ld) exts
      exec (.addDcResponse ld es) s = .next (r.1.answered (.primary ld 0) 0x4802 r.2 [])) ∧
    (∀ (ld : LdId) (es : List Extent) (exts : List Nat), (s.serves (.primary ld 0) 0x4803 ∧ extBlocks es = some exts) →
      let r := (s.arrives (.primary ld 0)).releaseExts (if (s.arrives (.primary ld 0)).host.gfam then 0 else ld) exts
      exec (.releaseDcCapacity ld es) s = .next (r.1.answered (.primary ld 0) 0x4803 r.2 [])) ∧
    (∀ (ld : LdId) (region : BitVec 3) (e : Extent) (exts : List Nat),
      let a := s.arrives (.fabric (some ld))
      let l : LdId := if a.host.gfam then 0 else ld
      (s.serves (.fabric (some ld)) 0x5604 ∧ extBlocks [e] = some exts ∧ region ≠ 0 ∧ a.ldExists l = true ∧ exts.any (a.extTaken l) = false ∧
        (a.poolBlocks exts.length).length = exts.length ∧ a.blocksTaken + exts.length ≤ a.offerTotal) →
      Performs (.fmInitiateDcAdd ld region e) (.fabric (some ld)) 0x5604 s
        (foldState (fun s x => s.offerBlock x.1 l x.2 region.toNat) a ((a.poolBlocks exts.length).zip exts)).announceOffers []) ∧
    (∀ (ld : LdId) (e : Extent) (exts : List Nat),
      let a := s.arrives (.fabric (some ld))
      let l : LdId := if a.host.gfam then 0 else ld
      (s.serves (.fabric (some ld)) 0x5605 ∧ extBlocks [e] = some exts ∧ (∀ x ∈ exts, a.staticExt l x = false ∧ (a.blockAt l x).isSome)) →
      Performs (.fmInitiateDcRelease ld e) (.fabric (some ld)) 0x5605 s
        ((a.logTo l .dynamicCapacity (dcRecord 1 (a.regionOf l (exts.headD 0)) (exts.headD 0 * blockBytes) exts.length)).raise 0x0104 .warning 0xFFFF
          (le 1 (a.regionOf l (exts.headD 0)) ++ le 4 exts.length) [l]) []) ∧
    (∀ block, exec (.blockFillComplete block) s = .next (s.fillDone block.toNat))

/-- RELEASE_WAIT_EXPIRY with extents still unreleased ends the wait, raises event 0105h with their number, and at pressure stage
2 goes on to stage 3; with none left it only ends the wait. WRITE_THROTTLE_STEP while the free capacity fell since the last
step and the divisor is below 64 doubles the divisor, and otherwise only notes the free capacity. (R38, R156, R159, R302,
01_host_view.md) -/
def Obligations.ReleaseWaitAndThrottle : Prop :=
  ∀ (s : State),
    (∀ w : ReleaseWait, (s.cap.wait = some w ∧ w.named ≠ []) → exec .releaseWaitExpiry s =
      .next (let t := (s.onCap fun c => { c with wait := none }).raise 0x0105 .failure 0xFFFF (le 4 w.named.length) (s.onCap fun c => { c with wait := none }).lds
        if t.place.stage = 2 then t.stageUp true else t)) ∧
    (∀ w : ReleaseWait, (s.cap.wait = some w ∧ w.named = []) → exec .releaseWaitExpiry s = .next (s.onCap fun c => { c with wait := none })) ∧
    ((s.place.divisor ≠ 0 ∧ s.free < s.place.lastFree ∧ s.place.divisor < 64) → exec .writeThrottleStep s = .next (s.setThrottle (min 64 (2 * s.place.divisor)))) ∧
    ((s.place.divisor ≠ 0 ∧ (s.place.lastFree ≤ s.free ∨ s.place.divisor = 64)) →
      exec .writeThrottleStep s = .next (s.onPlace fun p => { p with lastFree := s.free }))

/-- On a path that carries background commands, none running there, a served SANITIZE or SECURE_ERASE of a device none of whose
blocks has three walks pending answers Background Command Started, sanitizes the issuing logical device, and leaves Success
ready for its completion; with such a block it answers Busy. (R40, R88, R376, 01_host_view.md) -/
def Obligations.SanitizeAndErase : Prop :=
  ∀ (s : State) (p : Path), Path.backgrounds p = true → (s.arrives p).backgroundBusy (Path.carrier p) = false →
    (∀ op c, (op = 0x4400 ∧ c = Instr.sanitize p) ∨ (op = 0x4401 ∧ c = Instr.secureErase p) → s.serves p op →
      let a := (s.arrives p).startBackground p op
      ((∀ b ∈ a.blocksOf (a.issuing p), a.walksFull b = false) →
        Begins c p op s ((a.sanitizeLd (a.issuing p)).finishBackground (some p) op .success [])) ∧
      ((∃ b ∈ a.blocksOf (a.issuing p), a.walksFull b = true) → TurnedAway c p op s .busy))

/-- LD_RESET, CXL_RESET and FM_UNBIND_LD of a logical device that exists disable it, CXL_RESET with its memory-clear option as
asked and the other two without it. LD_DRAIN_COMPLETE of a device whose issued requests have all finished ends its drain and
raises event 0106h with the counts of requests discarded and finished and jobs stopped. (R42, R43, R44, 01_host_view.md) -/
def Obligations.DeviceResets : Prop :=
  ∀ (s : State) (ld : LdId),
    (s.ldExists ld = true → exec (.ldReset ld) s = .next (s.disableLd ld false) ∧ exec (.fmUnbindLd ld) s = .next (s.disableLd ld false) ∧
      ∀ clear, exec (.cxlReset ld clear) s = .next (s.disableLd ld clear)) ∧
    (∀ d : DrainState, ((s.ld ld.toNat).drain = some d ∧ s.ldIdle ld = true) → exec (.ldDrainComplete ld) s =
      .next ((s.onLd ld.toNat fun x => { x with drain := none }).raise 0x0106 .informational 0xFFFF
        (le 4 d.discarded ++ le 4 d.finished ++ le 2 d.jobs) [ld]))

/-- A served INJECT_POISON of a 64-byte aligned DPA in accepted capacity whose line is not yet listed, with fewer than 64
injected lines, lists that line as injected, drops it from the tile cache and sets poison present, leaving the stored data
alone; with 64 injected it is turned away. CLEAR_POISON of such an address in a course that is not thatched writes the 64
bytes as a write request of the sled under the context that R211 names and closes the tile's gather at once. GET_POISON_LIST
answers how many of the listed entries in the range it returns, at most 254. (R46, R48, R121, R211, 01_host_view.md,
notes/assumptions/29.md) -/
def Obligations.PoisonCommands : Prop :=
  ∀ (s : State) (p : Path) (dpa : BitVec 64) (c : Nat),
    let a := s.arrives p
    let l := a.issuing p
    ((s.serves p 0x4301 ∧ a.courseOf l dpa.toNat = some c ∧ dpa.toNat % 64 = 0 ∧ a.lineListed c (dpa.toNat / 256 % 16) (dpa.toNat / 64 % 4) = false ∧
        (a.ld l.toNat).injected < 64) → Performs (.injectPoison p dpa) p 0x4301 s
      ((((a.loadBatten c 0).enlist l.toNat { dpa := dpa.toNat, len := 1, injected := true }).invalidateLine
        (tileNumber c (dpa.toNat / 256 % 16)) (dpa.toNat / 64 % 4)).syncPoison c) []) ∧
    ((s.serves p 0x4301 ∧ a.courseOf l dpa.toNat = some c ∧ dpa.toNat % 64 = 0 ∧ a.lineListed c (dpa.toNat / 256 % 16) (dpa.toNat / 64 % 4) = false ∧
        64 ≤ (a.ld l.toNat).injected) → TurnedAway (.injectPoison p dpa) p 0x4301 s .poisonLimit) ∧
    (∀ data, (s.serves p 0x4302 ∧ a.courseOf l dpa.toNat = some c ∧ dpa.toNat % 64 = 0 ∧ ((a.loadBatten c 0).view c).tier ≠ .thatched) →
      let b := a.loadBatten c 0
      let ctx := b.clearContext p c
      Performs (.clearPoison p dpa data) p 0x4302 s
        (((b.onReg fun g => { g with nextId := g.nextId + 1 }).serve
          { id := b.reg.nextId, kind := .write, origin := .sled, ld := l, rid := BitVec.ofNat 16 ((b.sourceRid p).getD 0xFFFF), ctx,
            cls := (b.ctx ctx.toNat).cls, base := (b.ctx ctx.toNat).cls, dpa := dpa.toNat, line := dpa.toNat / 64 % 64, course := c, data,
            enables := BitVec.allOnes 64, arrived := b.clock }).closeGathers
          fun g => g.course == c && g.tile == dpa.toNat / 256 % 16) []) ∧
    (∀ length : BitVec 64, s.serves p 0x4300 → Answers (.getPoisonList p dpa length) p 0x4300 s fun a out =>
      fieldLe out 10 2 = min 254 ((a.ld (a.issuing p).toNat).poison.filter fun e => decide (e.dpa < dpa.toNat / 64 * 64 + 64 * length.toNat) &&
        decide (dpa.toNat / 64 * 64 < e.dpa + 64 * e.len)).length)

/-- Served GET_CAPACITY_STATUS answers the groups joined and withheld, the ratio, the usable, provisioned and accepted blocks,
the pressure stage; GET_DEFAULT_CONTEXT the context of a requestor that the path may name. On a privileged path
SET_OVERCOMMIT_RATIO from 100 to 240 stores the ratio, offers capacity, and where accepted capacity exceeds the provisioned
asks for the release of the excess (status 0001h); SET_RELEASE_WAIT from 100 to 60,000 ms and SET_GROWTH_DEVICE of a device
that exists store their setting. SET_DEFAULT_CONTEXT on any path that may name the requestor stores its context. (R29, R31,
R33, R36, R38, R371, R526, 01_host_view.md) -/
def Obligations.CapacityCommands : Prop :=
  ∀ (s : State) (p : Path),
    let a := s.arrives p
    (s.serves p 0xC040 → Answers (.getCapacityStatus p) p 0xC040 s fun a out =>
      Fields out 32 [(0, 2, 0), (2, 2, a.cap.joined.toNat), (4, 2, a.cap.withheld.toNat), (6, 2, a.cap.ratio), (8, 4, a.usableBlocks), (12, 4, a.provisioned),
        (16, 4, a.cap.total), (20, 4, a.acceptedBlocks), (24, 4, a.inUse / 2 ^ 22), (28, 1, a.place.stage),
        (29, 1, if a.host.gfam then 0 else a.cap.growth.toNat)]) ∧
    (∀ rid : BitVec 12, (s.serves p 0xC043 ∧ a.ownsRid p rid.toNat = true) → Answers (.getDefaultContext p rid) p 0xC043 s fun a out =>
      Fields out 4 [(0, 2, 0), (2, 2, (a.defaultCtx rid.toNat).toNat)]) ∧
    (∀ (rid : BitVec 12) (ctx : BitVec 13), (s.serves p 0xC042 ∧ a.ownsRid p rid.toNat = true) → Performs (.setDefaultContext p rid ctx) p 0xC042 s
      (a.onHost fun h => { h with defaultContext := Sparse.set 0 h.defaultContext rid.toNat ctx })
      (le 2 (if ((a.ctx ctx.toNat).gen (a.ctx ctx.toNat).cur).st = .loaded then 0 else 2))) ∧
    (Path.privileged p = true →
      (∀ ratio : BitVec 16, (s.serves p 0xC041 ∧ 100 ≤ ratio.toNat ∧ ratio.toNat ≤ 240) →
        let b := (a.onCap fun c => { c with ratio := ratio.toNat }).offerCapacity
        let excess := b.acceptedBlocks - b.provisioned
        let t := if 0 < excess then b.requestRelease ((b.releaseOrder.map (·.1)).take excess) else b
        Performs (.setOvercommitRatio p ratio) p 0xC041 s t (t.status (if 0 < excess then 1 else 0) true ++ zeros 2 ++ le 4 t.provisioned)) ∧
      (∀ ms : BitVec 32, (s.serves p 0xC044 ∧ 100 ≤ ms.toNat ∧ ms.toNat ≤ 60000) →
        Performs (.setReleaseWait p ms) p 0xC044 s (a.onCap fun c => { c with releaseWaitMs := ms.toNat }) (le 2 0)) ∧
      (∀ ld : LdId, (s.serves p 0xC045 ∧ a.host.gfam = false ∧ a.ldExists ld = true) →
        Performs (.setGrowthDevice p ld) p 0xC045 s (a.onCap fun c => { c with growth := ld }) ((a.onCap fun c => { c with growth := ld }).status 0 true)))

/-- One CLEARING_WALK_STEP of a walk on a block takes the course at its watermark: where that batten is stale it frees the
course's run and writes the batten absent, and a batten that carries the current epoch is left as it is; the watermark moves
on by one course and the walk counts the run it freed. At the last course of the block the walk ends: the value of walks
pending that it recorded is subtracted from the block's walks pending, and event 0206h is raised with the block and the runs
freed. With no walk under way, no rebuild, no drain and no discard, the step begins a walk of the lowest bound or ready block
with walks pending, recording their number. (R89) -/
def Obligations.ClearingWalks : Prop :=
  ∀ (s : State),
    (∀ w : Clearing, s.xlat.clearing = some w → w.w ≠ 0 →
      let c := w.block * blockCourses + w.w
      let r := s.clearStale c 11
      let n := w.freed + (if r.2 then 1 else 0)
      (w.w + 1 ≠ blockCourses → exec .clearingWalkStep s = .next (r.1.onXlat fun x => { x with clearing := some { w with w := w.w + 1, freed := n } })) ∧
      (w.w + 1 = blockCourses → exec .clearingWalkStep s = .next
        (let t := (r.1.onXlat fun x => { x with clearing := none }).onDir w.block fun e => { e with walks := e.walks - BitVec.ofNat 2 w.recorded }
         t.raise 0x0206 .informational 0xFFFF (le 2 w.block ++ le 4 n) (t.blockLogs w.block)))) ∧
    (∀ c source, let t := if (s.cachedBatten c).isSome ∨ c % 4 ≠ 0 then s else s.readTableSlot c source
      s.clearStale c source = if (t.batten c).stale (t.dirOf (c / blockCourses)) then (t.freeCourse c, true) else (t, false)) ∧
    (∀ b, s.xlat.clearing = none → s.xlat.rebuild = none → s.beginRebuild = s → (∀ w ∈ s.xlat.swaps, w.drain = none) → s.xlat.discards = [] → s.nextWalk = some b →
      exec .clearingWalkStep s = .next (s.walkStep { block := b, recorded := (s.dirOf b).walks.toNat }))

/-- With no clearing walk, no rebuild and no drain under way, one CLEARING_WALK_STEP of the first discard whose path has asked
for no abort and which has courses left discards its next course: that course becomes absent, and the discard counts it as
discarded where it held data and as already absent otherwise. A discard with an abort asked for ends Aborted with its counts.
(R89, R93, 02_battens_and_tiers.md) -/
def Obligations.DiscardWalks : Prop :=
  ∀ (s : State) (d : Discard) (rest : List Discard),
    (s.xlat.clearing = none ∧ s.xlat.rebuild = none ∧ s.beginRebuild = s ∧ (∀ w ∈ s.xlat.swaps, w.drain = none) ∧ s.xlat.discards = d :: rest) →
    exec .clearingWalkStep s = .next s.discardStep ∧
    (s.abortWanted d.path 0xC083 = true → ∃ e, e = d.skip (d.courses / blockCourses + 1) ∧ e.discarded = d.discarded ∧ e.already = d.already ∧
      s.discardStep = (s.onXlat fun x => { x with discards := x.discards.drop 1 }).finishBackground d.path 0xC083 .aborted
        (le 2 0 ++ le 2 d.whole ++ le 4 d.discarded ++ le 4 d.already))

/-- RUN_MOVE_START while the hub runs starts the move of a course's run and RUN_MOVE_COMMIT ends its copy. TABLE_REBUILD_STEP of
a rebuild under way copies the batten at its watermark, a stale one's run freed first, and counts it; at the last course the
rebuild ends. TABLE_FILL_STEP of a placed swap writes the next absent batten; at the last course a block still bound returns
to bound and the fill ends. DRAIN_WALK_STEP of a swap, no rebuild or clearing walk under way, frees what the next batten of
the old run names; before the last course it only moves on. PLACEMENT_RETRY retries table runs, fills and requests that wait
for a run; WATERMARK_STALL_END serves the lookups that stalled at a watermark. (R85, R90, R91, R92, R522,
02_battens_and_tiers.md) -/
def Obligations.TableWalks : Prop :=
  ∀ (s : State),
    (∀ course, s.hubRuns = true → exec (.runMoveStart course) s = .next (s.startMove course.toNat)) ∧
    (∀ course, exec (.runMoveCommit course) s = .next (s.endMove course.toNat)) ∧
    (∀ r : Rebuild, s.xlat.rebuild = some r →
      let x := s.clearStale (r.block * blockCourses + r.w) 11
      let r' : Rebuild := { r with w := r.w + 1, copied := r.copied + 1, freed := r.freed + (if x.2 then 1 else 0) }
      let t := (x.1.onXlat fun x => { x with rebuild := some r' }).progress r.path 0xC082 ((r.w + 1) * 100 / blockCourses)
      exec .tableRebuildStep s = .next (if r.w + 1 = blockCourses then t.endRebuild r' else t)) ∧
    (∀ (w : Swap) (k : Nat), (s.xlat.swaps.find? (fun w => w.placed && w.fill.isSome) = some w ∧ w.fill = some k) →
      (k + 1 < blockCourses → exec .tableFillStep s = .next (s.endSwap { w with fill := some (k + 1) })) ∧
      (k + 1 = blockCourses → w.bound = true → exec .tableFillStep s = .next ((s.onDir w.block fun e => { e with st := .bound }).endSwap { w with fill := none }))) ∧
    (∀ (w : Swap) (k : Nat), (s.xlat.swaps.find? (·.drain.isSome) = some w ∧ w.drain = some k ∧ s.xlat.rebuild = none ∧ s.xlat.clearing = none ∧ k ≠ 0 ∧
        k + 1 < blockCourses) →
      exec .drainWalkStep s = .next (match Sparse.find w.old (w.block * blockCourses + k) with
        | some b => (s.drainBatten w.old (w.block * blockCourses + k) b).endSwap { w with freed := w.freed + 1, drain := some (k + 1) }
        | none => s.endSwap { w with drain := some (k + 1) })) ∧
    (exec .watermarkStallEnd s = .next (s.retry fun w => w == .walk || w == .fill)) ∧
    ((s.xlat.swaps = [] ∧ s.xlat.clearing.isSome ∧ s.retryFills = s ∧ s.flash.pass = none) →
      exec .placementRetry s = .next ((s.retry fun w => w == .placement).retryGathers))

/-- Served GET_BATTEN of a course that its path may name answers the local course number, the block's directory entry and the
batten; GET_TRANSLATION_STATUS the blocks bound, the batten cache's hits and misses and the runs moved. On a privileged path
with no background command running REBUILD_BATTEN_BLOCK of an assigned block queues its rebuild, and DISCARD_COURSE_RANGE, on
a path that carries background commands, of a range in accepted capacity, no whole block of it with three walks pending,
makes its whole blocks absent and queues a walk over the rest. SET_COMPACTION_POLICY with every operand in range stores it.
(R59, R61, R88, R91, R93, R94, 02_battens_and_tiers.md) -/
def Obligations.TranslationCommands : Prop :=
  ∀ (s : State) (p : Path),
    let a := s.arrives p
    (∀ kind addr c, (s.serves p 0xC080 ∧ (a.namedCourse p kind.toNat addr.toNat).toOption = some c) → Answers (.getBatten p kind addr) p 0xC080 s fun a out =>
      Fields out 36 [(0, 2, 0), (4, 4, c), (8, 8, (a.dirOf (c / blockCourses)).toBits), (16, 16, (a.batten c).toBits)]) ∧
    (s.serves p 0xC081 → Answers (.getTranslationStatus p) p 0xC081 s fun a out =>
      Fields out 64 [(0, 2, 0), (4, 2, (a.xlat.dir.filter fun e => e.2.st == .bound).length), (8, 8, a.xlat.hits), (16, 8, a.xlat.misses),
        (24, 4, (a.xlat.cache.filter fun e => e.2.dirty).length), (40, 8, a.xlat.runsMoved), (48, 8, a.xlat.movesAbandoned), (56, 8, a.xlat.repacks)]) ∧
    (∀ block : BitVec 16, (s.serves p 0xC082 ∧ Path.privileged p = true ∧ Path.backgrounds p = true ∧ a.backgroundBusy (Path.carrier p) = false ∧
        block.toNat < (a.startBackground p 0xC082).blocks ∧ ((a.startBackground p 0xC082).dirOf block.toNat).st ≠ .unassigned) →
      Begins (.rebuildBattenBlock p block) p 0xC082 s
        ((a.startBackground p 0xC082).onXlat fun x => { x with rebuildsWaiting := x.rebuildsWaiting ++ [{ block := block.toNat, path := some p }] })) ∧
    (∀ (dpa : BitVec 64) (courses : BitVec 32),
      let b := a.startBackground p 0xC083
      let blocks := (wholeExts dpa.toNat courses.toNat).filterMap (b.blockAt (b.issuing p))
      let d : Discard := Discard.skip { path := some p, ld := b.issuing p, dpa := dpa.toNat, courses := courses.toNat, total := courses.toNat, whole := blocks.length }
        (courses.toNat / blockCourses + 1)
      (s.serves p 0xC083 ∧ Path.backgrounds p = true ∧ a.backgroundBusy (Path.carrier p) = false ∧ b.rangeOk (b.issuing p) dpa.toNat courses.toNat = true ∧
        blocks.any b.walksFull = false ∧ d.courses ≠ 0) →
      Begins (.discardCourseRange p dpa courses) p 0xC083 s
        ((foldState (fun s b => s.clearBlock b true) b blocks).onXlat fun x => { x with discards := x.discards ++ [d] })) ∧
    (∀ (low : BitVec 16) (victim share : BitVec 8), (s.serves p 0xC084 ∧ Path.privileged p = true ∧ 8 ≤ low.toNat ∧ low.toNat ≤ 1024 ∧ 10 ≤ victim.toNat ∧
        victim.toNat ≤ 90 ∧ 1 ≤ share.toNat ∧ share.toNat ≤ 50) → Performs (.setCompactionPolicy p low victim share) p 0xC084 s
      (a.onAlloc fun x => { x with lowMark := low.toNat, victim := victim.toNat, share := share.toNat }) (le 2 0))

/-- While the hub runs, PLACEMENT_SCAN_VISIT visits the next course of a bound block in ascending local course order and moves on
past it; past the last one it ends the lap, noting its length in milliseconds, and begins again at the lowest bound course. A
visit of a course that is not absent halves its heat, rounding down, before the placement rules are applied to the result; a
visit leaves an absent course as it is. While the hub does not run the scan stands still. (R152, R153) -/
def Obligations.PlacementScan : Prop :=
  ∀ (s : State),
    (s.hubRuns = false → exec .placementScanVisit s = .next s) ∧
    (∀ c, s.hubRuns = true → s.boundFrom s.place.scan = some c → exec .placementScanVisit s = .next ((s.visit c).onPlace fun p => { p with scan := c + 1 })) ∧
    (∀ c, s.hubRuns = true → s.boundFrom s.place.scan = none → s.boundFrom 0 = some c →
      exec .placementScanVisit s = .next (((s.onPlace fun p => { p with lapMs := msOf (s.clock - p.lapStart), lapStart := s.clock }).visit c).onPlace
        fun p => { p with scan := c + 1 })) ∧
    (∀ c d, s.boundFrom d = some c → (c = d ∧ (s.dirOf (d / blockCourses)).st = .bound) ∨
      (d < c ∧ ∃ e ∈ s.xlat.dir, e.2.st = .bound ∧ c = e.1 * blockCourses)) ∧
    (∀ c, let t := if (s.cachedBatten c).isSome then s else s.readTableSlot c 0
      ((t.view c).tier = .absent → s.visit c = t) ∧
      ((t.view c).tier ≠ .absent →
        let u := t.commitHeat c fun b => { b with heat := b.heat / 2 }
        s.visit c = match u.scanAction c (u.view c) with
          | .none => u
          | .queue k => u.onPlace fun p => { p with recodes := Sparse.insert p.recodes c k }
          | .addBundle => u.addBundle (c - 3)))

/-- With the strong code ready, the hub running and the controller below C2, THATCH_BUNDLE_TAKE lets its engine take the next
bundle of a job; THATCH_BUNDLE_COMMIT and PROMOTION_COMMIT end what their engine runs; THATCH_JOB_AUTO_RESUME runs a
controller job again that stopped for Watch (reason 5) once the sled is Active, or for want of stripe laths (reason 6) once a
stripe can be placed; RECODE while the hub runs re-codes its course; THRESHOLD_ADJUST while the hub runs adjusts the
thresholds, and in an activation pause notes that an adjustment is due. (R140, R141, R142, R147, R153, R154, R418, R514,
04_thatching_and_placement.md) -/
def Obligations.PlacementAndThatching : Prop :=
  ∀ (s : State),
    (∀ e : BitVec 2, (s.strongReady = true ∧ s.hubRuns = true ∧ s.therm.controller < 2) → exec (.thatchBundleTake e) s = .next (s.takeBundle e.toNat)) ∧
    (∀ e : BitVec 2, exec (.thatchBundleCommit e) s = .next (s.commitBundle e.toNat) ∧ exec (.promotionCommit e) s = .next (s.commitPromotion e.toNat)) ∧
    (∀ j : BitVec 10, ((s.job j.toNat).controller = true ∧ (s.job j.toNat).st = .stopped ∧
        (((s.job j.toNat).reason = 5 ∧ s.eaves.st = .active) ∨ ((s.job j.toNat).reason = 6 ∧ s.canStripe = true))) →
      exec (.thatchJobAutoResume j) s = .next (s.resumeJob j.toNat 0)) ∧
    (∀ c : BitVec 30, s.hubRuns = true → exec (.recode c) s = .next (s.recodeCourse c.toNat)) ∧
    ((s.hubRuns = true ∧ s.purlin.paused = false) → exec .thresholdAdjust s = .next s.adjustThresholds) ∧
    ((s.hubRuns = true ∧ s.purlin.paused = true) → exec .thresholdAdjust s = .next (s.onPlace fun p => { p with adjustDue := true }))

/-- One adjustment of the thresholds, O being the physical use: at pressure stage 1 or above the cold threshold rises by 4 up to
127 and the raw mark stands at 127; else with first touches above the target it falls by 1 and the raw mark falls by 4 to no
less than its minimum; else with O above the occupancy target it rises by 1 up to its maximum and the raw mark rises by 4 to
at most 127; else with O more than 5 points below the occupancy target it falls by 1 and the raw mark falls by 4 to no less
than its minimum; otherwise neither changes. (R154) -/
def Obligations.ThresholdRule : Prop :=
  ∀ (s : State) (ft : Nat),
    let p := s.place.policy
    let cold := s.place.cold
    let raw := s.place.rawMark
    (1 ≤ s.place.stage → s.adjusted ft = (min (cold + 4) 127, 127)) ∧
    (s.place.stage = 0 → p.ftTarget < ft → s.adjusted ft = (cold - 1, max (raw - 4) p.rawMin)) ∧
    (s.place.stage = 0 → ft ≤ p.ftTarget → p.occupancy * s.pressureCapacity < s.inUse * 100 → s.adjusted ft = (min (cold + 1) p.coldMax, min (raw + 4) 127)) ∧
    (s.place.stage = 0 → ft ≤ p.ftTarget → s.inUse * 100 ≤ p.occupancy * s.pressureCapacity → s.inUse * 100 < (p.occupancy - 5) * s.pressureCapacity →
      s.adjusted ft = (cold - 1, max (raw - 4) p.rawMin)) ∧
    (s.place.stage = 0 → ft ≤ p.ftTarget → s.inUse * 100 ≤ p.occupancy * s.pressureCapacity → (p.occupancy - 5) * s.pressureCapacity ≤ s.inUse * 100 →
      s.adjusted ft = (cold, raw))

/-- Served GET_PLACEMENT_STATUS answers stage, thresholds, first touches and job counts; GET_THATCHING_JOB of an entry that the
path may use the 64 bytes of its context. On a privileged path SET_PLACEMENT_POLICY within its ranges stores the policy,
clamps both thresholds to it, and re-applies the throttle where the ceiling changed under one; SET_CLASS_PLACEMENT stores
tier, pin and code of a class and answers the old ones. START_THATCHING_JOB of an accepted range with every operand in range
opens the lowest free entry from 256 on as a running job; RESUME_THATCHING_JOB of a stopped one with a budget that is a
multiple of 8 runs it on; STOP_THATCHING_JOB stops it and frees it where asked. WARM_COURSE_RANGE of an accepted range begins
and promotes its thatched bundles. (R144, R154, R155, R161, 04_thatching_and_placement.md) -/
def Obligations.PlacementCommands : Prop :=
  ∀ (s : State) (p : Path),
    let a := s.arrives p
    (s.serves p 0xC100 → Answers (.getPlacementStatus p) p 0xC100 s fun a out =>
      Fields out 72 [(0, 2, 0), (2, 1, a.place.stage), (3, 1, a.place.cold), (4, 1, a.place.rawMark), (5, 1, a.place.policy.tile), (6, 2, a.permille),
        (8, 4, a.place.lastTouches), (12, 4, a.free / 2 ^ 22), (16, 8, a.tierCount .raw), (24, 8, a.tierCount .tiled), (32, 8, a.tierCount .thatched),
        (40, 8, a.place.thatched), (48, 8, a.place.firstTouches), (56, 8, a.place.overCap),
        (64, 2, (a.place.jobs.filter fun j => j.2.st == .running || j.2.st == .paused).length),
        (66, 2, (a.place.jobs.filter fun j => j.2.st == .stopped).length), (68, 4, a.place.lapMs)]) ∧
    (∀ policy : PlacementPolicy, (s.serves p 0xC101 ∧ Path.privileged p = true ∧ PlacementPolicy.ok policy = true) →
      let b := a.onPlace fun y =>
        { y with
          policy := { occupancy := policy.occupancy.toNat, coldMax := policy.coldMax.toNat, rawMin := policy.rawMin.toNat, tile := policy.tile.toNat,
                      ftTarget := policy.ftTarget.toNat, scanRate := policy.scanRate.toNat, share := policy.share.toNat, cap := policy.cap.toNat,
                      ceiling := policy.ceiling.toNat }
          cold := min y.cold policy.coldMax.toNat
          rawMark := max y.rawMark policy.rawMin.toNat }
      Performs (.setPlacementPolicy p policy) p 0xC101 s
        (if a.place.divisor ≠ 0 ∧ a.place.policy.ceiling ≠ policy.ceiling.toNat then b.setThrottle a.place.divisor else b) (le 2 0)) ∧
    (∀ (cls tier pin : BitVec 8) (strong : Bool), (s.serves p 0xC102 ∧ Path.privileged p = true ∧ cls.toNat < 64 ∧ (tier = 1 ∨ tier = 2) ∧ pin.toNat ≤ 2) →
      let old := a.classPlace cls.toNat
      Performs (.setClassPlacement p cls tier pin strong) p 0xC102 s
        (a.onPlace fun x => { x with classes := Sparse.set {} x.classes cls.toNat { raw := tier.toNat == 1, pin := pin.toNat, strong } })
        (le 2 0 ++ le 1 (if old.raw then 1 else 2) ++ le 1 old.pin ++ le 1 (if old.strong then 1 else 0) ++ zeros 3)) ∧
    (∀ (heat cap : BitVec 8) (budget bundles : BitVec 32) (start : BitVec 64) (i : Nat), (s.serves p 0xC103 ∧ heat.toNat ≤ 127 ∧
        (cap = 0 ∨ (25 ≤ cap.toNat ∧ cap.toNat ≤ 95)) ∧ budget.toNat ≠ 0 ∧ budget.toNat % 8 = 0 ∧ start.toNat % 16384 = 0 ∧
        a.rangeOk (a.issuing p) start.toNat (4 * bundles.toNat) = true ∧
        (List.range 768).find? (fun i => (Sparse.find a.place.jobs (256 + i)).isNone) = some i) →
      ∃ job : Job, Performs (.startThatchingJob p 0 heat cap budget start bundles) p 0xC103 s (a.onJob (256 + i) fun _ => job) (le 2 0 ++ le 2 (256 + i)) ∧
        job.st = .running ∧ job.next = a.courseAt (a.issuing p) start.toNat ∧ job.owner = some (a.issuing p) ∧ job.bundlesLeft = bundles.toNat ∧
        job.heat = heat.toNat ∧ job.budget = budget.toNat ∧ job.cap = (if cap = 0 then a.place.policy.cap else cap.toNat)) ∧
    (∀ j : BitVec 16, (s.serves p 0xC104 ∧ a.ownJob p j.toNat = true) → Answers (.getThatchingJob p j) p 0xC104 s fun a out =>
      out = le 2 0 ++ zeros 2 ++ ((Sparse.find a.place.jobs j.toNat).getD { cap := 0 }).context j.toNat) ∧
    (∀ (j : BitVec 16) (add : BitVec 32), (s.serves p 0xC105 ∧ a.ownJob p j.toNat = true ∧ (a.job j.toNat).st = .stopped ∧ add.toNat % 8 = 0) →
      Performs (.resumeThatchingJob p j add) p 0xC105 s (a.resumeJob j.toNat add.toNat)
        (le 2 (if (a.job j.toNat).historyValid ∧ (a.job j.toNat).dirty then 1 else 0) ++ zeros 2 ++ le 4 ((a.resumeJob j.toNat add.toNat).job j.toNat).budget)) ∧
    (∀ j : BitVec 16, (s.serves p 0xC106 ∧ a.ownJob p j.toNat = true ∧ (a.job j.toNat).st = .running) →
      Performs (.stopThatchingJob p j false) p 0xC106 s (a.stopJob j.toNat 3) (le 2 0) ∧
      Performs (.stopThatchingJob p j true) p 0xC106 s ((a.stopJob j.toNat 3).onPlace fun y => { y with jobs := Sparse.erase y.jobs j.toNat }) (le 2 0)) ∧
    (∀ (dpa : BitVec 64) (courses : BitVec 32),
      let b := a.startBackground p 0xC107
      (s.serves p 0xC107 ∧ Path.backgrounds p = true ∧ a.backgroundBusy (Path.carrier p) = false ∧ b.rangeOk (b.issuing p) dpa.toNat courses.toNat = true ∧
        b.thatchedIn (b.issuing p) dpa.toNat courses.toNat = []) →
      Begins (.warmCourseRange p dpa courses) p 0xC107 s (b.finishBackground (some p) 0xC107 .success (le 2 0 ++ zeros 2 ++ le 4 0 ++ le 4 0)))

/-- GATHER_WINDOW_EXPIRY and GATHER_CLOSE close their gather buffer. Served GET_TILE_CODING_STATUS answers the tile engine's
counters; SET_WRITE_GATHER and SET_PHIOZ_CONVERSION on a privileged path store the window and a context's conversion;
SET_PHIOZ_RANGE with action 0 clears an entry of the issuing device and with action 1 sets it to an accepted range that meets
no other entry, answering how many of its courses are claimed already; GET_PHIOZ_RANGE answers an entry; GET_TILE_FORM
answers the size, form and poison of a tile: 0 in an absent course, form 2 in a raw one, form 7 in a thatched one. (R114,
R115, R126, R127, R371, 03_tile_coding.md) -/
def Obligations.TileCodingCommands : Prop :=
  ∀ (s : State) (p : Path),
    let a := s.arrives p
    (∀ b : BitVec 6, exec (.gatherWindowExpiry b) s = .next (s.closeGather b.toNat) ∧ exec (.gatherClose b) s = .next (s.closeGather b.toNat)) ∧
    (s.serves p 0xC0C0 → Answers (.getTileCodingStatus p) p 0xC0C0 s fun a out =>
      ∀ f ∈ [(0, 2, 0), (4, 8, a.tile.encoded), (12, 8, a.tile.decoded), (20, 8, a.tile.over192), (28, 8, a.tile.whole), (36, 8, a.tile.partials),
        (44, 8, a.tile.merged), (52, 8, a.tile.mismatches), (60, 8, a.tile.faults), (68, 8, a.tile.poisonedPartials), (76, 4, a.tile.overflowRuns),
        (80, 8, a.tile.converted)], fieldLe out f.1 f.2.1 = f.2.2 % 256 ^ f.2.1) ∧
    (∀ w : BitVec 8, (s.serves p 0xC0C1 ∧ Path.privileged p = true) →
      Performs (.setWriteGather p w) p 0xC0C1 s (a.onTile fun t => { t with window := w.toNat }) (le 2 0)) ∧
    (∀ (e : BitVec 8) (dpa : BitVec 64) (n : BitVec 32), (s.serves p 0xC0C2 ∧ e.toNat < 8) → Performs (.setPhiozRange p e 0 dpa n) p 0xC0C2 s
      (a.onTile fun t => { t with ranges := Sparse.set {} t.ranges ((a.issuing p).toNat * 8 + e.toNat) {} }) (le 2 0 ++ zeros 2 ++ le 4 0)) ∧
    (∀ (e : BitVec 8) (dpa : BitVec 64) (n : BitVec 32), (s.serves p 0xC0C2 ∧ e.toNat < 8 ∧ a.rangeOk (a.issuing p) dpa.toNat n.toNat = true ∧
        (∀ i < 8, i ≠ e.toNat → (a.phiozRange (a.issuing p) i).overlaps dpa.toNat n.toNat = false)) →
      let claimed := a.claimedIn (a.issuing p) dpa.toNat n.toNat
      Performs (.setPhiozRange p e 1 dpa n) p 0xC0C2 s
        (a.onTile fun t => { t with ranges := Sparse.set {} t.ranges ((a.issuing p).toNat * 8 + e.toNat) { dpa := dpa.toNat, courses := n.toNat } })
        (le 2 (if 0 < claimed then 1 else 0) ++ zeros 2 ++ le 4 claimed)) ∧
    (∀ e : BitVec 8, (s.serves p 0xC0C3 ∧ e.toNat < 8) → Answers (.getPhiozRange p e) p 0xC0C3 s fun a out =>
      let r := a.phiozRange (a.issuing p) e.toNat
      Fields out 20 [(0, 2, 0), (2, 1, if 0 < r.courses then 1 else 0), (8, 8, r.dpa), (16, 4, r.courses)]) ∧
    (∀ (ctx : BitVec 13) (allow : BitVec 8), (s.serves p 0xC0C4 ∧ Path.privileged p = true ∧ allow.toNat < 2) → Performs (.setPhiozConversion p ctx allow) p 0xC0C4 s
      (a.onCtx ctx.toNat fun c => { c with phiozConv := allow.toNat == 1 }) (a.status 0 true)) ∧
    (∀ (tile : BitVec 8) (addr : BitVec 64) (c : Nat) (tier : Tier) (form : Nat), (s.serves p 0xC0C5 ∧
        (a.namedCourse p 0 addr.toNat).toOption = some c ∧ (a.view c).tier = tier ∧ (tier, form) ∈ [(Tier.absent, 0), (Tier.raw, 2), (Tier.thatched, 7)]) →
      let t := addr.toNat / 256 % 16
      Performs (.getTileForm p 0 tile addr) p 0xC0C5 s a
        (le 2 0 ++ le 1 (if tier = .absent then 0 else (a.view c).size t) ++ le 1 form ++ le 1 0 ++ le 1 0 ++ le 1 (a.tileListed c t) ++ zeros 1))

/-- Served GET_TILE_CACHE_STATUS answers enable and the counters of hits, rescues, misses, joins, installs, stale and not
installed fills, updates, invalidations and drops; INVALIDATE_TILE_CACHE_RANGE by kind 2 on a privileged path invalidates
every tile and by kind 0 those of the issuing device's courses in an accepted range, answering tiles invalidated and fills
marked stale; SET_TILE_CACHE_POLICY on a privileged path stores enable and no-fill mask, and disabling invalidates every
entry; GET_TILE_CACHE_SET there answers replacement field, fences and tag entries of a set below 6,144. (R166, R181, R190,
05_tile_cache.md) -/
def Obligations.TileCacheCommands : Prop :=
  ∀ (s : State) (p : Path),
    let a := s.arrives p
    (s.serves p 0xC140 → Answers (.getTileCacheStatus p) p 0xC140 s fun a out =>
      Fields out 96 [(0, 2, 0), (2, 1, if a.cache.enable then 1 else 0), (4, 4, a.fencedWays), (8, 8, a.cache.hits), (16, 8, a.cache.rescues),
        (24, 8, a.cache.sectorMisses), (32, 8, a.cache.tagMisses), (40, 8, a.cache.joins), (48, 8, a.cache.installed), (56, 8, a.cache.staleFills),
        (64, 8, a.cache.noWay), (72, 8, a.cache.updates), (80, 8, a.cache.invalidated), (88, 8, a.cache.dropped)]) ∧
    (∀ (start : BitVec 64) (n : BitVec 32), (s.serves p 0xC141 ∧ Path.privileged p = true) →
      let r := a.invalidateWhere fun _ => true
      Performs (.invalidateTileCacheRange p 2 start n) p 0xC141 s r.1 (le 2 0 ++ zeros 2 ++ le 4 r.2.1 ++ le 4 r.2.2)) ∧
    (∀ (start : BitVec 64) (n : BitVec 32), (s.serves p 0xC141 ∧ a.rangeOk (a.issuing p) start.toNat n.toNat = true) →
      let r := a.invalidateWhere (a.servesRange (a.issuing p) (start.toNat / 4096) n.toNat)
      Performs (.invalidateTileCacheRange p 0 start n) p 0xC141 s r.1 (le 2 0 ++ zeros 2 ++ le 4 r.2.1 ++ le 4 r.2.2)) ∧
    (∀ m : BitVec 64, (s.serves p 0xC142 ∧ Path.privileged p = true) →
      Performs (.setTileCachePolicy p true m) p 0xC142 s (a.onCache fun c => { c with enable := true, noFill := m }) (a.status 0 true) ∧
      (let t := ((a.onCache fun c => { c with enable := false, noFill := m }).invalidateWhere fun _ => true).1
       Performs (.setTileCachePolicy p false m) p 0xC142 s t (t.status 0 true))) ∧
    (∀ set : BitVec 16, (s.serves p 0xC143 ∧ Path.privileged p = true ∧ set.toNat < 6144) → Answers (.getTileCacheSet p set) p 0xC143 s fun a out =>
      out = le 2 0 ++ le 2 (Sparse.get 0 a.cache.trees set.toNat).toNat ++ le 2 (Sparse.get 0 a.cache.fences set.toNat).toNat ++ zeros 2 ++
        (setWays set.toNat).flatMap fun k => le 4 (a.way k).toBits)

/-- While the region test runs, REGION_TEST_INTERVAL that meets a failing cell ends the test of its region, stops the engine
there with the region on the shadow bank, and raises event 1003h with bank, region and word; one that finishes the region
counts it and goes on to the next in bank order and then region order; one that does not leaves the region in test. While it
does not run the interval changes nothing. REGION_TEST_ABANDON leaves the region. Served GET_ONCHIP_MEMORY_STATUS answers
enable, the held bank and region, and the counts; SET_MEMORY_TEST_POLICY on a privileged path with an interval from 10 to
10,000,000 µs stores it. (R461, R462, R465, 16_on_chip_memory.md) -/
def Obligations.OnchipMemoryTest : Prop :=
  ∀ (s : State) (p : Path),
    let a := s.arrives p
    (s.regionTests = false → ∀ w f, exec (.regionTestInterval w f) s = .next s) ∧
    (s.regionTests = true →
      let t := s.onSram fun m => if m.bank = 0 ∧ m.region = 0 ∧ !m.inTest then { m with lapStart := s.clock } else m
      (∀ w f, exec (.regionTestInterval (some w) f) s = .next ((t.onSram fun m => { m with inTest := false, stopped := some (t.sram.bank, t.sram.region) }).raiseAll
        0x1003 .failure (le 2 t.sram.bank ++ le 1 t.sram.region ++ le 2 w.toNat))) ∧
      (exec (.regionTestInterval none true) s =
        .next (t.onSram fun m => ({ m with inTest := false, done := m.done + 1 } : OnChip).nextRegion t.clock)) ∧
      (exec (.regionTestInterval none false) s = .next (t.onSram fun m => { m with inTest := true }))) ∧
    (exec .regionTestAbandon s = .next s.leaveRegion) ∧
    (s.serves p 0xC400 → Answers (.getOnchipMemoryStatus p) p 0xC400 s fun a out =>
      ∀ f ∈ [(0, 2, 0), (2, 1, (if a.sram.enable then 1 else 0) + (if a.sram.stopped.isSome then 2 else 0)),
        (4, 2, match a.sram.stopped with | some x => x.1 | none => 0xFFFF), (8, 4, a.sram.lastLap), (12, 8, a.sram.done), (20, 8, a.sram.skipped),
        (36, 8, a.sram.uncorrectable)], fieldLe out f.1 f.2.1 = f.2.2 % 256 ^ f.2.1) ∧
    (∀ enable us, (s.serves p 0xC401 ∧ Path.privileged p = true ∧ 10 ≤ us.toNat ∧ us.toNat ≤ 10000000) →
      Performs (.setMemoryTestPolicy p enable us) p 0xC401 s (a.onSram fun m => { m with enable, intervalUs := us.toNat }) (a.status 0 true))

/-- An MMIO access by a port that serves it, in a sled that is not leaving Watch: DOORBELL_URGENCY_WRITE and
DOORBELL_URGENCY_HOLD_WRITE write the urgency and the hold of a doorbell page as its source may; GROUP_CHG_CLEAR and
PRESSURE_CHG_CLEAR clear the change bit of the source's logical device; REGISTER_WRITE writes the register at its offset;
GATED_BLOCK_MMIO ungates the block of its offset and completes the write, or the read with its value. URGENCY_HOLD_EXPIRY of
a page with a hold other than 0 returns its urgency to 0. An access by a port that does not serve it changes nothing. (R50,
R51, R52, R53, R304, R423, R433, 01_host_view.md) -/
def Obligations.RegisterAccesses : Prop :=
  ∀ (s : State) (m : MmioSrc),
    ((s.eaves.exiting = false ∧ s.mmioServes m.port = true) →
      (∀ page v, exec (.doorbellUrgencyWrite m page v) s = .next (s.writeUrgency m page.toNat v.toNat)) ∧
      (∀ page v, exec (.doorbellUrgencyHoldWrite m page v) s = .next (s.writeHold m page.toNat v.toNat)) ∧
      (exec (.groupChgClear m) s = .next (s.clearGroupChg (s.srcLd m))) ∧ (exec (.pressureChgClear m) s = .next (s.clearPressureChg (s.srcLd m))) ∧
      (∀ offset v, exec (.registerWrite m offset v) s = .next (s.barWrite m offset.toNat v.toNat)) ∧
      (∀ offset v, let t := s.onEaves fun e => { e with gated := e.gated.filter fun id => id != blockOfOffset m offset.toNat }
        exec (.gatedBlockMmio m offset (some v)) s = .next (t.barWrite m offset.toNat v.toNat) ∧
        exec (.gatedBlockMmio m offset none) s = .next (t.emit (.mmio m.port (t.barRead m offset.toNat))))) ∧
    ((s.eaves.exiting = false ∧ s.mmioServes m.port = false) → ∀ offset v, exec (.registerWrite m offset v) s = .next s) ∧
    (∀ page : BitVec 12, (s.doorbell page.toNat).hold ≠ 0 → exec (.urgencyHoldExpiry page) s =
      .next (s.onReg fun r => { r with doorbells := Sparse.modify {} r.doorbells page.toNat fun d => { d with urgency := 0 } }))

/-- While the hub runs, BANDWIDTH_WINDOW_END moves every port's window into its last, peak and total fields and counts the
window. On a privileged path SET_GENERAL_COUNTER of counters 0 to 63 with a defined event and a qualifier in range starts the
counter from 0 and answers its old value; CLEAR_COUNTERS clears the groups asked for; SET_BANDWIDTH_WINDOW from 1 to
1,000,000 µs stores the window and discards the one in progress; SET_TRACE_POLICY stores kinds, sampling and filters;
SET_COUNTER_ACCESS stores the access bits of one requestor, or of all. READ_COUNTER_AREA on a privileged path answers the
bytes of a page without regard to the access bits. (R470, R471, R472, R473, R478, R480, R481, 17_counters_and_trace.md) -/
def Obligations.CountersAndTrace : Prop :=
  ∀ (s : State) (p : Path),
    let a := s.arrives p
    (s.hubRuns = true → exec .bandwidthWindowEnd s =
      .next (s.onCtr fun c => { c with ports := Sparse.update {} c.ports fun _ b => b.endWindow, seq := c.seq + 1 })) ∧
    (Path.privileged p = true →
      (∀ counter enable level event qualifier, (s.serves p 0xC440 ∧ counter.toNat ≤ 63 ∧ event.toNat ≤ 0x1C ∧ qualifierOk event.toNat qualifier.toNat = true) →
        Performs (.setGeneralCounter p counter enable level event qualifier) p 0xC440 s
          (let g : GeneralCounter := { enable, level, event, qualifier, was := a.condition event.toNat qualifier.toNat }
           a.onCtr fun c => { c with general := Sparse.set {} c.general counter.toNat g })
          (le 2 0 ++ zeros 2 ++ le 8 (Sparse.get {} a.ctr.general counter.toNat).value.toNat)) ∧
      (s.serves p 0xC441 → Performs (.clearCounters p 0x02) p 0xC441 s
        ((a.onCtr fun c => { c with ports := Sparse.update {} c.ports fun _ b => { b with inPeak := 0, outPeak := 0, inTotal := 0, outTotal := 0 } }).onReg id)
        (le 2 0)) ∧
      (∀ us : BitVec 32, (s.serves p 0xC442 ∧ us ≠ 0 ∧ us.toNat ≤ 1000000) → Performs (.setBandwidthWindow p us) p 0xC442 s
        (a.onCtr fun c => { c with window := us.toNat, ports := Sparse.update {} c.ports fun _ b => { b with inNow := 0, outNow := 0 } }) (le 2 0)) ∧
      (∀ kinds sample rid cls, (s.serves p 0xC443 ∧ sample.toNat ≤ 15 ∧ (cls.toNat ≤ 63 ∨ cls = 0xFF)) →
        let t := a.onCtr fun c => { c with kinds := kinds.setWidth 4, sample := sample.setWidth 4, filterRid := rid, filterClass := cls }
        Performs (.setTracePolicy p kinds sample rid cls) p 0xC443 s t (t.status 0 true)) ∧
      (∀ (rid : BitVec 16) counter trace, (s.serves p 0xC444 ∧ rid.toNat ≤ 0xFFF) →
        let t := a.onCtr fun c => { c with access := Sparse.set 0 c.access rid.toNat (BitVec.ofNat 2 ((if counter then 1 else 0) + (if trace then 2 else 0))) }
        Performs (.setCounterAccess p rid counter trace) p 0xC444 s t (t.status 0 true)) ∧
      (∀ (page offset length : BitVec 16), (s.serves p 0xC445 ∧ a.sourceRid p = none ∧ page.toNat ≤ 239 ∧ offset.toNat % 8 = 0 ∧ length.toNat % 8 = 0 ∧ 8 ≤ length.toNat ∧
          length.toNat ≤ 2048 ∧ offset.toNat + length.toNat ≤ 4096) → Answers (.readCounterArea p 0 page offset length) p 0xC445 s fun a out =>
        out = le 2 0 ++ zeros 6 ++ a.counterBytes none false page.toNat offset.toNat length.toNat))

/-- With the sled Active and firmware running SENSOR_POLL reads the sensors. THERMAL_SHUTDOWN of a sensor at its mark with the
switch on opens the switch, starts the cool-down, latches the power where the last shutdown was less than 10 minutes before,
and enters Off-aux; THERMAL_COOLDOWN_END ends the cool-down and lets the insertion delay start. Served GET_THERMAL_STATUS
answers the controller stage; GET_CONNECTOR_STATUS the straps in force and read; SET_LOCATE_INDICATOR 0 to 2 on a privileged
path sets it, and LOCATE_TIMEOUT puts a timed one off. WAKE_HOLD_TIMEOUT releases WAKE#. ALERT_RESPONSE_ADDRESS in SMBus mode
with ALERT# asserted releases it and answers with the sled's address. STRAP_POLL outside Active notes the straps read.
I3C_SETDASA and I3C_ENTDAA give a listening target its dynamic address. (R425, R485, R493, R494, R495, R497, R514, R515,
18_sled_and_connector.md, 19_electrical_and_thermal_limits.md) -/
def Obligations.ThermalAndConnector : Prop :=
  ∀ (s : State) (p : Path),
    let a := s.arrives p
    (∀ g c, (s.eaves.st = .active ∧ s.firmwareRuns = true) → exec (.sensorPoll g c) s = .next (s.readSensors g c)) ∧
    (∀ (sensor : BitVec 8) (reading : BitVec 16), (s.power.sw = .on ∧ sensor.toNat ≤ 18 ∧ shutdownMark sensor.toNat ≤ reading.toInt) →
      ∃ again : Bool, (again = true ↔ ∃ t, s.therm.lastShutdown = some t ∧ s.clock < t + 600 * 1600000000) ∧
        exec (.thermalShutdown sensor reading) s = .next (((((s.onTherm fun t =>
          { t with shutdowns := min (t.shutdowns + 1) 0xFFFFFFFF, lastShutdown := some s.clock, coolDown := true,
                   pendingEvent := t.pendingEvent ++ [(sensor.toNat, reading.toNat, again)] }).setFold false).onPower
          fun p => { p with latched := p.latched || again }).openSwitch).enterOffAux)) ∧
    (exec .thermalCooldownEnd s = .next (s.onTherm fun t => { t with coolDown := false }).tryDelay) ∧
    (s.serves p 0xC4C0 → Answers (.getThermalStatus p) p 0xC4C0 s fun a out => fieldLe out 0 2 = 0 ∧ fieldLe out 2 1 = a.therm.controller % 256) ∧
    (s.serves p 0xC480 → Answers (.getConnectorStatus p) p 0xC480 s fun a out =>
      ∀ f ∈ [(0, 2, 0), (2, 1, strapByte a.conn.inForce), (4, 2, a.conn.inForce.id.toNat), (6, 1, strapByte a.conn.now), (8, 2, a.conn.now.id.toNat)],
        fieldLe out f.1 f.2.1 = f.2.2 % 256 ^ f.2.1) ∧
    (Path.privileged p = true → s.serves p 0xC481 → Performs (.setLocateIndicator p 0) p 0xC481 s (a.onConn fun c => { c with locate := .off }) (le 2 0) ∧
      Performs (.setLocateIndicator p 1) p 0xC481 s (a.onConn fun c => { c with locate := .on }) (le 2 0) ∧
      Performs (.setLocateIndicator p 2) p 0xC481 s (a.onConn fun c => { c with locate := .timed }) (le 2 0)) ∧
    (s.conn.locate = .timed → exec .locateTimeout s = .next (s.onConn fun c => { c with locate := .off })) ∧
    (exec .wakeHoldTimeout s = .next (s.onConn fun c => { c with wake0 := false, wake1 := false })) ∧
    ((s.conn.alert = true ∧ s.conn.inForce.sbmode = false) → exec .alertResponseAddress s =
      .next ((s.onConn fun c => { c with alert := false }).emit (.alertAddress (s.ownAddress.getD 0)))) ∧
    (∀ read, s.eaves.st ≠ .active → exec (.strapPoll read) s = .next (s.onConn fun c => { c with now := read })) ∧
    (∀ address, s.takesAddress = true → exec (.i3cSetdasa address) s = .next (s.onConn fun c => { c with dynamic := some address }) ∧
      (s.conn.dynamic = none → exec (.i3cEntdaa address) s = .next (s.onConn fun c => { c with dynamic := some address })))

/-- AUX_POWER_UP and PRSNT_ASSERT on an input that was absent note it, start the eaves domain where it does not run, raise 0F05h
where a removal is ended, and start the insertion delay where R440 holds; PRSNT_DEASSERT and AUX_EXCURSION of a present input
are a removal; MAIN_EXCURSION opens the switch without a trip, enters Off-aux and raises 0F03h; MAIN_IN_WINDOW starts the
delay again; HOLDUP_END after a removal keeps the inputs and the settings of the log store alone, with trip count and latch
0. INSERTION_DELAY_END starts the ramp where every condition holds and else stops the delay, RAMP_POWER_GOOD starts the
regulators, and RAILS_GOOD turns the switch on, puts the sled in Active and the bring-up at its step. (R393, R411, R439,
R440, R441, R449, R450, 15_power_path.md) -/
def Obligations.PowerPathInputs : Prop :=
  ∀ s : State,
    (s.power.auxIn = false → let t := s.onPower fun p => { p with auxIn := true }
      exec .auxPowerUp s = .next (if s.eaves.retention then t else t.startEaves).reinserted.insertion) ∧
    (s.power.present = false → ∃ t, exec .prsntAssert s = .next t ∧ t.power.present = true ∧
      t.conn.inForce.sbmode = s.conn.now.sbmode ∧ t.conn.inForce.sa = s.conn.now.sa) ∧
    (s.power.present = true → exec .prsntDeassert s = .next (s.onPower fun p => { p with present := false }).remove) ∧
    (s.power.auxIn = true → exec .auxExcursion s = .next (s.onPower fun p => { p with auxIn := false }).remove) ∧
    (∀ excess mv, s.power.mainIn = true → ∃ t, exec (.mainExcursion excess mv) s = .next t ∧ t.power.mainIn = false ∧
      t.power.sw = (if s.power.latched then .latched else .off) ∧ t.power.count = s.power.count ∧ t.power.trips = s.power.trips ∧ t.eaves.st = .offAux) ∧
    (s.power.mainIn = false → exec .mainInWindow s = .next (s.onPower fun p => { p with mainIn := true }).insertion) ∧
    (s.power.removedAt ≠ none → ∃ t, exec .holdupEnd s = .next t ∧ t.power.count = 0 ∧ t.power.latched = false ∧ t.power.records = [] ∧
      t.power.present = s.power.present ∧ t.power.mainIn = s.power.mainIn ∧ t.power.auxIn = s.power.auxIn ∧ t.eaves.retention = false ∧
      (t.power.limit, t.power.retry, t.power.soa, t.power.delay) = s.stored.power ∧ t.eaves.savedSeconds = s.seconds) ∧
    (s.power.sw = .delay → exec .insertionDelayEnd s = .next (s.onPower fun p => { p with sw := if s.mayStart then .ramp else .off })) ∧
    (s.power.sw = .ramp → exec .rampPowerGood s = .next (s.onPower fun p => { p with sw := .rails })) ∧
    (∀ ok, s.power.sw = .rails → ∃ t, exec (.railsGood ok) s = .next t ∧ t.power.sw = .on ∧ t.power.railsGoodAt = some s.clock ∧ t.eaves.st = .active ∧
      t.boot.step = (if ok then .sramTested else .hubReleased) ∧ t.conn.inForce.id = s.conn.now.id)

/-- RAMP_TIMEOUT in the ramp, RAILS_TIMEOUT between power good and rails good, REGULATOR_FAULT while on, SOA_TIMER_EXPIRY in
fold-back and FAST_TRIP with the switch closed are trips with causes 3, 4, 4, 1 and 2: the sled is in Off-aux, the trip count
has risen by one (to 255 at most: the model's choice), the trip is recorded first among 16, and the switch is latched exactly
where the count exceeds the retry limit, and waits for a retry where it does not. TRIP_RETRY of an unlatched sled whose
conditions hold ramps again with event 0F02h; TRIP_COUNT_RESET while on sets the count to 0; FOLDBACK_ENTRY of a closed
switch and FOLDBACK_EXIT set and clear fold-back, the timer's value moving to what it stands at. (R443, R444, R445, R446,
15_power_path.md) -/
def Obligations.TripsAndLatch : Prop :=
  ∀ s : State,
    let Tripped (c : TripSense → Instr) (cause : Nat) : Prop := ∀ sense, ∃ t, exec (c sense) s = .next t ∧
      t.eaves.st = .offAux ∧ t.power.count = min (s.power.count + 1) 255 ∧ t.power.lastCause = cause ∧ t.power.tripWait = true ∧ t.power.foldback = false ∧
      t.power.latched = decide (s.power.retry < t.power.count) ∧ t.power.sw = (if s.power.retry < t.power.count then .latched else .retryWait) ∧
      t.power.records.length ≤ 16 ∧ t.power.records.tail = s.power.records.take 15 ∧ ∃ r, t.power.records.head? = some r ∧
      (r.seconds, r.cause, r.phase, r.count, r.latched) = (s.seconds, cause, if s.power.sw = .ramp then 1 else 2, t.power.count, t.power.latched) ∧
      (r.mainMv, r.busMv, r.peakMa) = (sense.mainMv.toNat, sense.busMv.toNat, sense.peakMa.toNat)
    (s.power.sw = .ramp → Tripped .rampTimeout 3) ∧ (s.power.sw = .rails → Tripped .railsTimeout 4) ∧ (s.power.sw = .on → Tripped .regulatorFault 4) ∧
    ((s.power.sw.closed = true ∧ s.power.foldback = true) → Tripped .soaTimerExpiry 1) ∧ (s.power.sw.closed = true → Tripped .fastTrip 2) ∧
    ((s.power.tripWait = true ∧ s.power.sw = .retryWait ∧ (s.onPower fun p => { p with tripWait := false }).mayStart = true) →
      exec .tripRetry s = .next ((s.onPower fun p => { p with tripWait := false, sw := .ramp }).raisePower 0x0F02 .warning (le 1 s.power.count ++ le 1 s.power.retry))) ∧
    (s.power.sw = .on → exec .tripCountReset s = .next (s.onPower fun p => { p with count := 0 })) ∧
    ((s.power.sw.closed = true ∧ s.power.foldback = false) → exec .foldbackEntry s =
      .next (s.onPower fun p => { p with soa8 := s.power.soaAt s.clock, foldSince := s.clock, foldback := true })) ∧
    (s.power.foldback = true → exec .foldbackExit s =
      .next (s.onPower fun p => { p with soa8 := s.power.soaAt s.clock, foldSince := s.clock, foldback := false }))

/-- POWER_CONVERSION in Active takes the readings over 100 µs, and in Off-aux with retention held over 100 ms with a main current
of zero. Where the command is accepted (in Off-aux too) C3C0h answers the switch, the count and the cause; C3C1h on a
privileged path with every setting in its range stores the four settings, keeping the timer's value; C3C2h on a privileged
path clears a latch and the count with event 0F06h, and answers status 1 with no effect where no latch is set; C3C3h answers
the readings and resets what it is asked to; C3C4h answers the records, newest first. (R447, R448, R451, R452, R453,
15_power_path.md) -/
def Obligations.PowerPathCommands : Prop :=
  ∀ (s : State) (p : Path),
    let a := s.arrives p
    (∀ c : Conversion, (s.eaves.st = .active → exec (.powerConversion c) s =
        .next (s.convert c.mainMv.toNat c.mainMa.toNat c.auxMv.toNat c.aux100uA.toNat 100 true)) ∧
      ((s.eaves.st = .offAux ∧ s.eaves.retention = true) → exec (.powerConversion c) s =
        .next (s.convert c.mainMv.toNat 0 c.auxMv.toNat c.aux100uA.toNat 100000 false))) ∧
    (s.service p 0xC3C0 true = .serve → Answers (.getPowerPathStatus p) p 0xC3C0 s fun a out => fieldLe out 0 2 = 0 ∧
      fieldLe out 2 1 = a.power.sw.code % 256 ∧ fieldLe out 3 1 = a.power.count % 256 ∧ fieldLe out 5 1 = a.power.lastCause % 256) ∧
    (∀ (limit retry : BitVec 8) (soa delay : BitVec 16), (s.service p 0xC3C1 true = .serve ∧ Path.privileged p = true ∧ 30 ≤ limit.toNat ∧ limit.toNat ≤ 60 ∧
        retry.toNat ≤ 7 ∧ 5 ≤ soa.toNat ∧ soa.toNat ≤ 100 ∧ 50 ≤ delay.toNat ∧ delay.toNat ≤ 2000 ∧ a.power.mainMa.toNat + 500 ≤ limit.toNat * 100) →
      let t := a.onPower fun x => { x with limit := limit.toNat, retry := retry.toNat, soa := soa.toNat, delay := delay.toNat,
                                           soa8 := a.power.soaAt a.clock, foldSince := a.clock }
      Performs (.setPowerPathPolicy p limit retry soa delay) p 0xC3C1 s t (t.status 0 true)) ∧
    ((s.service p 0xC3C2 true = .serve ∧ Path.privileged p = true) →
      (a.power.latched = false → Performs (.clearPowerLatch p) p 0xC3C2 s a (le 2 1 ++ le 1 a.power.count ++ zeros 1)) ∧
      (a.power.latched = true → Performs (.clearPowerLatch p) p 0xC3C2 s
        (((a.onPower fun x => { x with latched := false, count := 0, sw := if x.sw = .latched then .off else x.sw }).raisePower 0x0F06 .informational
          (le 1 a.power.count ++ le 1 (Path.managerCode p))).tryDelay) (le 2 0 ++ le 1 a.power.count ++ zeros 1))) ∧
    (s.service p 0xC3C3 true = .serve → ∀ peaks energy, ∃ out, fieldLe out 2 2 = a.power.mainMv.toNat ∧ fieldLe out 4 2 = a.power.mainMa.toNat ∧
      fieldLe out 12 4 = a.power.powerMw.toNat ∧ Performs (.getPowerReadings p peaks energy) p 0xC3C3 s (a.onPower fun x =>
        { x with peakMa := if peaks then 0 else x.peakMa, peakMw := if peaks then 0 else x.peakMw, energy := if energy then 0 else x.energy }) out) ∧
    (s.service p 0xC3C4 true = .serve → Answers (.getTripRecords p) p 0xC3C4 s fun a out => fieldLe out 0 2 = 0 ∧
      fieldLe out 2 1 = a.power.records.length % 256 ∧ slice out 4 256 = slice (a.power.records.flatMap TripRecord.toBytes) 0 256)

/-- DROWSE_IDLE_TIMER in Active with the conditions of Drowse holding asks the first block for Drowse; WATCH_ENTRY_START in
Active with those of Watch holding asks it for Watch and does the entry work; SLEEP_BACKOFF_RETRY in Active tries the entry
again where its kind is still allowed, and else drops the retry. SLEEP_BLOCK_ANSWER of an asked block that can agree gates it
and asks the next; the sixteenth agreement commits the target state with a back-off of 1 ms; a refusal with reason 1 to 6
(and SLEEP_ANSWER_TIMEOUT, reason 5) abandons the entry, counts the refusal, doubles the back-off up to its ceiling, arms a
retry of the same target and raises 0E02h; where no save area was held the fields are stated (nothing gated). (R416, R417,
R420, R421, R428, R429, R430, 14_eaves_and_power_states.md) -/
def Obligations.SleepEntries : Prop :=
  ∀ s : State,
    ((s.eaves.st = .active ∧ s.boot.step ≠ .off ∧ s.eaves.entry = none ∧ s.eaves.retry = none ∧ s.linksRest .drowse = true ∧ s.idle = true) →
      exec .drowseIdleTimer s = .next (s.beginEntry .drowse)) ∧
    ((s.eaves.st = .active ∧ s.firmwareRuns = true ∧ s.purlin.paused = false ∧ s.eaves.entry = none ∧ s.watchReady = true) →
      exec .watchEntryStart s = .next (s.beginEntry .watch).watchWork) ∧
    (∀ kind, (s.beginEntry kind).eaves = { s.eaves with entry := some { target := kind }, retry := none, gated := [] }) ∧
    (∀ kind, (s.eaves.st = .active ∧ s.eaves.entry = none ∧ s.eaves.retry = some kind) → let t := s.onEaves fun e => { e with retry := none }
      exec .sleepBackoffRetry s = .next (if kind = .watch then (if s.eaves.watchOn ∧ t.consentWanted = 0 then (t.beginEntry .watch).watchWork else t)
        else if s.eaves.drowseOn then t.beginEntry .drowse else t)) ∧
    ∀ e : Entry, s.eaves.entry = some e → let id := sleepOrder.getD e.next 0
      ((s.sleepRefusal e.target id = 0 ∧ e.wake = false ∧ e.next < 15) → ∃ t, exec (.sleepBlockAnswer 0) s = .next t ∧
        t.eaves = { s.eaves with gated := s.eaves.gated ++ [id], entry := some { e with next := e.next + 1 } }) ∧
      ((s.sleepRefusal e.target id = 0 ∧ e.wake = false ∧ e.next = 15) → ∃ t, exec (.sleepBlockAnswer 0) s = .next t ∧
        t.eaves.entry = none ∧ t.eaves.st = e.target ∧ t.eaves.backoffUs = 1000) ∧
      (∀ refusal : BitVec 8, (1 ≤ refusal.toNat ∧ refusal.toNat ≤ 6) →
        let u := s.abandonEntry.onEaves fun x => { x with
          refusals := Sparse.modify {} x.refusals id fun r => r.count refusal.toNat s.abandonEntry.seconds
          retry := some e.target
          backoffUs := min (2 * x.backoffUs) (1000 * x.ceilingMs) }
        let t := u.raiseLimited 0x0E02 id .warning 0xFFFF (le 1 e.target.code ++ le 1 id ++ le 1 refusal.toNat ++ zeros 4) [(3, 4)] [1] u.lds
        exec (.sleepBlockAnswer refusal) s = .next t ∧ (refusal = 5 → exec .sleepAnswerTimeout s = .next t) ∧
        (s.eaves.saveAreas = [] → t.eaves.entry = none ∧ t.eaves.gated = [] ∧ t.eaves.retry = some e.target ∧ t.eaves.st = s.eaves.st ∧
          t.eaves.backoffUs = min (2 * s.eaves.backoffUs) (1000 * s.eaves.ceilingMs)))

/-- SAMPLER_CYCLE in Drowse or Watch counts the cycle and takes every sample; where no sample crosses a window the state and the
events stand. SIDEBAND_ADDRESS_MATCH of the sled's own address wakes as R427 says and of another changes nothing.
CRYSTAL_STOP of a running crystal marks it stopped, raising 0E06h when firmware serves and else keeping its time.
TIME_BASE_SAVE with retention held saves the seconds count. PURLIN_GATED_ACCESS of a gated block gives a bus error, leaves it
gated and raises the rate-limited 0E05h. (R412, R425, R426, R427, R434, R521, 14_eaves_and_power_states.md) -/
def Obligations.SamplerAndEaves : Prop :=
  ∀ s : State,
    (∀ samples : List (BitVec 16), (s.eaves.st = .drowse ∨ s.eaves.st = .watch) → ∃ t, exec (.samplerCycle samples) s = .next t ∧
      ((∀ x ∈ s.eaves.sampled.zipIdx, x.1.crossed x.2 (samples.getD x.2 0) = 0) →
        t.eaves.cycles = s.eaves.cycles + 1 ∧ t.eaves.sampled = s.eaves.sampled.zipIdx.map (fun x => x.1.take x.2 (samples.getD x.2 0)) ∧
        t.eaves.st = s.eaves.st ∧ t.host = s.host)) ∧
    (∀ address, exec (.sidebandAddressMatch address) s = .next (if s.ownAddress = some address then s.addressMatch address else s)) ∧
    ((s.eaves.retention = true ∧ s.eaves.crystal = true) → let t := s.onEaves fun e => { e with crystal := false }
      exec .crystalStop s = .next (if s.ready rdyMailbox then t.raiseAll 0x0E06 .warning (le 4 s.seconds)
        else t.onEaves fun e => { e with crystalEvent := some s.seconds })) ∧
    (s.eaves.retention = true → exec .timeBaseSave s = .next (s.onEaves fun e => { e with savedSeconds := s.seconds })) ∧
    (∀ block : BitVec 8, s.gated block.toNat = true → exec (.purlinGatedAccess block) s = .next
      ((s.emit .busError).raiseLimited 0x0E05 block.toNat .warning 0xFFFF (le 1 block.toNat ++ zeros 4) [(1, 4)] [1] s.lds))

/-- Served GET_POWER_STATE answers the state of arrival, the cause of the last exit, and the counts of Drowse and Watch;
SET_WATCH_CONSENT on a primary mailbox sets or clears the consent bit of its logical device and on a privileged path that of
the whole sled too; SET_POWER_STATE_POLICY on a privileged path with its times in range stores five settings;
SET_WATCH_THRESHOLDS of quantities 0 to 21 with low below high stores the window of that quantity alone; GET_WATCH_SAMPLES
answers the cycle count and the samples; GET_SLEEP_REFUSALS of a block that is asked answers its counts; GET_LOG_STORE_STATUS
the read-only state and the blocks. (R366, R417, R420, R425, R430, R435, R436, R390, 14_eaves_and_power_states.md,
12_service_processor.md) -/
def Obligations.PowerStateCommands : Prop :=
  ∀ (s : State) (p : Path),
    let a := s.arrives p
    (s.serves p 0xC380 → Answers (.getPowerState p) p 0xC380 s fun a out => ∀ f ∈ [(0, 2, 0), (2, 1, a.eaves.arrival.code), (3, 1, a.eaves.exitCause),
      (8, 4, a.consentWanted), (12, 4, a.eaves.drowses), (16, 4, a.eaves.watches)], fieldLe out f.1 f.2.1 = f.2.2 % 256 ^ f.2.1) ∧
    (∀ consent whole, (s.serves p 0xC381 ∧ (Path.privileged p = true ∨ (whole = false ∧ ∃ l m, p = .primary l m))) →
      let bit := BitVec.ofNat 32 (2 ^ (a.issuing p).toNat)
      let t := a.onEaves fun e => if whole then { e with wholeConsent := consent }
        else { e with consent := if consent then e.consent ||| bit else e.consent &&& ~~~ bit }
      Performs (.setWatchConsent p consent whole) p 0xC381 s t (t.status (if t.watchReady then 0 else 1) false)) ∧
    (∀ drowse watch (idle sample ceiling : BitVec 32), (s.serves p 0xC382 ∧ Path.privileged p = true ∧ 10 ≤ idle.toNat ∧ idle.toNat ≤ 100000 ∧
        1 ≤ sample.toNat ∧ sample.toNat ≤ 10000 ∧ 1 ≤ ceiling.toNat ∧ ceiling.toNat ≤ 10000) →
      let t := a.onEaves fun e => { e with drowseOn := drowse, watchOn := watch, idleUs := idle.toNat, period := sample.toNat, ceilingMs := ceiling.toNat }
      Performs (.setPowerStatePolicy p drowse watch idle sample ceiling) p 0xC382 s t (t.status 0 true)) ∧
    (∀ (index : BitVec 8) lowOn highOn low high, (s.serves p 0xC383 ∧ Path.privileged p = true ∧ index.toNat ≤ 21 ∧ below index.toNat low high = true) →
      let t := a.onEaves fun e => { e with sampled := e.sampled.zipIdx.map fun x => if x.2 = index.toNat then { x.1 with lowOn, highOn, low, high } else x.1 }
      Performs (.setWatchThresholds p index lowOn highOn low high) p 0xC383 s t (t.status 0 true)) ∧
    (s.serves p 0xC384 → Answers (.getWatchSamples p) p 0xC384 s fun a out => fieldLe out 4 4 = a.eaves.cycles % 256 ^ 4 ∧
      slice out 8 132 = slice (a.eaves.sampled.flatMap fun x => le 2 x.last.toNat ++ le 2 x.min.toNat ++ le 2 x.max.toNat) 0 132) ∧
    (∀ block : BitVec 8, (s.serves p 0xC385 ∧ sleepBlock block.toNat = true) → Answers (.getSleepRefusals p block) p 0xC385 s fun a out =>
      fieldLe out 2 1 = (Sparse.get {} a.eaves.refusals block.toNat).lastReason % 256 ∧ fieldLe out 4 4 = (Sparse.get {} a.eaves.refusals block.toNat).seconds % 256 ^ 4) ∧
    (s.serves p 0xC303 → Answers (.getLogStoreStatus p) p 0xC303 s fun a out => ∀ f ∈ [(0, 2, 0), (2, 1, b2n a.purlin.log.readOnly),
      (4, 2, a.purlin.log.inHand), (6, 2, a.purlin.log.retired), (8, 8, a.purlin.log.words)], fieldLe out f.1 f.2.1 = f.2.2 % 256 ^ f.2.1)

/-- While the sled is awake, the port's hop is up and no other cascade is behind it, a packet of any row is counted in the port's
bandwidth and then: one whose header fails is dropped with reason 1, one for a sled outside the cascade map with reason 2,
one without hops left with reason 3, and one for another sled goes to that sled's egress. One for this sled: an ack packet
acts on its pair; every other kind ends Drowse first; a pair sync acts on its pair; a packet taken in sequence is opened, and
a request enters the store, a response settles the entry that waits for it, and a mailbox or control message acts after its
acknowledgement has. (R223, R326, R331, R336, R337, R338, R342, R378, 10_rafter_links.md) -/
def Obligations.PacketArrivals : Prop :=
  ∀ (s : State) (port : RaftPort) (packet : List Byte) (iv : SyncIv),
    (s.awake = true ∧ s.hopUp port.toNat = true ∧ (s.rport port.toNat).foreign = false) →
    let h := Header.ofBytes packet
    let a := s.countBytes (2 + port.toNat) packet.length 0
    let Lands (t : State) : Prop := ∀ c ∈ [Instr.forwardedPacketLanded port packet, .readRequestPacket port packet, .writeRequestPacket port packet,
      .readResponsePacket port packet, .writeCompletionPacket port packet, .ackPacket port packet, .rafterMailboxRequest port packet,
      .rafterMailboxReply port packet], exec c s = .next t
    let known := headerOk packet = true ∧ kindOk h.kind = true ∧ (Sparse.find a.casc.map.members h.dst).isSome = true
    let mine := known ∧ h.hops ≠ 0 ∧ h.dst = a.me
    (headerOk packet = false → Lands (a.dropPacket port.toNat 1)) ∧
    ((headerOk packet = true ∧ kindOk h.kind = true ∧ Sparse.find a.casc.map.members h.dst = none) → Lands (a.dropPacket port.toNat 2)) ∧
    ((known ∧ h.hops = 0) → Lands (a.dropPacket port.toNat 3)) ∧
    ((known ∧ h.hops ≠ 0 ∧ h.dst ≠ a.me) → Lands (a.forward port.toNat packet)) ∧
    ((mine ∧ h.kind = 5) → Lands (a.takeAck h packet)) ∧
    ((mine ∧ h.kind = 7) → exec (.pairSyncPacket port iv packet) s = .next ((a.wakeDrowse 3).takeSync h iv packet)) ∧
    (∀ b, (mine ∧ (a.wakeDrowse 3).takeSeq h.src h.seq = (b, true)) →
      let w := (a.wakeDrowse 3).peer h.src
      let o := b.openPacket h false w.recvEpoch w.recvWraps packet
      (h.kind = 1 ∨ h.kind = 2 → Lands (((b.takeRequest h o).ackField h.src h).settlePair h.src)) ∧
      (h.kind = 3 ∨ h.kind = 4 → Lands (b.takeResponse h o)) ∧
      (h.kind = 6 → Lands (match (b.takeControl h o).2 with
        | some m => (b.takeControl h o).1.takeMessage m
        | none => (b.takeControl h o).1)))

/-- ACTIVATION_PAUSE_END in a pause ends it and serves the commands held, in arrival order, on the new runtime.
WATCH_EXIT_COMPLETE while leaving Watch reads the save area and restores, loses the directory where neither copy decodes,
ends the exit with no block gated and its time kept, leaves Watch for Active, raises 0E04h for what was not restored (cause 3
for retention RAM, else 1 for the image and 2 for the save area), tells the sideband host and serves what waited; where all
of it held no 0E04h is raised. (R384, R413, R423, R424, 12_service_processor.md, 14_eaves_and_power_states.md) -/
def Obligations.ResumptionOfService : Prop :=
  ∀ (s : State),
    (∀ us : BitVec 32, s.purlin.paused = true → exec (.activationPauseEnd us) s =
      .next (foldState State.serveLate ((s.endPause us.toNat).onPurlin fun x => { x with held := [] }) s.purlin.held)) ∧
    (∀ image save retention directory (wakeNs exitUs : BitVec 32), (s.eaves.st = .watch ∧ s.eaves.exiting = true) →
      let r := (s.readSave wakeNs.toNat).restore (image && (save && retention)) (save && retention) retention
      let x := (if directory then r else r.loseDirectory).onEaves fun e =>
        { e with exiting := false, gated := [], lastExitUs := exitUs.toNat, stopped := [] }
      let u := x.leaveWatch
      let t := if retention = false then u.raiseAll 0x0E04 .failure (le 1 3)
        else foldState (fun t cause => t.raiseAll 0x0E04 .failure (le 1 cause)) u ((if image then [] else [1]) ++ if save then [] else [2])
      exec (.watchExitComplete image save retention directory wakeNs exitUs) s = .next t.tellSideband.serveWaiting ∧
        (x.eaves.st = .watch → u = (x.changeState .active (some x.eaves.exitCause)).deliverHeld))

/-- On a hop that is up while the sled is awake LANE_PARITY_ERROR counts the lane's error and DOWN_NOTICE_RECEIVED takes the hop
down. HOP_TRAINING_DONE of a port in training fences the lanes that erred, and joins the hop with a clean usable set or puts
the port down with 0A04h; PORT_RETRY_TIMER of a port that is down joins it on a clean x2 set. FORWARD_AGE_DROP drops the
oldest forwarded packet, EGRESS_PACKET_SEND sends the next packet, and a ridge that has sealed 2^40 packets starts a key
rotation. ACK_TIMER sends an ack that is due; REPLAY_TIMER announces an unconfirmed pair again and replays a live one;
PAIR_UNREACHABLE reports the lost entries in 0A06h, fails its relays, and tells the ridge or probes. (R322, R323, R324, R328,
R329, R337, R341, R342, R343, R344, 10_rafter_links.md) -/
def Obligations.RafterHops : Prop :=
  ∀ (s : State) (port : RaftPort) (peer : SledId),
    let p := port.toNat
    let d := peer.toNat
    ((s.awake = true ∧ s.hopUp p = true) → (∀ lane, exec (.laneParityError port lane) s = .next (s.laneError p lane.toNat)) ∧
      exec (.downNoticeReceived port) s = .next (s.hopDown p 0xFF)) ∧
    (∀ x : HopTraining, (s.awake = true ∧ (s.rport p).phase = .training) →
      let f := foldState (fun s l => s.fenceLane p l 1) s ((List.range 8).filter fun l => bitAt x.erred.toNat l)
      let kind := if (s.rport p).lanes = 0 then 3 else if x.lanes = (s.rport p).lanes then 1 else 2
      exec (.hopTrainingDone port x) s = .next (if x.clean && (f.rport p).usable x.lanes x.peerUsable then (f.hopRise p x kind).afterRise s p
        else (f.onRport p fun r => { r with fencedPeer := ~~~ x.peerUsable }).portDown p)) ∧
    (∀ x : HopTraining, (s.awake = true ∧ (s.rport p).phase = .down ∧ x.clean = true ∧ x.lanes.toNat ∈ [0x03, 0x0C, 0x30, 0xC0]) →
      exec (.portRetryTimer port x) s = .next ((s.hopRise p x 3).afterRise s p)) ∧
    (∀ f fs, (s.rport p).egress = f :: fs →
      exec (.forwardAgeDrop port) s = .next (((s.onRport p fun x => { x with egress := fs }).dropPacket p 5).refillGutter)) ∧
    (∀ b x, (s.awake = true ∧ s.hopUp p = true ∧ (s.rport p).foreign = false ∧ (s.rport p).pick = some (b, x)) →
      let t := ((s.onRport p fun _ => x).refillGutter.countBytes (2 + p) 0 b.length).emit (.packet (BitVec.ofNat 2 p) b)
      exec (.egressPacketSend port) s = .next (if t.casc.role = .ridge ∧ 2 ^ 40 ≤ t.link.sealedCount ∧ t.flash.rotation = none then t.beginRotation none else t)) ∧
    ((s.awake = true ∧ (s.peer d).hasRecv = true ∧ (s.peer d).ackDue = true) → exec (.ackTimer peer) s = .next (s.sendUnsequenced d 5 [])) ∧
    (((s.peer d).st = .syncing ∨ (s.peer d).st = .unreachable) → exec (.replayTimer peer) s = .next (s.announce d)) ∧
    ((s.peer d).st = .live → exec (.replayTimer peer) s =
      .next (((if (s.peer d).unacked then s.replay d else s).onPeer d fun p => { p with returning := false }).pump d)) ∧
    (((s.peer d).st = .syncing ∨ (s.peer d).st = .live) → let x := s.loseEntries d true fun _ => true
      let t := ((x.1.onPeer d fun p => { p with st := .unreachable, returning := false }).raiseAll 0x0A06 .failure (le 2 d ++ le 4 x.2.1 ++ le 4 x.2.2)).failRelays peer
      exec (.pairUnreachable peer) s = .next (if !t.casc.joined then t else if t.casc.role = .ridge then t.probe d
        else t.emit (.control (some t.casc.ridge) (.unreachable d))))

/-- Served GET_RAFTER_PORT_STATUS of ports 0 to 3 answers the port's state, lanes, losses and rejoins; GET_TRANSPORT_PAIR of
sleds 0 to 1023 the pair's state, next sequence number and counts. On a privileged path SET_TRANSPORT_POLICY with values in
range stores the credits and the two times and lets every pair send; SET_RAFTER_PORT disables, enables, or retrains a port as
its action says and answers its lanes; each is Invalid Input outside those ranges. (R345, R346, R347, R348,
10_rafter_links.md) -/
def Obligations.RafterCommands : Prop :=
  ∀ (s : State) (p : Path),
    let a := s.arrives p
    (∀ port : BitVec 8, (s.serves p 0xC280 ∧ port.toNat ≤ 3) → Answers (.getRafterPortStatus p port) p 0xC280 s fun a out => let x := a.rport port.toNat
      ∀ f ∈ [(0, 2, 0), (2, 1, x.phase.code), (3, 1, x.mask), (4, 1, x.fencedOwn.toNat), (5, 1, x.fencedPeer.toNat)], fieldLe out f.1 f.2.1 = f.2.2 % 256 ^ f.2.1) ∧
    (∀ port : BitVec 8, (s.serves p 0xC280 ∧ 3 < port.toNat) → TurnedAway (.getRafterPortStatus p port) p 0xC280 s .invalidInput) ∧
    (∀ peer : BitVec 16, (s.serves p 0xC281 ∧ peer.toNat ≤ 1023) → Answers (.getTransportPair p peer) p 0xC281 s fun a out => let x := a.peer peer.toNat
      ∀ f ∈ [(0, 2, 0), (2, 1, x.st.code), (4, 4, x.nextSeq), (8, 4, x.lowest), (12, 4, x.lastAck), (18, 2, a.link.credits), (20, 4, x.held.length), (24, 4, x.expect)],
        fieldLe out f.1 f.2.1 = f.2.2 % 256 ^ f.2.1) ∧
    (∀ peer : BitVec 16, (s.serves p 0xC281 ∧ 1023 < peer.toNat) → TurnedAway (.getTransportPair p peer) p 0xC281 s .invalidInput) ∧
    (∀ (credits replay : BitVec 16) (unreach : BitVec 32), (s.serves p 0xC282 ∧ Path.privileged p = true ∧ 1 ≤ credits.toNat ∧ credits.toNat ≤ 1024 ∧
        20 ≤ replay.toNat ∧ replay.toNat ≤ 400 ∧ 1500 ≤ unreach.toNat ∧ unreach.toNat ≤ 1000000) →
      let t := a.onLink fun l => { l with credits := credits.toNat, replayUs := replay.toNat, unreachableUs := unreach.toNat }
      let t := foldState State.pump t (Sparse.keys t.link.peers)
      Performs (.setTransportPolicy p credits replay unreach) p 0xC282 s t (t.status 0 true)) ∧
    (∀ port : BitVec 8, (s.serves p 0xC283 ∧ Path.privileged p = true ∧ port.toNat ≤ 3) → let q := port.toNat
      let Sets (action : BitVec 8) (t : State) : Prop := Performs (.setRafterPort p port action) p 0xC283 s t
        (t.status 0 (decide (action.toNat < 2)) ++ le 1 (t.rport q).mask ++ zeros 1)
      Sets 0 (((if a.hopUp q then a.hopDown q 0xFF else a).onRport q fun x => { x with phase := .disabled, enabled := false, lanes := 0 }).checkStandalone) ∧
      Sets 1 (a.onRport q fun x => { x with enabled := true, phase := if x.phase = .disabled ∧ a.boot.rafterEnabled then .training else x.phase }) ∧
      Sets 2 ((a.onRport q fun x => { x with fencedOwn := 0 }).retrainHop q) ∧ Sets 3 (a.retrainHop q))

/-- On a channel that executes QUEUE_HEAD_EXECUTE runs the head, BUFFER_DRAIN outside a retraining drains the oldest entry,
MR4_POLL enters a mode-register read and REFRESH_DUE a refresh (inside a retraining it advances the refresh position at
once). SLOT_READ_COMPLETE takes the oldest slot read that is out: the answer of the codec goes to its fetch.
ZQ_CALIBRATION_DUE enters a calibration of the next rank, DQS_CHECK_DUE a check; a sleeping channel defers them.
WRITE_DQ_RETRAIN_TURN of the first channel in turn with no channel retraining starts its retraining where the drift exceeds
the threshold or a command asked for it, and WRITE_DQ_RETRAIN_DONE ends it: a first failure is retried, a second takes the
channel out of service, a pass counts. (R234, R235, R239, R245, R246, R249, R250, R267, 07_dram_channels.md) -/
def Obligations.ChannelWork : Prop :=
  ∀ (s : State) (ch : ChannelId),
    let n := ch.toNat
    let c := s.channel n
    (s.executes n = true → exec (.queueHeadExecute ch) s = .next (s.execHead n) ∧ (c.retraining = false → exec (.bufferDrain ch) s = .next (s.drainOne n)) ∧
      (∀ codes, exec (.mr4Poll ch codes) s = .next (s.enterItem n (.modeRead codes))) ∧
      exec (.refreshDue ch) s = .next (if c.retraining then s.onChannel n fun c => { c with refreshAt := (c.refreshAt + 1) % 16 } else s.enterItem n .refresh)) ∧
    (∀ x rest f, (c.inFlight = x :: rest ∧ s.fetch x.fetch = some f) → let t := s.onChannel n fun c => { c with inFlight := rest }
      exec (.slotReadComplete ch) s = .next (if Sparse.get false s.sram.keyErrors (f.batten.ctx.toNat * 2 + b2n f.batten.gen)
        then (t.loseKey f.batten.ctx.toNat f.batten.gen).endFetch x.fetch f (zeros 256) 15 0 else (t.slotBack n x f).settleFetch x.fetch)) ∧
    (∀ passed (ns : BitVec 32), let t := s.onChannel n fun x => { x with nextZq := 1 - c.nextZq }
      exec (.zqCalibrationDue ch passed ns) s = .next (t.maintain n (.zq c.nextZq passed ns.toNat))) ∧
    (∀ drift, (s.executes n = true → exec (.dqsCheckDue ch drift) s = .next (s.enterItem n (.dqsCheck drift))) ∧
      ((s.executes n = false ∧ c.trained = true ∧ c.asleep = true ∧ c.outOfService = false) → exec (.dqsCheckDue ch drift) s =
        .next (s.onChannel n fun c => { c with deferred := c.deferred ++ [.dqsCheck drift] }))) ∧
    (∀ (drift : BitVec 16) rest, (s.executes n = true ∧ s.dram.turns = n :: rest ∧ s.anyRetraining = false ∧ (s.dram.driftPs < drift.toNat ∨ c.wantsTurn = true)) →
      exec (.writeDqRetrainTurn ch drift) s =
        .next (((s.onDram fun d => { d with turns := rest }).onChannel n fun c => { c with drift }).startRetraining n)) ∧
    (∀ ns : BitVec 32, c.retraining = true →
      (c.retried = false → exec (.writeDqRetrainDone ch false ns) s = .next (s.onChannel n fun c => { c with retried := true })) ∧
      (let t := s.onChannel n fun c => { c with retraining := false, longestStall := max c.longestStall (ns.toNat / 1000), since := s.clock }
       (c.retried = true → exec (.writeDqRetrainDone ch false ns) s = .next (((t.trace 3 4 0xFFFF 0xFFFF
        (le 1 n ++ le 1 4 ++ le 1 5 ++ le 4 (ns.toNat / 1000))).takeOut n 1).recompute)) ∧
       let u := (t.trace 3 4 0xFFFF 0xFFFF (le 1 n ++ le 1 4 ++ le 1 1 ++ le 4 (ns.toNat / 1000))).onChannel n fun c => { c with retrainings := c.retrainings + 1 }
       exec (.writeDqRetrainDone ch true ns) s = .next ((((u.raiseLimited 0x0703 n .informational 0xFFFF
          (le 1 n ++ le 2 c.drift.toNat ++ le 2 (min (ns.toNat / 1000) 65535) ++ zeros 4) [(5, 4)] [1] u.lds).finishRetrain n 1 0 ns.toNat).runChannel n).recompute)))

/-- CHANNEL_SELF_REFRESH_ENTRY of an idle channel that executes with an empty buffer puts it to sleep. GROUP_POWER_DOWN_ENTRY of
a live group that may power down with every channel idle puts its channels to sleep and powers it down with a power trace
record, or, where a request came in time, only counts an abandoned entry beside that sleep; GROUP_WAKE_COMPLETE of a powered-
down group that wakes makes it live and counts the wake with its time. (R241, R251, R252, R253, R254, 07_dram_channels.md) -/
def Obligations.SleepOfChannels : Prop :=
  ∀ (s : State) (ch : ChannelId) (g : GroupId),
    ((s.executes ch.toNat = true ∧ (s.channel ch.toNat).idle = true ∧ (s.channel ch.toNat).buffer = []) →
      exec (.channelSelfRefreshEntry ch) s = .next (s.sleepChannel ch.toNat)) ∧
    (((s.group g.toNat).st = .live ∧ (s.group g.toNat).enable = true ∧ ∀ c ∈ groupChannels g.toNat, (s.channel c).idle = true) →
      let u := foldState State.sleepChannel s (groupChannels g.toNat)
      exec (.groupPowerDownEntry g false) s = .next ((u.onGroup g.toNat fun x => { x with st := .poweredDown, waking := false, since := u.clock }).trace
        3 1 0xFFFF 0xFFFF (le 1 g.toNat ++ le 1 1 ++ le 1 2 ++ le 4 (min (usOf (u.clock - (u.group g.toNat).since)) 0xFFFFFFFF))) ∧
      exec (.groupPowerDownEntry g true) s = .next (u.onGroup g.toNat fun x => { x with abandoned := x.abandoned + 1 })) ∧
    (∀ ns : BitVec 32, ((s.group g.toNat).st = .poweredDown ∧ (s.group g.toNat).waking = true) →
      exec (.groupWakeComplete g ns) s = .next (s.upGroup g.toNat ns.toNat))

/-- Served GET_CHANNEL_STATUS of channels 0 to 127, GET_GROUP_STATUS of groups 0 to 15 and GET_ADDRESS_MAP answer the state, the
counts and the place of a slot. On a privileged path SET_GROUP_POWER_POLICY of a group or of all stores its two times and its
enable, waking a powered-down group that is disabled; SET_TRAINING_POLICY stores the four periods; SET_DRAM_SPEED and
SET_BANK_HASH_MASKS store what the next bring-up uses and leave what is in force; RETRAIN_CHANNEL of an awake trained channel
begins in the background and makes the channel want its turn (kind 1) or two calibrations (kind 2). (R229, R230, R231, R232,
R245, R254, R255, 07_dram_channels.md) -/
def Obligations.ChannelCommands : Prop :=
  ∀ (s : State) (p : Path),
    let a := s.arrives p
    (∀ ch : BitVec 8, (s.serves p 0xC1C0 ∧ ch.toNat ≤ 127) → Answers (.getChannelStatus p ch) p 0xC1C0 s fun a out =>
      ∀ f ∈ [(0, 2, 0), (2, 1, a.channelCode ch.toNat), (3, 1, (a.group (ch.toNat / 8)).speed), (8, 1, min 16 (a.channel ch.toNat).queue.length),
        (10, 2, (a.channel ch.toNat).drift.toNat), (14, 2, (a.channel ch.toNat).masks.toNat)], fieldLe out f.1 f.2.1 = f.2.2 % 256 ^ f.2.1) ∧
    (∀ g : BitVec 8, (s.serves p 0xC1C1 ∧ g.toNat ≤ 15) → Answers (.getGroupStatus p g) p 0xC1C1 s fun a out =>
      ∀ f ∈ [(0, 2, 0), (2, 1, (a.group g.toNat).st.code), (3, 1, (a.group g.toNat).speed), (8, 8, (a.group g.toNat).wakes)], fieldLe out f.1 f.2.1 = f.2.2 % 256 ^ f.2.1) ∧
    (∀ slot : BitVec 64, (s.serves p 0xC1C6 ∧ (a.small && bitAt (slot.toNat % 2 ^ 35) 27) = false) → let x := slot.toNat % 2 ^ 35
      Answers (.getAddressMap p slot) p 0xC1C6 s fun a out => ∀ f ∈ [(0, 2, 0), (2, 1, slotChannel x), (3, 1, slotRank x + 2 * slotBank a.dram.masks x),
        (4, 4, slotRow x), (8, 2, 32 * (x % 32)), (16, 8, checkSlot x)], fieldLe out f.1 f.2.1 = f.2.2 % 256 ^ f.2.1) ∧
    (Path.privileged p = true →
      (∀ (g : BitVec 8) enable (us ns : BitVec 32), (s.serves p 0xC1C2 ∧ (g.toNat ≤ 15 ∨ g = 255) ∧ 1 ≤ us.toNat ∧ us.toNat ≤ 100000 ∧ 5 ≤ ns.toNat ∧
          ns.toNat ≤ 10000 ∧ ns.toNat ≤ 10 * us.toNat) →
        let set (x : Group) : Group := { x with enable, groupUs := us.toNat, chan100ns := ns.toNat, waking := x.waking || (!enable && x.st == .poweredDown) }
        let t := foldState (fun s n => s.onGroup n set) a (if g = 255 then List.range 16 else [g.toNat])
        Performs (.setGroupPowerPolicy p g enable us ns) p 0xC1C2 s t (t.status 0 true)) ∧
      (∀ (zq : BitVec 16) (check drift poll : BitVec 8), (s.serves p 0xC1C3 ∧ 32 ≤ zq.toNat ∧ zq.toNat ≤ 1000 ∧ 1 ≤ check.toNat ∧ check.toNat ≤ 64 ∧
          4 ≤ drift.toNat ∧ drift.toNat ≤ 40 ∧ 1 ≤ poll.toNat ∧ poll.toNat ≤ 32) →
        let t := a.onDram fun x => { x with zqMs := zq.toNat, checkMs := check.toNat, driftPs := drift.toNat, pollMs := poll.toNat }
        Performs (.setTrainingPolicy p zq check drift poll) p 0xC1C3 s t (t.status 0 true)) ∧
      (∀ speed : BitVec 8, (s.serves p 0xC1C4 ∧ speed.toNat ≤ 2) → let t := a.onDram fun d => { d with speedPending := speed.toNat }
        Performs (.setDramSpeed p speed) p 0xC1C4 s t (t.status 0 true ++ le 1 a.dram.speed ++ le 1 speed.toNat)) ∧
      (∀ m0 m1 m2 : BitVec 64, (s.serves p 0xC1C5 ∧ maskValid 0 m0.toNat = true ∧ maskValid 1 m1.toNat = true ∧ maskValid 2 m2.toNat = true) →
        let t := a.onDram fun d => { d with masksPending := [m0.toNat, m1.toNat, m2.toNat] }
        Performs (.setBankHashMasks p m0 m1 m2) p 0xC1C5 s t (t.status 0 true)) ∧
      (∀ ch : BitVec 8, let b := a.startBackground p 0xC1C7
        (s.serves p 0xC1C7 ∧ Path.backgrounds p = true ∧ a.backgroundBusy (Path.carrier p) = false ∧ ch.toNat ≤ 127 ∧ b.channelCode ch.toNat ∉ [0, 5, 6] ∧
          (b.channel ch.toNat).asleep = false) →
        Begins (.retrainChannel p ch 1) p 0xC1C7 s (((b.onDram fun d => { d with commands := d.commands ++ [(ch.toNat, 1, p)] }).onChannel ch.toNat
          fun c => { c with wantsTurn := true }).wantTurn ch.toNat) ∧
        Begins (.retrainChannel p ch 2) p 0xC1C7 s ((b.onDram fun d => { d with commands := d.commands ++ [(ch.toNat, 2, p)] }).onChannel ch.toNat
          fun c => { c with zqWanted := 2 })))

/-- STRIPE_REBUILD of the first slot that a strong fetch of a channel needs, with its stripe free, rebuilds the member and hands
it to the fetch; STRIPE_LOCK_GRANT retries what waits for a lock; REREAD_CLASSIFY runs a channel that executes through its
first re-read; RETIREMENT_MOVES_RESUME with F at 4 % or more takes up the deferred moves. In Active with the patrol enabled
and PATROL set PATROL_READ does the next step; PATROL_LAP_OVERDUE raises 080Dh once a lap; RANGE_SCRUB_STEP of a running
scrub ends it where an abort is wanted and otherwise passes one course, an absent course counting as absent. (R266, R267,
R271, R275, R276, R277, R286, 08_codes_scrub_sparing.md) -/
def Obligations.StripesAndScrubs : Prop :=
  ∀ s : State,
    (∀ (ch : ChannelId) x rest f, ((s.channel ch.toNat).rebuilds = x :: rest ∧ s.fetch x.fetch = some f ∧ f.batten.strong = true ∧
        s.stripeBusy (f.place x.index).1 ((f.place x.index).2 / 8) = false) →
      let y := (s.onChannel ch.toNat fun c => { c with rebuilds := rest }).rebuildMember (f.place x.index).1 ((f.place x.index).2 / 8) ((f.place x.index).2 % 8)
        x.cause 1 (match f.reads with | q :: _ => q.rid.toNat | [] => 0xFFFF)
      exec (.stripeRebuild ch) s = .next ((y.1.setSlot x.fetch x.index (match y.2 with | some d => .good d | none => .bad)).settleFetch x.fetch)) ∧
    (exec .stripeLockGrant s = .next (s.retry (· == .lock)).retryGathers) ∧
    (∀ (ch : ChannelId) i, (s.executes ch.toNat = true ∧
        ((s.channel ch.toNat).queue.findIdx? fun e => match e with | .reread _ _ _ _ => true | _ => false) = some i) →
      exec (.rereadClassify ch) s = .next (s.execMany ch.toNat (i + 1))) ∧
    (40 * s.pressureCapacity ≤ s.free * 1000 →
      let t := s.onSpare fun p => { p with deferred := [], moving := p.moving ++ s.spare.deferred.map fun r => (r, none, 0, 0) }
      exec .retirementMovesResume s = .next (foldState (fun t r => foldState (fun t b => t.wantRebuild b .retirement none) t (t.leftOn r).2) t s.spare.deferred)) ∧
    ((s.eaves.st = .active ∧ s.spare.patrol = true ∧ s.ready rdyPatrol = true) → exec .patrolRead s = .next s.patrolStep) ∧
    (s.spare.overdue = false → ∃ t, exec .patrolLapOverdue s = .next t ∧ t.spare = { s.spare with overdue := true } ∧ exec .patrolLapOverdue t = .next t) ∧
    (∀ (ld : LdId) x, Sparse.find s.spare.scrubs ld.toNat = some x →
      (s.abortWanted x.path opRangeScrub = true → exec (.rangeScrubStep ld) s = .next (s.endScrub ld x .aborted)) ∧
      ((s.abortWanted x.path opRangeScrub = false ∧ s.courseOf ld x.dpa = none ∧ 1 < x.courses) → ∃ t, exec (.rangeScrubStep ld) s = .next t ∧
        t.spare.scrubs = Sparse.insert s.spare.scrubs ld.toNat { x with absent := x.absent + 1, dpa := x.dpa + courseBytes, courses := x.courses - 1 }))

/-- Served GET_CODE_STATUS, GET_SPARE_STATUS and GET_FAULT_RECORDS of 1 to 32 records that the ring still holds answer the
counters and records. START_RANGE_SCRUB of a range of its logical device with no scrub running begins one. On a privileged
path SET_PATROL_POLICY stores the enable and the target and sets or clears PATROL; SET_RETIREMENT_POLICY stores its five
settings, carries out the held decisions where it clears the hold, and reviews the faults; RETIRE_STORAGE of storage in range
begins and forces its retirement; CLEAR_RETIREMENT of kind 4 lists every retirement for the next bring-up; INJECT_SLOT_ERROR
of 1 to 4 bytes of a non-check slot corrupts the stored codeword. (R276, R277, R279, R280, R282, R284, R287,
08_codes_scrub_sparing.md) -/
def Obligations.SparingCommands : Prop :=
  ∀ (s : State) (p : Path),
    let a := s.arrives p
    (s.serves p 0xC200 → Answers (.getCodeStatus p) p 0xC200 s fun a out => ∀ f ∈ [(0, 2, 0), (4, 4, a.spare.lastLap), (12, 4, a.spare.targetMin),
      (16, 8, a.spare.patrolSlots), (24, 8, a.spare.corrections), (32, 8, a.spare.transients), (40, 8, a.spare.hardSingle), (48, 8, a.spare.hardMulti),
      (56, 8, a.spare.uncorrectable)], fieldLe out f.1 f.2.1 = f.2.2 % 256 ^ f.2.1) ∧
    (s.serves p 0xC201 → Answers (.getSpareStatus p) p 0xC201 s fun a out => ∀ f ∈ [(0, 2, 0), (2, 1, b2n a.spare.hold), (4, 4, a.reserveMiB),
      (20, 4, a.spare.fencedRows.length), (24, 4, a.spare.rowsAwaiting.length)], fieldLe out f.1 f.2.1 = f.2.2 % 256 ^ f.2.1) ∧
    (∀ (first : BitVec 32) (count : BitVec 16), (s.serves p 0xC204 ∧ 1 ≤ count.toNat ∧ count.toNat ≤ 32 ∧ a.spare.ringBase ≤ first.toNat) →
      Answers (.getFaultRecords p first count) p 0xC204 s fun a out =>
        let rs := (a.spare.ring.drop (first.toNat - a.spare.ringBase)).take count.toNat
        fieldLe out 0 2 = 0 ∧ fieldLe out 2 2 = rs.length ∧ slice out 16 (16 * rs.length) = rs.flatMap FaultRecord.toBytes) ∧
    (∀ (dpa : BitVec 64) (courses : BitVec 32) deep (share : BitVec 8), let b := a.startBackground p 0xC202
      (s.serves p 0xC202 ∧ Path.backgrounds p = true ∧ a.backgroundBusy (Path.carrier p) = false ∧ b.rangeOk (b.issuing p) dpa.toNat courses.toNat = true ∧
        share.toNat ≤ 50 ∧ Sparse.find b.spare.scrubs (b.issuing p).toNat = none) →
      let x : RangeScrub := { path := some p, dpa := dpa.toNat, courses := courses.toNat, total := courses.toNat, deep, share := if share = 0 then 10 else share.toNat }
      Begins (.startRangeScrub p dpa courses deep share) p 0xC202 s (b.onSpare fun q => { q with scrubs := Sparse.insert q.scrubs (b.issuing p).toNat x })) ∧
    (Path.privileged p = true →
      (∀ enable (minutes : BitVec 32), (s.serves p 0xC203 ∧ 60 ≤ minutes.toNat ∧ minutes.toNat ≤ 43200) →
        let t := a.onSpare fun x => { x with patrol := enable, targetMin := minutes.toNat }
        let t := if enable then t.beginPatrol else t.setReady rdyPatrol false
        Performs (.setPatrolPolicy p enable minutes) p 0xC203 s t (t.status 0 true)) ∧
      (∀ (rows dies : BitVec 8) (rank : BitVec 16) (share : BitVec 8) hold, (s.serves p 0xC205 ∧ 1 ≤ rows.toNat ∧ rows.toNat ≤ 8 ∧ 2 ≤ dies.toNat ∧ dies.toNat ≤ 8 ∧
          8 ≤ rank.toNat ∧ rank.toNat ≤ 4096 ∧ 5 ≤ share.toNat ∧ share.toNat ≤ 50) →
        let t := a.onSpare fun x => { x with rowThreshold := rows.toNat, dieBanks := dies.toNat, rankRows := rank.toNat, share := share.toNat, hold }
        let t := (if hold then t else foldState (fun t x => t.retire x none true) (t.onSpare fun x => { x with pending := [] }) a.spare.pending).reviewFaults
        Performs (.setRetirementPolicy p rows dies rank share hold) p 0xC205 s t (t.status 0 true)) ∧
      (∀ (kind ch rank bank : BitVec 8) (row : BitVec 32) r, let b := a.startBackground p opRetireStorage
        (s.serves p 0xC206 ∧ Path.backgrounds p = true ∧ a.backgroundBusy (Path.carrier p) = false ∧
          b.namedStorage kind.toNat ch.toNat rank.toNat bank.toNat row.toNat = some r) →
        Begins (.retireStorage p kind ch rank bank row) p 0xC206 s (b.retire r (some p) true)) ∧
      (∀ (ch rank bank : BitVec 8) (row : BitVec 32), s.serves p 0xC207 → let new := a.allRetired.filter fun r => !a.spare.clears.contains r
        let t := a.onSpare fun x => { x with clears := x.clears ++ new }
        Performs (.clearRetirement p 4 ch rank bank row) p 0xC207 s t (t.status (if new.isEmpty then 1 else 0) true ++ zeros 2 ++ le 4 new.length)) ∧
      (∀ (slot : BitVec 64) (count first : BitVec 8) (pattern : Byte), let x := slot.toNat % 2 ^ 35
        (s.serves p 0xC208 ∧ isCheckSlot x = false ∧ 1 ≤ count.toNat ∧ count.toNat ≤ 4 ∧ first.toNat + count.toNat ≤ 68 ∧ (a.small && bitAt x 27) = false ∧ pattern ≠ 0) →
        Performs (.injectSlotError p slot count first pattern) p 0xC208 s (a.corrupt x (errorPattern first.toNat count.toNat pattern)) (le 2 0)))

/-- LANDED_REQUEST_ENTER_STORE with room takes the oldest landed request into the store. HISTOGRAM_SAMPLE while the hub runs
samples every class and every monitored queue. DELIVERABLE_RATE_INTERVAL moves the counts of forwarded traffic and of writes
on, and reckons the rates anew, except in a pause or where the hub does not run, where D stands and a new interval begins.
URGENCY_PIN_CHANGE sets the level of one input pair and of no other, where the table of levels is in its canonical form.
(R291, R302, R305, R308, R312, 09_queues_and_regulation.md) -/
def Obligations.QueuesAndMonitors : Prop :=
  ∀ s : State,
    (∀ r rest, (s.reg.landed = r :: rest ∧ s.storeRoom s.reg.usedRafter = true) →
      exec .landedRequestEnterStore s = .next ((s.onReg fun g => { g with landed := rest }).enqueue r)) ∧
    ((s.hubRuns = true ∧ Sparse.wf {} s.reg.histograms = true) → ∃ t, exec .histogramSample s = .next t ∧
      (∀ c, c < 64 → Sparse.get {} t.reg.histograms c =
        (Sparse.get {} s.reg.histograms c).sample s.clock ((s.reg.queues.filter fun q => q.1 % 64 == c).map fun q => q.2)) ∧
      t.reg.monitors = s.reg.monitors.map (fun m => (m.1, { m.2 with hist := m.2.hist.sample s.clock [s.queue m.2.queue] }))) ∧
    (let t := (s.onLink fun l => { l with ports := Sparse.update {} l.ports fun _ p => { p with forwardedLast := p.forwardedNow, forwardedNow := 0 } }).onReg
        fun r => { r with queues := Sparse.update {} r.queues fun _ q => { q with writesBefore := q.writesNow, writesNow := 0 } }
     ((s.purlin.paused = true ∨ s.hubRuns = false) → exec .deliverableRateInterval s = .next (t.onReg fun r => { r with interval := {} })) ∧
     ((s.purlin.paused = false ∧ s.hubRuns = true) → exec .deliverableRateInterval s = .next t.rateInterval)) ∧
    (∀ pair level : BitVec 2, Sparse.wf 0 s.reg.pins = true → ∃ t, exec (.urgencyPinChange pair level) s = .next t ∧
      ∀ k, Sparse.get 0 t.reg.pins k = if k = pair.toNat then level else Sparse.get 0 s.reg.pins k)

/-- Served GET_REGULATION_STATUS answers the throttle, the excess and the counts; GET_QUEUE of a class 0 to 63 and a requestor
that the path may see answers the queue's record. On a privileged path with bursts in range SET_QUEUE_REGULATION gives the
queue a full shaper and policer (the shaper later where it is throttled); SET_CLASS_REGULATION gives the class its weight and
a full shaper; SET_CLASS_GUARANTEE stores a guarantee that does not rise or that fits, rescales and raises 0903h, and answers
status 1 with no effect where a rise would not fit; SET_URGENCY_SOURCE binds a pin pair, sets a ceiling, or sets a map.
SET_HISTOGRAM_MONITOR binds or frees a slot that its path may rebind. (R292, R298, R299, R301, R306, R313, R315, R317,
09_queues_and_regulation.md) -/
def Obligations.RegulationCommands : Prop :=
  ∀ (s : State) (p : Path),
    let a := s.arrives p
    (s.serves p 0xC240 → Answers (.getRegulationStatus p) p 0xC240 s fun a out => ∀ f ∈ [(0, 2, 0), (2, 1, a.place.divisor), (3, 1, b2n a.reg.rates.excess),
      (4, 4, rateField (a.reg.rates.d.map (· / 256))), (8, 4, rateField a.reg.rates.b)], fieldLe out f.1 f.2.1 = f.2.2 % 256 ^ f.2.1) ∧
    (∀ rid (cls : BitVec 8), (s.serves p 0xC242 ∧ cls.toNat ≤ 63 ∧ a.ownsRid p rid.toNat = true) → Answers (.getQueue p rid cls) p 0xC242 s fun a out =>
      out = le 2 0 ++ zeros 2 ++ a.queueRecord (rid.toNat * 64 + cls.toNat)) ∧
    (∀ (slot : BitVec 16) (cls : BitVec 8) (rid : BitVec 12) (us : BitVec 32), (s.serves p 0xC246 ∧ slot.toNat ≤ 1023 ∧ cls.toNat ≤ 63 ∧ us.toNat ≤ 1000000 ∧
        a.mayRebind p slot.toNat = true) → let rate (u : Regulator) : Nat := if us = 0 then u.sampleUs else us.toNat
      (a.ownsRid p rid.toNat = true → let m : Monitor := { queue := rid.toNat * 64 + cls.toNat, owner := if Path.privileged p then none else some (a.issuing p) }
        Performs (.setHistogramMonitor p slot 1 cls rid us) p 0xC246 s (a.onReg fun g => { g with monitors := Sparse.insert g.monitors slot.toNat m, sampleUs := rate g })
          (le 2 0 ++ zeros 2 ++ le 4 (rate a.reg))) ∧
      Performs (.setHistogramMonitor p slot 0 cls rid us) p 0xC246 s (a.onReg fun g => { g with monitors := Sparse.erase g.monitors slot.toNat, sampleUs := rate g })
        (le 2 0 ++ zeros 2 ++ le 4 (rate a.reg))) ∧
    (Path.privileged p = true →
      (∀ q : QueueReg, (s.serves p 0xC241 ∧ q.cls.toNat ≤ 63 ∧ burstOk q.shaperBurst = true ∧ burstOk q.policerBurst = true) →
        let sh := setBucket q.shaperOn q.shaperRate q.shaperBurst a.clock
        let po := setBucket q.policerOn q.policerRate q.policerBurst a.clock
        Performs (.setQueueRegulation p q) p 0xC241 s (a.onQueue (q.rid.toNat * 64 + q.cls.toNat) fun x =>
          if a.throttled q.cls.toNat then { x with policer := po, later := some sh } else { x with policer := po, shaper := sh }) (le 2 0)) ∧
      (∀ (cls weight : BitVec 8) on rate burst, (s.serves p 0xC243 ∧ cls.toNat ≤ 63 ∧ burstOk burst = true ∧ (60 ≤ cls.toNat ∨ weight ≠ 0)) →
        let t := a.onClass cls.toNat fun x => { x with weight := if cls.toNat < 60 then weight.toNat else x.weight, shaper := setBucket on rate burst a.clock }
        Performs (.setClassRegulation p cls weight on rate burst) p 0xC243 s t (t.status 0 true)) ∧
      (∀ (cls : BitVec 8) (new : BitVec 24) burst, (s.serves p 0xC244 ∧ cls.toNat ≤ 63 ∧ burstOk burst = true) →
        let old := (a.classRow cls.toNat).guarantee
        let sum := a.guarantees (fun _ => true)
        ((new.toNat ≤ old ∨ ∀ b, a.reg.rates.b = some b → sum - old + new.toNat ≤ 256 * b) → let b := (a.onClass cls.toNat fun x => { x with guarantee := new.toNat }).scaleGuarantees
          let eff := if 60 ≤ cls.toNat then new.toNat else new.toNat * b.reg.rates.sNum / b.reg.rates.sDen
          let t := (b.onClass cls.toNat fun r => { r with effective := eff, policer := Bucket.full { on := true, rate := eff, burst := burst.toNat } b.clock }).raiseAll
            0x0903 .informational (le 1 cls.toNat ++ le 4 old ++ le 4 new.toNat ++ le 4 (rateField (a.reg.rates.b.map (· * 256))))
          Performs (.setClassGuarantee p cls new burst) p 0xC244 s t (t.status 0 true ++ zeros 2 ++ le 4 (rateField a.reg.rates.b) ++ le 4 ((sum - old + new.toNat) / 256))) ∧
        (∀ b, (old < new.toNat ∧ a.reg.rates.b = some b ∧ 256 * b < sum - old + new.toNat) →
          Performs (.setClassGuarantee p cls new burst) p 0xC244 s a (le 2 1 ++ zeros 2 ++ le 4 (rateField (some b)) ++ le 4 (sum / 256)))) ∧
      (s.serves p 0xC245 →
        (∀ (i : BitVec 8) (rid : BitVec 16) map, (i.toNat ≤ 3 ∧ rid.toNat ≤ 4095) → let t := a.onReg fun g => { g with pinBound := Sparse.insert g.pinBound i.toNat rid.toNat }
          Performs (.setUrgencySource p 1 i rid map) p 0xC245 s t (t.status 0 true)) ∧
        (∀ (i : BitVec 8) map, i.toNat ≤ 3 → let t := a.onReg fun g => { g with pinBound := Sparse.erase g.pinBound i.toNat }
          Performs (.setUrgencySource p 1 i 0xFFFF map) p 0xC245 s t (t.status 0 true)) ∧
        (∀ (i : BitVec 8) (rid : BitVec 16) map, (i.toNat ≤ 63 ∧ rid.toNat ≤ 4095) → let t := a.onReg fun g => { g with ceilings := Sparse.set 59 g.ceilings rid.toNat i.toNat }
          Performs (.setUrgencySource p 2 i rid map) p 0xC245 s t (t.status 0 true)) ∧
        ∀ (i : BitVec 8) rid (map : BitVec 24), let x := (bits map.toNat 7 0, bits map.toNat 15 8, bits map.toNat 23 16)
          (i.toNat ≤ x.1 ∧ x.1 ≤ x.2.1 ∧ x.2.1 ≤ x.2.2 ∧ x.2.2 ≤ 63) → let t := a.onClass i.toNat fun r => { r with map := some x }
          Performs (.setUrgencySource p 3 i rid map) p 0xC245 s t (t.status 0 true)))

/-- Where the command is served with no activation and no trial under way TRANSFER_FW initiates a transfer of a slot that does
not run, erasing it and leaving it invalid; continues it at the next offset; ends it with the image checked, where an image
that passes is stored valid with 0C01h and one that fails answers FW Authentication Failed with the slot invalid; and aborts
it. ACTIVATE_FW (online) of a slot with a stored image that does not run begins an activation outside recovery, and answers
Invalid Slot for the others; ACTIVATE_FW (offline) makes it the boot slot. GET_FW_INFO answers the slots; SET_FIRMWARE_POLICY
on a privileged path from 10 to 240 minutes stores the policy; GET_FIRMWARE_STATUS answers the state of the slots and of the
trial. (R380, R381, R383, R384, R385, R386, 12_service_processor.md) -/
def Obligations.FirmwareTransfers : Prop :=
  ∀ (s : State) (p : Path),
    let a := s.arrives p
    let free := a.purlin.fw.activation = none ∧ a.purlin.fw.trial ≠ .inTrial
    (s.serves p 0x0200 → Answers (.getFwInfo p) p 0x0200 s fun a out => fieldLe out 0 1 = 2 ∧ slice out 16 16 = a.purlin.fw.revision 1 ∧
      slice out 32 16 = a.purlin.fw.revision 2) ∧
    (∀ (slot : BitVec 8) data, (s.serves p 0x0201 ∧ free ∧ isSlot slot.toNat = true ∧ a.runningSlot ≠ some slot.toNat ∧ a.purlin.fw.transfer = none) → ∃ t,
      Performs (.transferFw p slot 1 0 data) p 0x0201 s t [] ∧ t.purlin.fw.transfer = some { slot := slot.toNat, next := data.length } ∧
      t.purlin.fw.slot slot.toNat = .invalid ∧ t.purlin.fw.boot = a.purlin.fw.boot ∧ t.purlin.fw.fused = a.purlin.fw.fused) ∧
    (∀ t (slot : BitVec 8) (offset : BitVec 32) data, (s.serves p 0x0201 ∧ free ∧ a.purlin.fw.transfer = some t ∧ offset.toNat * 128 = t.next ∧
        t.next + data.length ≤ 0x2000000) →
      let b := a.onFw fun f => { f.program t.slot t.next data with transfer := some { t with next := t.next + data.length } }
      Performs (.transferFw p slot 2 offset data) p 0x0201 s b [] ∧
      (slot.toNat = t.slot →
        (b.imageFault t.slot = none → ∃ u : State, Performs (.transferFw p slot 3 offset data) p 0x0201 s u [] ∧ u.purlin.fw.transfer = none ∧
          (t.slot = 1 ∨ t.slot = 2 → u.purlin.fw.slot t.slot = .valid)) ∧
        (∀ c, b.imageFault t.slot = some c → ∃ u : State, exec (.transferFw p slot 3 offset data) s = .next (u.answered p 0x0201 .authFailed []) ∧
          u.purlin.fw.transfer = none ∧ (t.slot = 1 ∨ t.slot = 2 → u.purlin.fw.slot t.slot = .invalid)))) ∧
    (∀ (slot : BitVec 8) offset data, (s.serves p 0x0201 ∧ free) → Performs (.transferFw p slot 4 offset data) p 0x0201 s
      (a.onFw fun f => { f with transfer := none }) []) ∧
    (∀ slot : BitVec 8, let b := a.startBackground p 0x0202
      (s.serves p 0x0202 ∧ Path.backgrounds p = true ∧ a.backgroundBusy (Path.carrier p) = false ∧ b.ready rdyRecovery = false ∧ b.purlin.fw.activation = none ∧
        b.activationRefused slot.toNat = false) → Begins (.activateFwOnline p slot) p 0x0202 s (b.beginActivation slot.toNat .command (some p))) ∧
    (∀ slot : BitVec 8, s.serves p 0x0202 →
      (a.activationRefused slot.toNat = false → ∃ t, Performs (.activateFwOffline p slot) p 0x0202 s t [] ∧ t.purlin.fw.boot = slot.toNat ∧
        t.purlin.fw.running = a.purlin.fw.running) ∧
      (a.activationRefused slot.toNat = true → TurnedAway (.activateFwOffline p slot) p 0x0202 s .invalidSlot)) ∧
    (∀ (minutes : BitVec 8) rollBack svn, (s.serves p 0xC302 ∧ Path.privileged p = true ∧ 10 ≤ minutes.toNat ∧ minutes.toNat ≤ 240) →
      let t := a.onFw fun f => { f with minutes := minutes.toNat, rollBack, svn }
      Performs (.setFirmwarePolicy p minutes rollBack svn) p 0xC302 s t (t.status 0 true)) ∧
    (s.serves p 0xC301 → Answers (.getFirmwareStatus p) p 0xC301 s fun a out => let f := a.purlin.fw
      ∀ x ∈ [(0, 2, 0), (2, 1, f.running), (3, 1, f.trial.code), (8, 1, f.fused), (9, 1, f.number 1), (10, 1, f.number 2), (11, 1, f.slot1.code + 16 * f.slot2.code),
        (12, 1, f.lastReason), (13, 1, f.minutes)], fieldLe out x.1 x.2.1 = x.2.2 % 256 ^ x.2.1)

/-- ACTIVATION_STAGED of an activation not yet paused checks its image: one that fails ends it with FW Authentication Failed, one
that passes starts the pause after the roles are handed on. HEALTH_WINDOW_END of a trial ends it, makes the running slot the
boot slot and raises the fused number to the image's where the policy says so. CORE_WATCHDOG_EXPIRY while firmware runs
counts the core's expiry; in a trial it fails the trial with reason 1. LOG_STORE_UPDATE of blocks 0 to 895 of a store that is
not read-only counts its words; a failed read-back retires the block and fails a trial. (R369, R382, R384, R385, R389, R390,
12_service_processor.md) -/
def Obligations.TrialsAndWatchdogs : Prop :=
  ∀ s : State,
    (∀ x, (s.purlin.fw.activation = some x ∧ x.paused = false) →
      (s.imageFault x.slot = none → ∃ t, exec .activationStaged s = .next t ∧ t.purlin.paused = true ∧ t.purlin.fw.activation = some { x with paused := true }) ∧
      (∀ c, s.imageFault x.slot = some c → exec .activationStaged s = .next ((((s.onFw fun f => f.setSlot x.slot .invalid).raiseAll 0x0C04 .warning
        (le 1 x.slot ++ le 1 c)).onFw fun f => { f with activation := none }).finishBackground x.path 0x0202 .authFailed []))) ∧
    (s.purlin.fw.trial = .inTrial → let f := s.purlin.fw
      let number := f.number f.running
      exec .healthWindowEnd s = .next (s.onFw fun f =>
        { f with trial := .none, boot := f.running, fused := if f.trialSvn && decide (f.fused < number) then number else f.fused })) ∧
    (∀ core : BitVec 2, (s.firmwareRuns = true ∧ s.purlin.paused = false ∧ s.hubRuns = true) → ∃ t, exec (.coreWatchdogExpiry core) s = .next t ∧
      t.purlin.totals = s.purlin.totals.set core.toNat (min (s.purlin.totals.getD core.toNat 0 + 1) 65535) ∧
      (s.purlin.fw.trial = .inTrial → t.purlin.fw.trial = .none ∧ t.purlin.fw.lastReason = 1 ∧
        (s.purlin.fw.trialRollBack = true → t.purlin.fw.activation = some { slot := 3 - s.purlin.fw.running, path := s.purlin.fw.activation.bind (·.path), kind := .rollBack }))) ∧
    (∀ (block : BitVec 10) (words : BitVec 16), (s.purlin.log.readOnly = false ∧ block.toNat < 896) →
      let t := s.onPurlin fun p => { p with log := { p.log with words := p.log.words + words.toNat, blockWrites := Sparse.modify 0 p.log.blockWrites block.toNat (· + 1) } }
      exec (.logStoreUpdate block words true) s = .next t ∧ exec (.logStoreUpdate block words false) s = .next (t.retireLogBlock.failTrial 2))

/-- Served GET_SLED_IDENTITY answers the model, stepping B0, home-agent ID, serial number, sled ID in a cascade, and the seconds;
GET_PURLIN_STATUS the cores that run, the totals, the pauses and the commands served. RELAY_COMMAND on a privileged path to a
reachable sled of the cascade waits under the next tag with its request sent; to a sled that is unknown or unreachable, or
outside CASCADE, it answers Retry Required; on other paths it is Unsupported and with a target above 1023 or more than 1,008
bytes it is Invalid Input. (R52, R366, R378, R391, 12_service_processor.md) -/
def Obligations.MailboxCommands : Prop :=
  ∀ (s : State) (p : Path),
    let a := s.arrives p
    (s.serves p 0xC000 → Answers (.getSledIdentity p) p 0xC000 s fun a out => ∀ f ∈ [(0, 2, 0), (2, 2, if a.small then 0x0400 else 0x0800), (4, 1, 0x10),
      (6, 2, a.homeId), (8, 8, a.serial.toNat), (32, 2, if a.casc.joined then a.me else 0), (36, 4, a.seconds)], fieldLe out f.1 f.2.1 = f.2.2 % 256 ^ f.2.1) ∧
    (s.serves p 0xC300 → Answers (.getPurlinStatus p) p 0xC300 s fun a out => fieldLe out 0 2 = 0 ∧ fieldLe out 2 1 = a.purlin.running.toNat % 256 ∧
      (a.purlin.totals.length = 4 → ∀ f ∈ [(12, 4, a.purlin.pauses), (16, 4, a.purlin.longestPause), (20, 8, a.purlin.served)], fieldLe out f.1 f.2.1 = f.2.2 % 256 ^ f.2.1)) ∧
    (∀ (target op : BitVec 16) payload, s.serves p 0xC002 →
      (Path.privileged p = false → TurnedAway (.relayCommand p target op payload) p 0xC002 s .unsupported) ∧
      (Path.privileged p = true →
        ((1023 < target.toNat ∨ 1008 < payload.length) → TurnedAway (.relayCommand p target op payload) p 0xC002 s .invalidInput) ∧
        ((target.toNat ≤ 1023 ∧ payload.length ≤ 1008) →
          let reached := s.ready rdyCascade = true ∧ (Sparse.find s.casc.map.routes target.toNat).isSome = true ∧ (s.peer target.toNat).st ≠ .unreachable
          (¬ reached → exec (.relayCommand p target op payload) s = .next (a.answered p 0xC002 .retryRequired (le 2 1 ++ zeros 6))) ∧
          (reached → exec (.relayCommand p target op payload) s = .next
            (((a.onPurlin fun x => { x with nextTag := (a.purlin.nextTag + 1) % 65536,
                                            relays := x.relays ++ [{ path := p, target := BitVec.ofNat 10 target.toNat, tag := a.purlin.nextTag }] }).enqueueSend
              target.toNat { kind := 6 } (mailboxPayload 1 (Path.relayOrigin p) op.toNat a.me a.purlin.nextTag 0 payload) true (.control 1)).onPurlin fun x =>
              { x with served := x.served + 1 })))))

/-- FIRMWARE_BOOT after the SRAM test runs the boot slot where its image passes, else the other slot, and with neither sets
RECOVERY. GROUP_ADMISSION with firmware and keys ready and no admission running passes over the groups held out and starts
the next group in order at the configured speed, and once the groups are settled a retry that is due.
GROUP_TRAINING_ATTEMPT_DONE of the group in admission withholds it with reason 3 where its switch did not settle and 4 where
its sensor does not read; with enough channels passed it fences the others and marks the group trained; with too few the
group falls to the next lower speed, and at the lowest is withheld with reason 1. GROUP_JOIN of a trained group joins it
where enough channels serve and else withholds it with reason 2. (R243, R244, R386, R394, R402, R403, R404, 13_bring_up.md) -/
def Obligations.BringUpSteps : Prop :=
  ∀ s : State,
    (∀ tests : BootTests, s.boot.step = .sramTested → let first := s.tryBoot s.purlin.fw.boot tests
      let second := first.1.tryBoot (3 - s.purlin.fw.boot) tests
      exec (.firmwareBoot tests) s = .next (if first.2 then first.1.runFirmware s.purlin.fw.boot s.purlin.fw.boot tests
        else if second.2 then second.1.runFirmware (3 - s.purlin.fw.boot) s.purlin.fw.boot tests else second.1.setReady rdyRecovery true)) ∧
    (s.admits = true → let t := State.advance 17 s
      (∀ g, (t.ready rdySettled = false ∧ t.nextGroup = some g) → exec .groupAdmission s = .next
        (t.onBoot fun b => { b with admission := some { group := g, speed := t.dram.speed } })) ∧
      (∀ g, (t.ready rdySettled = true ∧ t.nextRetry = some g) → exec .groupAdmission s = .next
        (t.onBoot fun b => { b with retried := b.retried ||| BitVec.ofNat 16 (2 ^ g), admission := some { group := g, speed := t.dram.speed, retry := true } }))) ∧
    (∀ (g : GroupId) (x : Admission) (passed step rank : BitVec 8), (s.boot.admission = some x ∧ x.group = g.toNat ∧ x.trained = false) →
      (∀ valid, exec (.groupTrainingAttemptDone g passed step rank false valid) s = .next ((s.attemptFailed x 9 0).failAdmission x 3 0)) ∧
      exec (.groupTrainingAttemptDone g passed step rank true false) s = .next (s.failAdmission x 4 passed.toNat) ∧
      (enoughChannels passed.toNat x.speed = true → let t := foldState (fun s i => s.fenceAtTraining (8 * x.group + i) x.speed step.toNat rank.toNat) s ((List.range 8).filter fun i => !bitAt passed.toNat i)
        exec (.groupTrainingAttemptDone g passed step rank true true) s = .next
          ((t.onBoot fun b => { b with admission := some { x with trained := true, passed } }).progress x.path opRetryGroup 33)) ∧
      ((enoughChannels passed.toNat x.speed = false ∧ x.speed < 2) → exec (.groupTrainingAttemptDone g passed step rank true true) s = .next
        ((s.attemptFailed x step.toNat passed.toNat).onBoot fun b => { b with admission := some { x with speed := x.speed + 1 } })) ∧
      ((enoughChannels passed.toNat x.speed = false ∧ 2 ≤ x.speed) → exec (.groupTrainingAttemptDone g passed step rank true true) s = .next
        ((s.attemptFailed x step.toNat passed.toNat).failAdmission x 1 passed.toNat))) ∧
    (∀ (x : Admission) (codecs : BitVec 8) (repairs : BitVec 128), (s.boot.admission = some x ∧ x.trained = true) →
      let serving := maskOf 8 fun i => bitAt x.passed.toNat i && !bitAt codecs.toNat i
      let t := s.applyRepairs x.group x.passed.toNat repairs.toNat
      let t := foldState (fun s i => ((s.onChannel (8 * x.group + i) fun c => { c with fenced := true }).raiseAll 0x080F .failure
        (le 1 (8 * x.group + i) ++ le 2 (Config.failingVector (8 * x.group + i)).toNat))) t ((List.range 8).filter fun i => bitAt x.passed.toNat i && bitAt codecs.toNat i)
      exec (.groupJoin codecs repairs) s = .next (if enoughChannels serving x.speed then t.joinGroup x serving
        else (t.attemptFailed x 8 serving).failAdmission x 2 serving))

/-- Served GET_BRINGUP_STATUS answers the groups joined, withheld and held out and the milestones. On a privileged path
RETRY_GROUP_ADMISSION of a withheld group whose reason is not 5, once the groups are settled and with no admission running
and no retry due, starts its admission in the background; SET_GROUP_ADMISSION 1 holds a group out of the next bring-up and 0
lets it in, unless no group would be left. (R399, R403, R404, R405, 13_bring_up.md) -/
def Obligations.BringUpCommands : Prop :=
  ∀ (s : State) (p : Path),
    let a := s.arrives p
    (s.serves p 0xC340 → Answers (.getBringupStatus p) p 0xC340 s fun a out => ∀ f ∈ [(0, 2, 0), (2, 2, a.cap.joined.toNat), (4, 2, a.cap.withheld.toNat),
      (6, 2, a.boot.heldOut.toNat), (8, 1, (a.boot.admission.map (·.group)).getD 255), (12, 4, a.boot.msPower.getD 0xFFFFFFFF), (16, 4, a.boot.msFw.getD 0xFFFFFFFF),
      (20, 4, a.boot.msStatic.getD 0xFFFFFFFF), (24, 4, a.boot.msSettled.getD 0xFFFFFFFF)], fieldLe out f.1 f.2.1 = f.2.2 % 256 ^ f.2.1) ∧
    (Path.privileged p = true →
      (∀ g : BitVec 8, let b := a.startBackground p opRetryGroup
        (s.serves p 0xC341 ∧ Path.backgrounds p = true ∧ a.backgroundBusy (Path.carrier p) = false ∧ g.toNat ≤ 15 ∧ b.ready rdySettled = true ∧
          b.groupWithheld g.toNat = true ∧ Sparse.get 0 b.boot.reasons g.toNat ≠ 5 ∧ b.boot.admission = none ∧ b.nextRetry = none) →
        Begins (.retryGroupAdmission p g) p 0xC341 s
          ((b.onBoot fun x => { x with admission := some { group := g.toNat, speed := b.dram.speed, retry := true, path := some p } }).progress (some p) opRetryGroup 16)) ∧
      (∀ g action : BitVec 8, let bit := BitVec.ofNat 16 (2 ^ g.toNat)
        let new := if action = 1 then a.boot.heldOut ||| bit else a.boot.heldOut &&& ~~~ bit
        let t := a.onBoot fun b => { b with heldOut := new }
        s.serves p 0xC342 →
          ((g.toNat ≤ 15 ∧ action.toNat ≤ 1 ∧ new ≠ 0xFFFF) → Performs (.setGroupAdmission p g action) p 0xC342 s t
            (t.status (if bitAt new.toNat g.toNat == bitAt a.boot.heldOutNow.toNat g.toNat then 0 else 1) true)) ∧
          ((15 < g.toNat ∨ 1 < action.toNat ∨ new = 0xFFFF) → TurnedAway (.setGroupAdmission p g action) p 0xC342 s .invalidInput)))

/-- A port that serves, with room in its store partition and the sled out of Watch: MEMRD, MEMRDDATA, MEMWR and MEMWRPTL of a
device that is not draining clear the consent of the device and enter the store with the context, class and urgency of their
source where an accepted extent holds their line or the cascade window does, and get a decode error where neither does; of a
draining device they are discarded and counted. A MEMWRPTL with all 64 enables is a full-line write. MEMSPECRD changes
nothing; UNSUPPORTED_M2S_OPCODE is a protocol error of its port; REQUEST_ISSUE issues the head of the queue chosen (a host's
at the course that its line names now, with a decode error where none does), where fewer than 4,096 requests are out and no
throttle stage keeps the slot back. (R21, R25, R29, R43, R58, R201, R289, R294, R306, 01_host_view.md,
09_queues_and_regulation.md) -/
def Obligations.HostRequests : Prop :=
  ∀ (s : State) (m : MemReq),
    (∀ op, s.portServes m.port = true → exec (.unsupportedM2sOpcode m.port op) s =
      .next ((s.onHost fun h => { h with protocolErrors := h.protocolErrors + 1 }).emit (.protocolError m.port))) ∧
    (exec (.memspecrd m) s = .next s) ∧
    (∀ qn strict out r rest, (s.reg.inFlight.length < 4096 ∧ s.issueBarred = false ∧ s.choose = some (qn, strict, out) ∧ (s.queue qn).requests = r :: rest) →
      let owner := match r.origin with | .host _ _ => some r.ld | _ => none
      let t := (s.takeHead qn strict out r).onReg fun g => { g with inFlight := g.inFlight ++ [(r.id, owner, false)], lastIssue := some (s.takeHead qn strict out r).clock }
      exec .requestIssue s = .next (match r.origin with
        | .host p tag => if r.cascade then t.serve r else match t.courseOf r.ld r.dpa with
          | some c => t.serve { r with course := c }
          | none => (t.landed r).emit (.decodeError p tag)
        | _ => t.serve r)) ∧
    let w := s.wakeDrowse 1
    let l := w.ldOf m.port m.ldid
    let rid := w.ridOf m.port m.ldid m.pbr
    let b := w.onEaves fun e => { e with consent := e.consent &&& ~~~ BitVec.ofNat 32 (2 ^ l.toNat), wholeConsent := e.wholeConsent && !w.host.gfam }
    let dpa := m.addr.toNat / 64 * 64
    let request (kind : ReqKind) (data : List Byte) (enables : BitVec 64) : Request :=
      let ctx := b.contextOf m.port m.ckid rid.toNat
      let base := b.baseClass ctx l rid.toNat
      let u := b.urgencyOf rid.toNat
      { kind, origin := .host m.port m.tag, ld := l, rid := rid.setWidth 16, ctx, cls := BitVec.ofNat 6 (b.effClass rid.toNat base.toNat u), base, dpa,
        line := dpa / 64 % 64, data := slice data 0 64, enables, arrived := b.clock, urgency := u }
    let v := b.countBytes (portNat m.port) 64 0
    let away (t : State) (x : Nat) (read : Bool) : Bool := match t.resolve x read with | some y => decide (y.1 ≠ t.me) | none => true
    let Arrives (c : Instr) (t : State) (r : Request) : Prop :=
      ((b.ld l.toNat).drain = none → (∀ k, t.courseOf l dpa = some k → exec c s = .next (t.enqueue { r with course := k })) ∧
        (∀ x, (t.courseOf l dpa = none ∧ t.cascadeCourse l dpa = some x) → exec c s =
          .next (t.enqueue { r with cascade := true, global := x, remote := away t x (r.kind == .read) })) ∧
        ((t.courseOf l dpa = none ∧ t.cascadeCourse l dpa = none) → exec c s = .next (t.emit (.decodeError m.port m.tag)))) ∧
      ((b.ld l.toNat).drain ≠ none → exec c s = .next (b.onLd l.toNat fun x => { x with drain := x.drain.map fun d => { d with discarded := d.discarded + 1 } }))
    (s.portServes m.port = true ∧ w.storeRoom (w.usedBy (portNat m.port)) = true ∧ s.eaves.exiting = false) →
      Arrives (.memrd m) b (request .read [] 0) ∧ Arrives (.memrddata m) b (request .read [] 0) ∧
      (∀ data, Arrives (.memwr m data) v (request .write data (BitVec.allOnes 64))) ∧
      ∀ data enables, Arrives (.memwrptl m data enables) v (request (if enables = BitVec.allOnes 64 then .write else .partialWrite) data enables)

/-- PERST_ASSERT notes the pin and, unless the x16 strap takes the port away, puts the port into reset, stops its IDE, disables
its devices and takes its link down, waking the sled from Watch; PERST_RELEASE notes the pin and the reference clock, samples
the x16 strap on HP0, releases WAKE# and lets the port train. HOST_LINK_UP of a port out of reset in Active with the hub
released puts the link up at its rate and sets its READINESS bit; HOST_LINK_DOWN takes it down. On a link that is up
LINK_L1_ENTRY enters L1 (not from L2) and LINK_L2_ENTRY stops IDE and enters L2; LINK_L1_EXIT leaves L1;
LINK_ELECTRICAL_IDLE_EXIT wakes the sled from Watch. (R22, R23, R43, R395, R397, R398, R417, R420, R422, R492, R493, R500) -/
def Obligations.HostLinks : Prop :=
  ∀ (s : State) (port : HostPort),
    (let t := s.onConn fun c => match port with | .hp0 => { c with perst0 := true } | .hp1 => { c with perst1 := true }
     let u := ((t.wakeWatch 6).stopIde port).onPort port fun x => { x with inReset := true }
     (s.absentPort port = true → exec (.perstAssert port) s = .next t) ∧
     (s.absentPort port = false → exec (.perstAssert port) s = .next ((foldState (fun s l => s.disableLd l false) u (u.ldsOfPort port)).dropLink port))) ∧
    (∀ refclk, (port = .hp1 ∧ s.absentPort port = false) → exec (.perstRelease port refclk) s = .next
      (((s.onConn fun c => { c with perst1 := false, refclk1 := refclk, oscillator1 := !refclk, wake1 := false }).wakeWatch 6).onPort port fun x => { x with inReset := false })) ∧
    (∀ refclk, port = .hp0 → exec (.perstRelease port refclk) s = .next
      ((((s.onConn fun c => { c with perst0 := false, refclk0 := refclk, oscillator0 := !refclk, wake0 := false }).sampleX16).wakeWatch 6).onPort port fun x => { x with inReset := false })) ∧
    (∀ rate, (s.absentPort port = false ∧ (s.port port).inReset = false ∧ s.boot.step ≠ .off ∧ s.eaves.st = .active) → ∃ t, exec (.hostLinkUp port rate) s = .next t ∧
      t = (s.onPort port fun x => { x with up := true, rate, l1 := false, l2 := false, failed := false }).linkBit port true ∧ (t.port port).up = true ∧ (t.port port).rate = rate) ∧
    (exec (.hostLinkDown port) s = .next (s.dropLink port)) ∧
    ((s.port port).up = true → ((s.port port).l2 = false → exec (.linkL1Entry port) s = .next (s.onPort port fun x => { x with l1 := true })) ∧
      exec (.linkL2Entry port) s = .next ((s.stopIde port).onPort port fun x => { x with l1 := false, l2 := true })) ∧
    (exec (.linkL1Exit port) s = .next (s.onPort port fun x => { x with l1 := false })) ∧
    (s.absentPort port = false → exec (.linkElectricalIdleExit port) s = .next (s.wakeWatch 6))

/-- Served with FLASHING_READY set ESTABLISH_WRAPPING_KEY with an owner key on the curve draws an ephemeral key, sets the path's
wrapping key from the exchange and answers the public key and the attestation; with any other key it is Invalid Input.
LOAD_CONTEXT_KEY loads as R206's table says. DESTROY_CONTEXT_KEY of a context other than 0 that the path may name destroys
both generations; with discard it runs in the background and its walk is queued. Before FLASHING_READY each is Busy. On a
privileged path of a ridge with no rotation under way ROTATE_RAFTER_KEY begins one in the background, and
SET_CONTEXT_ATTRIBUTES of context 0 sets its class, and of another without courses its class and its owner. (R203, R204,
R206, R208, R218, R226, R227, 06_flashing.md) -/
def Obligations.KeyCommands : Prop :=
  ∀ (s : State) (p : Path),
    let a := s.arrives p
    (∀ key, (s.serves p 0xC181 ∧ a.ready rdyFlashing = true) → let owner := slice key 0 96
      (Crypto.onCurve (Crypto.pointOf owner) = true → let x := a.ephemeral
        Performs (.establishWrappingKey p key) p 0xC181 s (x.2.setWrapKey (Path.keyPath p) (x.2.wrapFrom x.1 owner))
          (le 2 0 ++ zeros 2 ++ publicKey x.1 ++ attest (owner ++ publicKey x.1))) ∧
      (Crypto.onCurve (Crypto.pointOf owner) = false → TurnedAway (.establishWrappingKey p key) p 0xC181 s .invalidInput)) ∧
    (∀ (ctx : BitVec 13) next wrapped, (s.serves p 0xC182 ∧ a.ready rdyFlashing = true) →
      let x := a.loadKey (Path.keyPath p) (a.scope p) ((a.sourceRid p).getD 0xFFFF) ctx.toNat next wrapped
      exec (.loadContextKey p ctx next wrapped) s = .next (x.1.answered p 0xC182 x.2.1 x.2.2)) ∧
    (∀ ctx : BitVec 13, (s.serves p 0xC183 ∧ a.ready rdyFlashing = true ∧ ctx ≠ 0 ∧ a.mayName (a.scope p) ctx.toNat = true) →
      Performs (.destroyContextKey p ctx false) p 0xC183 s (a.destroyKey ctx.toNat ((a.sourceRid p).getD 0xFFFF)) (le 2 0 ++ zeros 2 ++ le 4 (a.ctx ctx.toNat).courses ++ le 4 0)) ∧
    (∀ ctx : BitVec 13, let b := a.startBackground p 0xC183
      (s.serves p 0xC183 ∧ Path.backgrounds p = true ∧ a.backgroundBusy (Path.carrier p) = false ∧ b.ready rdyFlashing = true ∧ ctx ≠ 0 ∧
        b.mayName (b.scope p) ctx.toNat = true) →
      Begins (.destroyContextKey p ctx true) p 0xC183 s ((b.destroyKey ctx.toNat ((b.sourceRid p).getD 0xFFFF)).onFlash fun f =>
        { f with destroys := f.destroys ++ [{ ctx := ctx.toNat, path := some p, owned := (b.ctx ctx.toNat).courses }] })) ∧
    (∀ key ctx next wrapped, a.ready rdyFlashing = false →
      (s.serves p 0xC181 → TurnedAway (.establishWrappingKey p key) p 0xC181 s .busy) ∧ (s.serves p 0xC182 → TurnedAway (.loadContextKey p ctx next wrapped) p 0xC182 s .busy) ∧
      (s.serves p 0xC183 → TurnedAway (.destroyContextKey p ctx false) p 0xC183 s .busy)) ∧
    (Path.privileged p = true → let b := a.startBackground p 0xC188
      ((s.serves p 0xC188 ∧ Path.backgrounds p = true ∧ a.backgroundBusy (Path.carrier p) = false ∧ b.casc.role = .ridge ∧ b.flash.rotation = none ∧ b.ready rdyFlashing = true) →
        Begins (.rotateRafterKey p) p 0xC188 s (b.beginRotation (some p))) ∧
      (∀ (ctx : BitVec 13) (cls owner : BitVec 8), (s.serves p 0xC185 ∧ cls.toNat < 64 ∧ (ctx = 0 ∨ (a.ctx ctx.toNat).courses = 0)) →
        let x := a.ctx ctx.toNat
        let t := a.onCtx ctx.toNat fun x => { x with cls := BitVec.ofNat 6 cls.toNat }
        Performs (.setContextAttributes p ctx cls owner) p 0xC185 s
          (if ctx = 0 then t else t.onCtx ctx.toNat fun x => { x with owned := bitAt owner.toNat 7, owner := BitVec.ofNat 5 owner.toNat })
          (le 2 0 ++ le 1 x.cls.toNat ++ le 1 x.ownerByte)))

/-- Served GET_FLASHING_STATUS answers the counters of chapter 06 and the link key ID in use; GET_CONTEXT of a context that the
path may name answers its state, counters, limit and courses. START_REKEY with FLASHING_READY set, of a context whose current
generation is loaded and whose other is not retiring, starts the rekey; while the other retires it is Busy.
SET_WRITE_COUNTER_LIMIT from 2^32 to 2^40 of a context that the path may name sets the limit (the contexts being in canonical
form) and lets a counter at or past a mark act at once, and outside that range is Invalid Input. REKEY_PASS_COURSE and
DESTROY_DISCARD_WALK_STEP take the next course of the first pass or walk; where no bound course is left the walk ends with
Success. (R212, R213, R215, R217, R224, R225, 06_flashing.md) -/
def Obligations.ContextCommands : Prop :=
  ∀ (s : State) (p : Path),
    let a := s.arrives p
    (s.serves p 0xC180 → Answers (.getFlashingStatus p) p 0xC180 s fun a out => ∀ f ∈ [(0, 2, 0), (16, 8, a.flash.encrypted), (24, 8, a.flash.decrypted),
      (32, 8, a.flash.wrongReads), (40, 8, a.flash.wrongWrites), (48, 8, a.flash.noKeyWrites), (56, 8, a.flash.early), (64, 8, a.flash.tagFailures),
      (72, 1, a.flash.linkId.toNat)], fieldLe out f.1 f.2.1 = f.2.2 % 256 ^ f.2.1) ∧
    (∀ ctx : BitVec 13, (s.serves p 0xC184 ∧ a.mayName (a.scope p) ctx.toNat = true) → Answers (.getContext p ctx) p 0xC184 s fun a out => let x := a.ctx ctx.toNat
      ∀ f ∈ [(0, 2, 0), (4, 4, x.toBits), (8, 8, x.g0.counter), (16, 8, x.g1.counter), (24, 8, x.limit), (32, 4, x.courses)], fieldLe out f.1 f.2.1 = f.2.2 % 256 ^ f.2.1) ∧
    (∀ ctx : BitVec 13, let x := a.ctx ctx.toNat
      (s.serves p 0xC186 ∧ a.ready rdyFlashing = true ∧ a.mayName (a.scope p) ctx.toNat = true ∧ (x.gen x.cur).st = .loaded) →
      ((x.gen (!x.cur)).st = .retiring → TurnedAway (.startRekey p ctx) p 0xC186 s .busy) ∧
      ((x.gen (!x.cur)).st ≠ .retiring → let t := a.startRekeyOf ctx.toNat 2
        Performs (.startRekey p ctx) p 0xC186 s t
          (le 2 0 ++ le 1 (b2n (!x.cur)) ++ le 1 (if (x.gen (!x.cur)).st = .loaded then 1 else 2) ++ le 2 (t.rekeyPosition ctx.toNat)))) ∧
    (∀ (ctx : BitVec 13) (limit : BitVec 64), (s.serves p 0xC187 ∧ a.mayName (a.scope p) ctx.toNat = true) →
      ((2 ^ 32 ≤ limit.toNat ∧ limit.toNat ≤ 2 ^ 40) → let c := ctx.toNat
        let fresh (g : Generation) : Generation := { g with limitRaised := g.limitRaised && decide (limit.toNat ≤ g.counter) }
        let t := a.onCtx c fun x => { x with limit := limit.toNat, g0 := fresh x.g0, g1 := fresh x.g1 }
        let cur := (t.ctx c).cur
        let g := (t.ctx c).gen cur
        let marked := g.st == .loaded && decide (limit.toNat - limit.toNat / 8 ≤ g.counter)
        let u := if marked then t else t.onCtx c fun x => { x with deferred := false }
        let v := (u.countWrites c cur 0).countWrites c (!cur) 0
        let w := if (v.ctx c).cur = cur then v else v.countWrites c cur 0
        let y := w.ctx c
        let reached := (y.gen (!y.cur)).st == .retiring && (decide (limit.toNat ≤ (y.gen (!y.cur)).counter) || decide (limit.toNat ≤ (y.gen y.cur).counter))
        (Sparse.wf {} a.flash.contexts = true → (t.ctx c).limit = limit.toNat) ∧
          Performs (.setWriteCounterLimit p ctx limit) p 0xC187 s w (le 2 (b2n marked + 2 * b2n reached))) ∧
      ((limit.toNat < 2 ^ 32 ∨ 2 ^ 40 < limit.toNat) → TurnedAway (.setWriteCounterLimit p ctx limit) p 0xC187 s .invalidInput)) ∧
    (∀ r, s.flash.pass = some r → (s.boundFrom r.w = none → exec .rekeyPassCourse s = .next (s.endRekey r)) ∧
      (∀ c, s.boundFrom r.w = some c → let t := if (s.cachedBatten c).isSome then s else s.readTableSlot c 10
        let b := t.view c
        let cur := (t.ctx r.ctx).cur
        let cs := if b.tier = .thatched then t.bundleNamed c b else [c]
        let waits := cs.any (fun x => t.gathered x || t.isLocked x || t.moveHolds x) || t.runBusy b.run
        ((b.tier = .absent ∨ b.ctx.toNat ≠ r.ctx) → exec .rekeyPassCourse s = .next (t.stepPass r c 0 0)) ∧
        ((b.tier ≠ .absent ∧ b.ctx.toNat = r.ctx) →
          (b.gen = cur → exec .rekeyPassCourse s = .next ((if b.early then t.commit c { t.batten c with early := false } else t).stepPass r c 0
            (b2n (b.tier != .thatched || b.early || (if b.early then t.commit c { t.batten c with early := false } else t).bundleLead c b)))) ∧
          (b.gen ≠ cur → exec .rekeyPassCourse s = .next (if waits then t else (foldState State.abandonMove t cs).rekeyCourse r c cs cur))))) ∧
    (∀ d rest, s.flash.destroys = d :: rest →
      (s.abortWanted d.path 0xC183 = true → exec .destroyDiscardWalkStep s = .next (s.endDestroy d .aborted)) ∧
      ((s.abortWanted d.path 0xC183 = false ∧ s.boundFrom d.w = none) → exec .destroyDiscardWalkStep s = .next (s.endDestroy d .success)) ∧
      (∀ c, (s.abortWanted d.path 0xC183 = false ∧ s.boundFrom d.w = some c) →
        let t := if (s.cachedBatten c).isSome then s else s.readTableSlot c 11
        let u := if (t.view c).tier ≠ .absent ∧ (t.view c).ctx.toNat = d.ctx then t.discardCourse c else (t, false, false)
        let e := { d with w := c + 1, discarded := d.discarded + b2n u.2.1 }
        let v := (u.1.onFlash fun f => { f with destroys := e :: rest }).progress d.path 0xC183 ((u.1.onFlash fun f => { f with destroys := e :: rest }).boundPercent e.w)
        exec .destroyDiscardWalkStep s = .next (if v.boundFrom e.w = none then v.endDestroy e .success else v)))

/-- Out of a Watch exit, on a port that serves: IDE_INTEGRITY_FAILURE of a running stream counts the failure and stops the port's
streams; CXL_IDE_KM and PCIE_IDE_KM messages of objects 2, 4 and 5 program a key, start and stop their stream and are
answered (the message layout is the model's, log entry 31); SPDM_GET_CERTIFICATE answers the bytes of the chain asked for.
For a device that exists TSP_SET_KEY, TSP_REPLACE_KEY and TSP_CLEAR_KEY with FLASHING_READY set load, replace and destroy a
context's key and answer on their session; any other request is an error. (R203, R205, R219, R422, 06_flashing.md) -/
def Obligations.SecureLinksAndTsp : Prop :=
  ∀ (s : State) (port : HostPort) (ld : LdId) (session : BitVec 16), s.eaves.exiting = false →
    ((s.portServes port = true ∧ ((s.ide port).cxlRunning = true ∨ (s.ide port).pcieRunning = true)) →
      exec (.ideIntegrityFailure port) s = .next ((s.onIde port fun x => { x with failures := x.failures + 1 }).stopIde port)) ∧
    (s.portServes port = true →
      (∀ offset length : BitVec 16, exec (.spdmGetCertificate port offset length) s =
        .next (s.emit (.doe port ((List.range length.toNat).map fun i => Config.chain (offset.toNat + i))))) ∧
      (∀ m, (m.getD 1 0).toNat = 2 → exec (.cxlIdeKm port m) s =
          .next ((s.onIde port fun x => { x with cxlKeys := putIdeKey x.cxlKeys m }).emit (.doe port (le 1 0 ++ le 1 3 ++ slice m 2 6))) ∧
        exec (.pcieIdeKm port m) s = .next ((s.onIde port fun x => { x with pcieKeys := putIdeKey x.pcieKeys m }).emit (.doe port (le 1 0 ++ le 1 3 ++ slice m 2 6)))) ∧
      (∀ m, (m.getD 1 0).toNat = 4 → exec (.cxlIdeKm port m) s =
          .next ((s.onIde port fun x => { x with cxlRunning := true }).emit (.doe port (le 1 0 ++ le 1 6 ++ slice m 2 6))) ∧
        exec (.pcieIdeKm port m) s = .next ((s.onIde port fun x => { x with pcieRunning := true }).emit (.doe port (le 1 0 ++ le 1 6 ++ slice m 2 6)))) ∧
      (∀ m, (m.getD 1 0).toNat = 5 → exec (.cxlIdeKm port m) s =
          .next ((s.onIde port fun x => { x with cxlRunning := false }).emit (.doe port (le 1 0 ++ le 1 6 ++ slice m 2 6))) ∧
        exec (.pcieIdeKm port m) s = .next ((s.onIde port fun x => { x with pcieRunning := false }).emit (.doe port (le 1 0 ++ le 1 6 ++ slice m 2 6))))) ∧
    ((s.portServes (ldPort ld) = true ∧ s.ldExists ld = true) →
      (∀ op, exec (.tspUnsupportedRequest ld session op) s = .next (s.emit (.tspError ld session))) ∧
      (s.ready rdyFlashing = true →
        (∀ (ctx : BitVec 13) wrapped, let x (next : Bool) := s.loadKey (.session ld session) (some ld) (s.ridOfLd ld).toNat ctx.toNat next wrapped
          exec (.tspSetKey ld session ctx wrapped) s = .next ((x false).1.emit (.tsp ld session (x false).2.1 (x false).2.2)) ∧
          exec (.tspReplaceKey ld session ctx wrapped) s = .next ((x true).1.emit (.tsp ld session (x true).2.1 (x true).2.2))) ∧
        (∀ ctx : BitVec 13, (ctx ≠ 0 ∧ s.mayName (some ld) ctx.toNat = true) → exec (.tspClearKey ld session ctx) s =
          .next ((s.destroyKey ctx.toNat (s.ridOfLd ld).toNat).emit (.tsp ld session .success [])))))

/-- RIDGE_CLAIM_MESSAGE on a hop that is up is kept, and one better than any heard and than the own claim is flooded on; a ridge
that meets a higher term gives up the role. RIDGE_CLAIM_TIMEOUT of a sled outside a cascade with a hop makes it the ridge
where its own claim is the best and else asks the best claimant to join. HEARTBEAT_SEND of a ridge with a deputy sends;
HEARTBEAT_RECEIVED and RIDGE_TERM_ANNOUNCE raise the highest term seen, and a member follows an announcement of it;
HEARTBEAT_TIMEOUT makes a deputy the ridge of the next term. MAP_CHANGE_ACK at the ridge and CASCADE_MAP_UPDATE and
ROUTE_UPDATE bring changes into force; JOIN_REQUEST at the ridge and JOIN_COMPLETE at a joiner act; UNREACHABLE_PAIR_REPORT
probes, MEMBER_PROBE_TIMEOUT declares a probed member lost. LINK_KEY_CONFIRMATION records a confirmation at the ridge and at
a member takes, switches to or withdraws a key. MIRROR_COPY executes a copy taken in order, RESILVER_STEP copies the next
course. (R222, R324, R350, R352, R353, R354, R355, R361, R364, R365, 11_cascade.md) -/
def Obligations.CascadeMessages : Prop :=
  ∀ s : State,
    (∀ (port : RaftPort) claim, (s.awake = true ∧ s.hopUp port.toNat = true) →
      let t := if s.casc.role = .ridge ∧ s.casc.term < claim.term.toNat then s.stepDown else s
      let best := match t.casc.best, t.ownClaim with
        | some b, some o => some (if betterClaim b o then b else o)
        | some b, none => some b
        | none, o => o
      let better := best.all (betterClaim claim)
      let u := t.onCasc fun c => { c with
        claims := (c.claims.filter fun x => x.id != claim.id) ++ [claim]
        highest := max c.highest claim.term.toNat
        best := if better then some claim else c.best }
      exec (.ridgeClaimMessage port claim) s = .next (if better then u.emit (.control none (.claim claim)) else u)) ∧
    ((s.casc.joined = false ∧ s.anyHop = true) →
      (∀ o, (s.ownClaim = some o ∧ ∀ b, s.casc.best = some b → betterClaim b o = false) → exec .ridgeClaimTimeout s = .next (s.becomeRidge o.id.toNat)) ∧
      (∀ b, (s.casc.best = some b ∧ ∀ o, s.ownClaim = some o → betterClaim b o = true) → exec .ridgeClaimTimeout s = .next (s.askJoin b.id))) ∧
    (∀ d, (s.casc.role = .ridge ∧ s.casc.deputy = some d) → exec .heartbeatSend s = .next (s.emit (.control (some d) (.heartbeat s.casc.term)))) ∧
    (∀ src (term : BitVec 32), exec (.heartbeatReceived src term) s = .next ((if s.casc.role = .ridge ∧ s.casc.term < term.toNat then s.stepDown else s).onCasc
      fun c => { c with highest := max c.highest term.toNat })) ∧
    (s.casc.role = .deputy → exec .heartbeatTimeout s = .next (s.takeRole (s.casc.term + 1))) ∧
    (∀ src (term : BitVec 32) deputy, s.casc.highest ≤ term.toNat →
      let handed := s.casc.role = .deputy ∧ src = s.casc.sledId ∧ s.casc.term < term.toNat
      let t := (if s.casc.term < term.toNat then s.stepDown else s).onCasc fun c => { c with highest := max c.highest term.toNat }
      let u := t.onCasc fun c => { c with
        ridge := src, term := term.toNat, deputy
        role := if c.role = .ridge then .ridge else if deputy = some c.sledId then .deputy else .member }
      (handed → exec (.ridgeTermAnnounce src term deputy) s = .next (s.takeRole term.toNat)) ∧
      ((¬ handed ∧ t.casc.joined = true) → exec (.ridgeTermAnnounce src term deputy) s =
        .next (if s.casc.ridge ≠ src then u.ridgeChanged (if s.casc.deputy = some src then 2 else 1) else u)) ∧
      ((¬ handed ∧ t.casc.joined = false) → exec (.ridgeTermAnnounce src term deputy) s = .next (t.onCasc fun c => { c with
        best := some (match c.best with | some b => if b.term.toNat ≤ term.toNat then { b with term, id := src } else b | none => { term, id := src }) }))) ∧
    (∀ src (term : BitVec 32) deputy, term.toNat < s.casc.highest → exec (.ridgeTermAnnounce src term deputy) s = .next s) ∧
    (∀ src version, (s.casc.role = .ridge ∧ s.casc.deputy = some src) → exec (.mapChangeAck src version) s = .next (s.acknowledged version.toNat)) ∧
    (∀ src (u : MapUpdate), (s.casc.joined = true ∧ s.casc.role ≠ .ridge ∧ s.casc.highest ≤ u.term.toNat ∧ src = s.casc.ridge) → let t := s.applyMap (mapOfImage u.map)
      exec (.cascadeMapUpdate src u) s = .next (if t.casc.role = .deputy then t.emit (.control (some src) (.mapAck u.map.version.toNat)) else t)) ∧
    (∀ src (term : BitVec 32) neighbours routes, s.casc.joined = true →
      let report (ms : Sparse Member) : Sparse Member := ms.map fun x => match neighbours.find? fun n => n.1.toNat == x.1 with
        | some n => (x.1, { x.2 with neighbours := n.2 })
        | none => x
      (s.casc.role = .ridge → exec (.routeUpdate src term neighbours routes) s = .next (s.propose { map := { s.latestMap with members := report s.latestMap.members } })) ∧
      ((s.casc.role ≠ .ridge ∧ s.casc.highest ≤ term.toNat ∧ src = s.casc.ridge) → exec (.routeUpdate src term neighbours routes) s = .next (s.onCasc fun c =>
        { c with map := { c.map with members := report c.map.members, routes := routes.foldl (fun t x => Sparse.set 0 t x.1.toNat x.2) c.map.routes } }))) ∧
    (∀ (port : RaftPort) join, (s.awake = true ∧ s.hopUp port.toNat = true ∧ s.casc.role = .ridge) → exec (.joinRequest port join) s = .next (s.join join)) ∧
    (∀ grant, s.casc.joined = false → exec (.joinComplete grant) s = .next (s.takeGrant grant)) ∧
    (∀ src member, s.casc.role = .ridge → exec (.unreachablePairReport src member) s = .next (s.probe member.toNat) ∧
      (member ∈ s.casc.probes → exec (.memberProbeTimeout member) s = .next (s.declareLost member.toNat))) ∧
    (∀ src keyId wrapped, s.casc.role = .ridge →
      exec (.linkKeyConfirmation src keyId false wrapped) s = .next ((s.onFlash fun f => { f with rotation := f.rotation.map fun r =>
        if r.newId ≠ keyId then r else { r with confirmed := r.confirmed.filter (· != src) ++ [src] } }).settleRotation) ∧
      exec (.linkKeyConfirmation src keyId true wrapped) s = .next ((s.onFlash fun f => { f with rotation := f.rotation.map fun r =>
        if r.newId ≠ keyId then r else { r with stopped := r.stopped.filter (· != src) ++ [src] } }).settleRotation)) ∧
    (∀ src keyId, (s.casc.joined = true ∧ s.casc.role ≠ .ridge ∧ src = s.casc.ridge) →
      (∀ stopped wrapped key, (wrapped ≠ [] ∧ ((s.wrapKey (.member src)).bind fun k => Crypto.keyUnwrap k wrapped) = some key) →
        exec (.linkKeyConfirmation src keyId stopped wrapped) s = .next ((s.onFlash fun f => { f with linkKeys := Sparse.set [] f.linkKeys keyId.toNat key }).emit
          (.control (some src) (.linkKeyConfirm keyId false)))) ∧
      exec (.linkKeyConfirmation src keyId true []) s = .next (s.onFlash fun f => { f with linkKeys := Sparse.erase f.linkKeys (keyId - 1).toNat }) ∧
      exec (.linkKeyConfirmation src keyId false []) s =
        .next (((s.onFlash fun f => { f with linkId := keyId }).onLink fun l => { l with sealedCount := 0 }).emit (.control (some src) (.linkKeyConfirm keyId true)))) ∧
    (∀ (lead : SledId) (copy : MirrorCopy) b, (s.awake = true ∧ (s.wakeDrowse 3).takeSeq lead.toNat copy.seq.toNat = (b, true)) →
      exec (.mirrorCopy lead copy) s = .next (b.executeCopy lead.toNat copy.seq.toNat copy)) ∧
    (∀ (range : BitVec 12) usable, s.awake = true → exec (.resilverStep range usable) s = .next (s.resilverStep range.toNat usable))

/-- Served GET_CASCADE_STATUS answers the role, term and map version; GET_CASCADE_RANGE of entries 0 to 4,095 the entry and its
segments; GET_CASCADE_ROUTE of sleds 0 to 1,023 the route. On a path that may carry them: SET_CASCADE_RANGE on the ridge
proposes a change that the rules of ranges allow, its reply waiting for the change, and answers the refusal of one that they
do not, on any other sled Unsupported; ADD_CASCADE_EXTENT of blocks in ranges, at free DPA blocks of a region 1 to 7, adds
the extent and logs it to its device; SET_CASCADE_POLICY with its times in range stores three settings. (R354, R356, R359,
R361, R366, R367, 11_cascade.md) -/
def Obligations.CascadeCommands : Prop :=
  ∀ (s : State) (p : Path),
    let a := s.arrives p
    (s.serves p 0xC2C0 → Answers (.getCascadeStatus p) p 0xC2C0 s fun a out => ∀ f ∈ [(0, 2, 0), (2, 1, a.casc.role.code),
      (4, 2, if a.casc.role = .standalone then 0 else a.casc.sledId.toNat), (10, 2, a.casc.map.members.length), (12, 4, a.casc.term), (16, 4, a.casc.map.version)],
        fieldLe out f.1 f.2.1 = f.2.2 % 256 ^ f.2.1) ∧
    (∀ index : BitVec 16, (s.serves p 0xC2C2 ∧ index.toNat ≤ 4095) → Answers (.getCascadeRange p index) p 0xC2C2 s fun a out =>
      let r := Sparse.get {} a.casc.map.ranges index.toNat
      out = le 2 0 ++ le 2 (min (Sparse.get 0 a.casc.lastSkipped index.toNat) 0xFFFF) ++ specBytes r.spec ++ (a.casc.map.segmentsOf r).flatMap fun g => le 4 g.toBits) ∧
    (∀ sled : BitVec 16, (s.serves p 0xC2C4 ∧ sled.toNat ≤ 1023) → Answers (.getCascadeRoute p sled) p 0xC2C4 s fun a out => out = le 2 0 ++ le 2 (a.route sled.toNat)) ∧
    (∀ (action : BitVec 8) (index : BitVec 16) entry segments, s.serves p 0xC2C1 →
      let change := a.rangeChange a.latestMap action.toNat index.toNat entry (segments.map fun x => segmentOf x.toNat)
      ((a.cascadePath p = false ∨ a.casc.role ≠ .ridge) → TurnedAway (.setCascadeRange p action index entry segments) p 0xC2C1 s .unsupported) ∧
      ((a.cascadePath p = true ∧ a.casc.role = .ridge) →
        (∀ map, change = .ok map → exec (.setCascadeRange p action index entry segments) s =
          .next ((a.propose { map, path := some p, range := some (index.toNat, action.toNat) }).onPurlin fun x => { x with served := x.served + 1 })) ∧
        (∀ rc, change = .error rc → TurnedAway (.setCascadeRange p action index entry segments) p 0xC2C1 s rc))) ∧
    (∀ (ld : LdId) (region : BitVec 8) (base : BitVec 24) (blocks : BitVec 32) (dpa : BitVec 64), let x := dpa.toNat / blockBytes
      (s.serves p 0xC2C3 ∧ a.cascadePath p = true ∧ a.ready rdyCascade = true ∧ a.ldExists ld = true ∧ 1 ≤ region.toNat ∧ region.toNat ≤ 7 ∧ 1 ≤ blocks.toNat ∧
        dpa.toNat % blockBytes = 0 ∧ x + blocks.toNat ≤ a.maxBlocks ∧ base.toNat + blocks.toNat ≤ 2 ^ 24 ∧
        ∀ i, i < blocks.toNat → (a.casc.map.rangeAt (base.toNat + i)).isSome = true ∧ a.extTaken ld (x + i) = false) →
      let t := (a.onCasc fun c => { c with extents := c.extents ++ [{ ld, dpaBlock := x, region := region.toNat, base := base.toNat, blocks := blocks.toNat }] })
      Performs (.addCascadeExtent p ld region base blocks dpa) p 0xC2C3 s (t.logTo ld .dynamicCapacity (dcRecord 0 region.toNat (x * blockBytes) blocks.toNat)) (t.status 0 false)) ∧
    (∀ (timeout : BitVec 16) (rate : BitVec 8) eligible, (s.serves p 0xC2C5 ∧ a.cascadePath p = true ∧ 12 ≤ timeout.toNat ∧ timeout.toNat ≤ 100 ∧ 2 ≤ rate.toNat ∧ rate.toNat ≤ 22) →
      let t := a.onCasc fun c => { c with timeout := timeout.toNat, rate := rate.toNat, eligible }
      Performs (.setCascadePolicy p timeout rate eligible) p 0xC2C5 s t (t.status 0 true))

/-- For every command at the front of the queue a step is exec of it on the state with the rest of the queue. On an empty queue a
step advances the clock by one hub cycle and changes nothing else while the hub does not run (log entries 1 and 2: the
model's choice). (INDEX.md) -/
def Obligations.StepRunsTheFront : Prop :=
  ∀ s : State,
    (∀ c rest, s.pending = c :: rest → step s = exec c { s with pending := rest }) ∧
    (s.pending = [] → step s = .next s.tick ∧ s.tick.clock = s.clock + 1 ∧ (s.hubRuns = false → s.tick = { s with clock := s.clock + 1 }))

/-- At reset the sled is in Off-aux with no input in its window, its switch open, its trip count 0 and no latch; the power-path
policy is a limit of 4.0 A, three retries, 2 ms and 200 ms; READINESS is 0, no firmware runs, every course is absent, no
command waits, every host port is down, and the sled is in no cascade. (R393, R415, R440, R443, R446, 13_bring_up.md,
15_power_path.md) -/
def Obligations.ResetState : Prop :=
  let s := State.reset
  s.pending = [] ∧ s.eaves.st = .offAux ∧ s.power.present = false ∧ s.power.mainIn = false ∧ s.power.auxIn = false ∧ s.power.sw = .off ∧ s.power.count = 0 ∧
    s.power.latched = false ∧ s.power.records = [] ∧ (s.power.limit, s.power.retry, s.power.soa, s.power.delay) = (40, 3, 20, 200) ∧ s.boot.readiness = 0 ∧
    s.firmwareRuns = false ∧ s.hubRuns = false ∧ (∀ c, (s.view c).tier = .absent) ∧ s.host.hp0.up = false ∧ s.host.hp1.up = false ∧ s.casc.joined = false ∧
    s.casc.role = .standalone ∧ s.reg.queues = [] ∧ s.dram.channels = []

/-- A batten whose tier is not 00b and whose epoch differs from its block's epoch is stale, and every lookup of its course treats
it as absent. (R64) -/
def Obligations.StaleBattens : Prop :=
  ∀ (s : State) (course : Nat),
    let b := s.batten course
    let e := s.dirOf (course / blockCourses)
    (b.stale e = true ↔ b.tier ≠ .absent ∧ b.epoch ≠ e.epoch) ∧ (b.stale e = true → (s.view course).tier = .absent)

/-- In 256B flit mode (a link at 64 GT/s) the context of a host request is its CKID; a request whose CKID is 0, and every request
in 68B flit mode (a link at 32 GT/s or less), takes the default context of its requestor, whatever its address. (R28) -/
def Obligations.ContextOfARequest : Prop :=
  ∀ (s : State) (p : HostPort) (ckid : BitVec 13) (rid : Nat),
    ((s.port p).rate = .g64 → ckid ≠ 0 → s.contextOf p ckid rid = ckid) ∧
    (ckid = 0 → s.contextOf p ckid rid = s.defaultCtx rid) ∧
    ((s.port p).rate ≠ .g64 → s.contextOf p ckid rid = s.defaultCtx rid)

/-- For every field width E from 1 the zig-zag map of a residue r is (r << 1) XOR (r >> (E − 1)) with the arithmetic shift, kept
to E bits, the inverse of z is (z >> 1) XOR −(z AND 1), and each undoes the other. (R102) -/
def Obligations.ZigZagMaps : Prop :=
  ∀ (E : Nat) (r : BitVec E), 1 ≤ E →
    TileCode.zigzag E r.toNat = ((r <<< 1) ^^^ r.sshiftRight (E - 1)).toNat ∧
    TileCode.unzigzag E r.toNat % 2 ^ E = ((r >>> 1) ^^^ (-(r &&& BitVec.ofNat E 1))).toNat ∧
    TileCode.unzigzag E (TileCode.zigzag E r.toNat) % 2 ^ E = r.toNat ∧ TileCode.zigzag E (TileCode.unzigzag E r.toNat % 2 ^ E) = r.toNat

/-- At reset the DRAM contents are in canonical form, no latch is set outside Off-aux, and no sleep entry is under way. (R415,
R447, 13_bring_up.md) -/
def Obligations.SoundAtReset : Prop :=
  State.reset.Sound

/-- From every sound state, whatever command is at the front of the queue or none, the state after a step is sound: the DRAM
contents keep their canonical form, a latched switch stays open in Off-aux however the sled came to be latched, and no sleep
entry is under way in Off-aux. (R416, R428, R431, R445, R446, R447, 14_eaves_and_power_states.md, 15_power_path.md) -/
def Obligations.StepsKeepSoundness : Prop :=
  ∀ s t : State, s.Sound → step s = .next t → t.Sound

/-- Every command answers a next state, and leaves the queue of waiting commands, the clock, the model and the serial number as
they were; the fused security version number never falls. (R52, R128, R382, 12_service_processor.md) -/
def Obligations.CommandsKeepTheFrame : Prop :=
  ∀ (c : Instr) (s : State), ∃ t, exec c s = .next t ∧ t.pending = s.pending ∧ t.clock = s.clock ∧ t.small = s.small ∧ t.serial = s.serial ∧
    s.purlin.fw.fused ≤ t.purlin.fw.fused
end

