-- ==== Sys2Proof/Laws/Bytes.lean ====
section
/-! SUPPORT. Laws of byte strings: lengths, and the field at an offset of a payload built by appending fields. -/

namespace Sys2Proof

@[simp] theorem le_length (n v : Nat) : (le n v).length = n := by
  induction n generalizing v with
  | zero => rfl
  | succ n ih => simp [le, ih]

@[simp] theorem be_length (n v : Nat) : (be n v).length = n := by simp [be]

@[simp] theorem zeros_length (n : Nat) : (zeros n).length = n := by simp [zeros]

@[simp] theorem slice_length (bs : List Byte) (o n : Nat) : (slice bs o n).length = n := by
  simp only [slice, List.length_append, zeros_length, List.length_take, List.length_drop]
  omega

@[simp] theorem ofLe_le (n v : Nat) : ofLe (le n v) = v % 256 ^ n := by
  induction n generalizing v with
  | zero => simp [le, ofLe, Nat.mod_one]
  | succ n ih =>
    have h8 : (BitVec.ofNat 8 v).toNat = v % 256 := BitVec.toNat_ofNat v 8
    rw [le, ofLe, ih, h8, Nat.pow_succ', Nat.mod_mul]

@[simp] theorem ofLe_zeros (n : Nat) : ofLe (zeros n) = 0 := by
  induction n with
  | zero => rfl
  | succ n ih => rw [zeros, List.replicate_succ, ofLe]; show 0 + 256 * ofLe (zeros n) = 0; rw [ih]

/-- A slice inside a string is what it cuts out. -/
theorem slice_of_le {bs : List Byte} {o n : Nat} (h : o + n ≤ bs.length) : slice bs o n = (bs.drop o).take n := by
  have hl : ((bs.drop o).take n).length = n := by simp only [List.length_take, List.length_drop]; omega
  simp only [slice, hl, Nat.sub_self]
  simp [zeros]

/-- A field that lies in the first of two strings. -/
theorem fieldLe_append_left {a b : List Byte} {o n : Nat} (h : o + n ≤ a.length) : fieldLe (a ++ b) o n = fieldLe a o n := by
  simp only [fieldLe]
  rw [slice_of_le (by simp only [List.length_append]; omega), slice_of_le h]
  congr 1
  rw [List.drop_append_of_le_length (by omega), List.take_append_of_le_length (by simp only [List.length_drop]; omega)]

/-- A field that lies in the second of two strings. -/
theorem fieldLe_append_right {a b : List Byte} {o n : Nat} (h : a.length ≤ o) :
    fieldLe (a ++ b) o n = fieldLe b (o - a.length) n := by
  simp only [fieldLe, slice]
  rw [List.drop_append]
  rw [List.drop_eq_nil_of_le h, List.nil_append]

/-- A field that is a whole string. -/
theorem fieldLe_whole {bs : List Byte} {n : Nat} (h : bs.length = n) : fieldLe bs 0 n = ofLe bs := by
  simp only [fieldLe]
  rw [slice_of_le (by omega), List.drop_zero, List.take_of_length_le (by omega)]

@[simp] theorem fieldLe_le (n v : Nat) : fieldLe (le n v) 0 n = v % 256 ^ n := by
  rw [fieldLe_whole (le_length n v), ofLe_le]

/-- The first field of a payload. -/
@[simp] theorem fieldLe_le_append (n v : Nat) (b : List Byte) : fieldLe (le n v ++ b) 0 n = v % 256 ^ n := by
  rw [fieldLe_append_left (by simp), fieldLe_le]

end Sys2Proof
end

