-- ==== Sys2Proof/Laws/State.lean ====
section
/-! SUPPORT. One lemma per field of the state per update of a part of it, so that no proof unfolds a record update. -/

namespace Sys2Proof.Machine

/-! ## `onHost` -/

@[simp] theorem State.onHost_pending (s : State) (f : HostSide → HostSide) : (s.onHost f).pending = s.pending := rfl
@[simp] theorem State.onHost_clock (s : State) (f : HostSide → HostSide) : (s.onHost f).clock = s.clock := rfl
@[simp] theorem State.onHost_small (s : State) (f : HostSide → HostSide) : (s.onHost f).small = s.small := rfl
@[simp] theorem State.onHost_serial (s : State) (f : HostSide → HostSide) : (s.onHost f).serial = s.serial := rfl
@[simp] theorem State.onHost_host (s : State) (f : HostSide → HostSide) : (s.onHost f).host = f s.host := rfl
@[simp] theorem State.onHost_cap (s : State) (f : HostSide → HostSide) : (s.onHost f).cap = s.cap := rfl
@[simp] theorem State.onHost_xlat (s : State) (f : HostSide → HostSide) : (s.onHost f).xlat = s.xlat := rfl
@[simp] theorem State.onHost_alloc (s : State) (f : HostSide → HostSide) : (s.onHost f).alloc = s.alloc := rfl
@[simp] theorem State.onHost_tile (s : State) (f : HostSide → HostSide) : (s.onHost f).tile = s.tile := rfl
@[simp] theorem State.onHost_place (s : State) (f : HostSide → HostSide) : (s.onHost f).place = s.place := rfl
@[simp] theorem State.onHost_cache (s : State) (f : HostSide → HostSide) : (s.onHost f).cache = s.cache := rfl
@[simp] theorem State.onHost_flash (s : State) (f : HostSide → HostSide) : (s.onHost f).flash = s.flash := rfl
@[simp] theorem State.onHost_dram (s : State) (f : HostSide → HostSide) : (s.onHost f).dram = s.dram := rfl
@[simp] theorem State.onHost_spare (s : State) (f : HostSide → HostSide) : (s.onHost f).spare = s.spare := rfl
@[simp] theorem State.onHost_reg (s : State) (f : HostSide → HostSide) : (s.onHost f).reg = s.reg := rfl
@[simp] theorem State.onHost_link (s : State) (f : HostSide → HostSide) : (s.onHost f).link = s.link := rfl
@[simp] theorem State.onHost_casc (s : State) (f : HostSide → HostSide) : (s.onHost f).casc = s.casc := rfl
@[simp] theorem State.onHost_purlin (s : State) (f : HostSide → HostSide) : (s.onHost f).purlin = s.purlin := rfl
@[simp] theorem State.onHost_boot (s : State) (f : HostSide → HostSide) : (s.onHost f).boot = s.boot := rfl
@[simp] theorem State.onHost_eaves (s : State) (f : HostSide → HostSide) : (s.onHost f).eaves = s.eaves := rfl
@[simp] theorem State.onHost_power (s : State) (f : HostSide → HostSide) : (s.onHost f).power = s.power := rfl
@[simp] theorem State.onHost_sram (s : State) (f : HostSide → HostSide) : (s.onHost f).sram = s.sram := rfl
@[simp] theorem State.onHost_ctr (s : State) (f : HostSide → HostSide) : (s.onHost f).ctr = s.ctr := rfl
@[simp] theorem State.onHost_conn (s : State) (f : HostSide → HostSide) : (s.onHost f).conn = s.conn := rfl
@[simp] theorem State.onHost_therm (s : State) (f : HostSide → HostSide) : (s.onHost f).therm = s.therm := rfl
@[simp] theorem State.onHost_frozen (s : State) (f : HostSide → HostSide) : (s.onHost f).frozen = s.frozen := rfl
@[simp] theorem State.onHost_out (s : State) (f : HostSide → HostSide) : (s.onHost f).out = s.out := rfl

/-! ## `onCap` -/

@[simp] theorem State.onCap_pending (s : State) (f : Capacity → Capacity) : (s.onCap f).pending = s.pending := rfl
@[simp] theorem State.onCap_clock (s : State) (f : Capacity → Capacity) : (s.onCap f).clock = s.clock := rfl
@[simp] theorem State.onCap_small (s : State) (f : Capacity → Capacity) : (s.onCap f).small = s.small := rfl
@[simp] theorem State.onCap_serial (s : State) (f : Capacity → Capacity) : (s.onCap f).serial = s.serial := rfl
@[simp] theorem State.onCap_host (s : State) (f : Capacity → Capacity) : (s.onCap f).host = s.host := rfl
@[simp] theorem State.onCap_cap (s : State) (f : Capacity → Capacity) : (s.onCap f).cap = f s.cap := rfl
@[simp] theorem State.onCap_xlat (s : State) (f : Capacity → Capacity) : (s.onCap f).xlat = s.xlat := rfl
@[simp] theorem State.onCap_alloc (s : State) (f : Capacity → Capacity) : (s.onCap f).alloc = s.alloc := rfl
@[simp] theorem State.onCap_tile (s : State) (f : Capacity → Capacity) : (s.onCap f).tile = s.tile := rfl
@[simp] theorem State.onCap_place (s : State) (f : Capacity → Capacity) : (s.onCap f).place = s.place := rfl
@[simp] theorem State.onCap_cache (s : State) (f : Capacity → Capacity) : (s.onCap f).cache = s.cache := rfl
@[simp] theorem State.onCap_flash (s : State) (f : Capacity → Capacity) : (s.onCap f).flash = s.flash := rfl
@[simp] theorem State.onCap_dram (s : State) (f : Capacity → Capacity) : (s.onCap f).dram = s.dram := rfl
@[simp] theorem State.onCap_spare (s : State) (f : Capacity → Capacity) : (s.onCap f).spare = s.spare := rfl
@[simp] theorem State.onCap_reg (s : State) (f : Capacity → Capacity) : (s.onCap f).reg = s.reg := rfl
@[simp] theorem State.onCap_link (s : State) (f : Capacity → Capacity) : (s.onCap f).link = s.link := rfl
@[simp] theorem State.onCap_casc (s : State) (f : Capacity → Capacity) : (s.onCap f).casc = s.casc := rfl
@[simp] theorem State.onCap_purlin (s : State) (f : Capacity → Capacity) : (s.onCap f).purlin = s.purlin := rfl
@[simp] theorem State.onCap_boot (s : State) (f : Capacity → Capacity) : (s.onCap f).boot = s.boot := rfl
@[simp] theorem State.onCap_eaves (s : State) (f : Capacity → Capacity) : (s.onCap f).eaves = s.eaves := rfl
@[simp] theorem State.onCap_power (s : State) (f : Capacity → Capacity) : (s.onCap f).power = s.power := rfl
@[simp] theorem State.onCap_sram (s : State) (f : Capacity → Capacity) : (s.onCap f).sram = s.sram := rfl
@[simp] theorem State.onCap_ctr (s : State) (f : Capacity → Capacity) : (s.onCap f).ctr = s.ctr := rfl
@[simp] theorem State.onCap_conn (s : State) (f : Capacity → Capacity) : (s.onCap f).conn = s.conn := rfl
@[simp] theorem State.onCap_therm (s : State) (f : Capacity → Capacity) : (s.onCap f).therm = s.therm := rfl
@[simp] theorem State.onCap_frozen (s : State) (f : Capacity → Capacity) : (s.onCap f).frozen = s.frozen := rfl
@[simp] theorem State.onCap_out (s : State) (f : Capacity → Capacity) : (s.onCap f).out = s.out := rfl

/-! ## `onXlat` -/

@[simp] theorem State.onXlat_pending (s : State) (f : Translation → Translation) : (s.onXlat f).pending = s.pending := rfl
@[simp] theorem State.onXlat_clock (s : State) (f : Translation → Translation) : (s.onXlat f).clock = s.clock := rfl
@[simp] theorem State.onXlat_small (s : State) (f : Translation → Translation) : (s.onXlat f).small = s.small := rfl
@[simp] theorem State.onXlat_serial (s : State) (f : Translation → Translation) : (s.onXlat f).serial = s.serial := rfl
@[simp] theorem State.onXlat_host (s : State) (f : Translation → Translation) : (s.onXlat f).host = s.host := rfl
@[simp] theorem State.onXlat_cap (s : State) (f : Translation → Translation) : (s.onXlat f).cap = s.cap := rfl
@[simp] theorem State.onXlat_xlat (s : State) (f : Translation → Translation) : (s.onXlat f).xlat = f s.xlat := rfl
@[simp] theorem State.onXlat_alloc (s : State) (f : Translation → Translation) : (s.onXlat f).alloc = s.alloc := rfl
@[simp] theorem State.onXlat_tile (s : State) (f : Translation → Translation) : (s.onXlat f).tile = s.tile := rfl
@[simp] theorem State.onXlat_place (s : State) (f : Translation → Translation) : (s.onXlat f).place = s.place := rfl
@[simp] theorem State.onXlat_cache (s : State) (f : Translation → Translation) : (s.onXlat f).cache = s.cache := rfl
@[simp] theorem State.onXlat_flash (s : State) (f : Translation → Translation) : (s.onXlat f).flash = s.flash := rfl
@[simp] theorem State.onXlat_dram (s : State) (f : Translation → Translation) : (s.onXlat f).dram = s.dram := rfl
@[simp] theorem State.onXlat_spare (s : State) (f : Translation → Translation) : (s.onXlat f).spare = s.spare := rfl
@[simp] theorem State.onXlat_reg (s : State) (f : Translation → Translation) : (s.onXlat f).reg = s.reg := rfl
@[simp] theorem State.onXlat_link (s : State) (f : Translation → Translation) : (s.onXlat f).link = s.link := rfl
@[simp] theorem State.onXlat_casc (s : State) (f : Translation → Translation) : (s.onXlat f).casc = s.casc := rfl
@[simp] theorem State.onXlat_purlin (s : State) (f : Translation → Translation) : (s.onXlat f).purlin = s.purlin := rfl
@[simp] theorem State.onXlat_boot (s : State) (f : Translation → Translation) : (s.onXlat f).boot = s.boot := rfl
@[simp] theorem State.onXlat_eaves (s : State) (f : Translation → Translation) : (s.onXlat f).eaves = s.eaves := rfl
@[simp] theorem State.onXlat_power (s : State) (f : Translation → Translation) : (s.onXlat f).power = s.power := rfl
@[simp] theorem State.onXlat_sram (s : State) (f : Translation → Translation) : (s.onXlat f).sram = s.sram := rfl
@[simp] theorem State.onXlat_ctr (s : State) (f : Translation → Translation) : (s.onXlat f).ctr = s.ctr := rfl
@[simp] theorem State.onXlat_conn (s : State) (f : Translation → Translation) : (s.onXlat f).conn = s.conn := rfl
@[simp] theorem State.onXlat_therm (s : State) (f : Translation → Translation) : (s.onXlat f).therm = s.therm := rfl
@[simp] theorem State.onXlat_frozen (s : State) (f : Translation → Translation) : (s.onXlat f).frozen = s.frozen := rfl
@[simp] theorem State.onXlat_out (s : State) (f : Translation → Translation) : (s.onXlat f).out = s.out := rfl

/-! ## `onAlloc` -/

@[simp] theorem State.onAlloc_pending (s : State) (f : Allocator → Allocator) : (s.onAlloc f).pending = s.pending := rfl
@[simp] theorem State.onAlloc_clock (s : State) (f : Allocator → Allocator) : (s.onAlloc f).clock = s.clock := rfl
@[simp] theorem State.onAlloc_small (s : State) (f : Allocator → Allocator) : (s.onAlloc f).small = s.small := rfl
@[simp] theorem State.onAlloc_serial (s : State) (f : Allocator → Allocator) : (s.onAlloc f).serial = s.serial := rfl
@[simp] theorem State.onAlloc_host (s : State) (f : Allocator → Allocator) : (s.onAlloc f).host = s.host := rfl
@[simp] theorem State.onAlloc_cap (s : State) (f : Allocator → Allocator) : (s.onAlloc f).cap = s.cap := rfl
@[simp] theorem State.onAlloc_xlat (s : State) (f : Allocator → Allocator) : (s.onAlloc f).xlat = s.xlat := rfl
@[simp] theorem State.onAlloc_alloc (s : State) (f : Allocator → Allocator) : (s.onAlloc f).alloc = f s.alloc := rfl
@[simp] theorem State.onAlloc_tile (s : State) (f : Allocator → Allocator) : (s.onAlloc f).tile = s.tile := rfl
@[simp] theorem State.onAlloc_place (s : State) (f : Allocator → Allocator) : (s.onAlloc f).place = s.place := rfl
@[simp] theorem State.onAlloc_cache (s : State) (f : Allocator → Allocator) : (s.onAlloc f).cache = s.cache := rfl
@[simp] theorem State.onAlloc_flash (s : State) (f : Allocator → Allocator) : (s.onAlloc f).flash = s.flash := rfl
@[simp] theorem State.onAlloc_dram (s : State) (f : Allocator → Allocator) : (s.onAlloc f).dram = s.dram := rfl
@[simp] theorem State.onAlloc_spare (s : State) (f : Allocator → Allocator) : (s.onAlloc f).spare = s.spare := rfl
@[simp] theorem State.onAlloc_reg (s : State) (f : Allocator → Allocator) : (s.onAlloc f).reg = s.reg := rfl
@[simp] theorem State.onAlloc_link (s : State) (f : Allocator → Allocator) : (s.onAlloc f).link = s.link := rfl
@[simp] theorem State.onAlloc_casc (s : State) (f : Allocator → Allocator) : (s.onAlloc f).casc = s.casc := rfl
@[simp] theorem State.onAlloc_purlin (s : State) (f : Allocator → Allocator) : (s.onAlloc f).purlin = s.purlin := rfl
@[simp] theorem State.onAlloc_boot (s : State) (f : Allocator → Allocator) : (s.onAlloc f).boot = s.boot := rfl
@[simp] theorem State.onAlloc_eaves (s : State) (f : Allocator → Allocator) : (s.onAlloc f).eaves = s.eaves := rfl
@[simp] theorem State.onAlloc_power (s : State) (f : Allocator → Allocator) : (s.onAlloc f).power = s.power := rfl
@[simp] theorem State.onAlloc_sram (s : State) (f : Allocator → Allocator) : (s.onAlloc f).sram = s.sram := rfl
@[simp] theorem State.onAlloc_ctr (s : State) (f : Allocator → Allocator) : (s.onAlloc f).ctr = s.ctr := rfl
@[simp] theorem State.onAlloc_conn (s : State) (f : Allocator → Allocator) : (s.onAlloc f).conn = s.conn := rfl
@[simp] theorem State.onAlloc_therm (s : State) (f : Allocator → Allocator) : (s.onAlloc f).therm = s.therm := rfl
@[simp] theorem State.onAlloc_frozen (s : State) (f : Allocator → Allocator) : (s.onAlloc f).frozen = s.frozen := rfl
@[simp] theorem State.onAlloc_out (s : State) (f : Allocator → Allocator) : (s.onAlloc f).out = s.out := rfl

/-! ## `onTile` -/

@[simp] theorem State.onTile_pending (s : State) (f : TileEngine → TileEngine) : (s.onTile f).pending = s.pending := rfl
@[simp] theorem State.onTile_clock (s : State) (f : TileEngine → TileEngine) : (s.onTile f).clock = s.clock := rfl
@[simp] theorem State.onTile_small (s : State) (f : TileEngine → TileEngine) : (s.onTile f).small = s.small := rfl
@[simp] theorem State.onTile_serial (s : State) (f : TileEngine → TileEngine) : (s.onTile f).serial = s.serial := rfl
@[simp] theorem State.onTile_host (s : State) (f : TileEngine → TileEngine) : (s.onTile f).host = s.host := rfl
@[simp] theorem State.onTile_cap (s : State) (f : TileEngine → TileEngine) : (s.onTile f).cap = s.cap := rfl
@[simp] theorem State.onTile_xlat (s : State) (f : TileEngine → TileEngine) : (s.onTile f).xlat = s.xlat := rfl
@[simp] theorem State.onTile_alloc (s : State) (f : TileEngine → TileEngine) : (s.onTile f).alloc = s.alloc := rfl
@[simp] theorem State.onTile_tile (s : State) (f : TileEngine → TileEngine) : (s.onTile f).tile = f s.tile := rfl
@[simp] theorem State.onTile_place (s : State) (f : TileEngine → TileEngine) : (s.onTile f).place = s.place := rfl
@[simp] theorem State.onTile_cache (s : State) (f : TileEngine → TileEngine) : (s.onTile f).cache = s.cache := rfl
@[simp] theorem State.onTile_flash (s : State) (f : TileEngine → TileEngine) : (s.onTile f).flash = s.flash := rfl
@[simp] theorem State.onTile_dram (s : State) (f : TileEngine → TileEngine) : (s.onTile f).dram = s.dram := rfl
@[simp] theorem State.onTile_spare (s : State) (f : TileEngine → TileEngine) : (s.onTile f).spare = s.spare := rfl
@[simp] theorem State.onTile_reg (s : State) (f : TileEngine → TileEngine) : (s.onTile f).reg = s.reg := rfl
@[simp] theorem State.onTile_link (s : State) (f : TileEngine → TileEngine) : (s.onTile f).link = s.link := rfl
@[simp] theorem State.onTile_casc (s : State) (f : TileEngine → TileEngine) : (s.onTile f).casc = s.casc := rfl
@[simp] theorem State.onTile_purlin (s : State) (f : TileEngine → TileEngine) : (s.onTile f).purlin = s.purlin := rfl
@[simp] theorem State.onTile_boot (s : State) (f : TileEngine → TileEngine) : (s.onTile f).boot = s.boot := rfl
@[simp] theorem State.onTile_eaves (s : State) (f : TileEngine → TileEngine) : (s.onTile f).eaves = s.eaves := rfl
@[simp] theorem State.onTile_power (s : State) (f : TileEngine → TileEngine) : (s.onTile f).power = s.power := rfl
@[simp] theorem State.onTile_sram (s : State) (f : TileEngine → TileEngine) : (s.onTile f).sram = s.sram := rfl
@[simp] theorem State.onTile_ctr (s : State) (f : TileEngine → TileEngine) : (s.onTile f).ctr = s.ctr := rfl
@[simp] theorem State.onTile_conn (s : State) (f : TileEngine → TileEngine) : (s.onTile f).conn = s.conn := rfl
@[simp] theorem State.onTile_therm (s : State) (f : TileEngine → TileEngine) : (s.onTile f).therm = s.therm := rfl
@[simp] theorem State.onTile_frozen (s : State) (f : TileEngine → TileEngine) : (s.onTile f).frozen = s.frozen := rfl
@[simp] theorem State.onTile_out (s : State) (f : TileEngine → TileEngine) : (s.onTile f).out = s.out := rfl

/-! ## `onPlace` -/

@[simp] theorem State.onPlace_pending (s : State) (f : Placement → Placement) : (s.onPlace f).pending = s.pending := rfl
@[simp] theorem State.onPlace_clock (s : State) (f : Placement → Placement) : (s.onPlace f).clock = s.clock := rfl
@[simp] theorem State.onPlace_small (s : State) (f : Placement → Placement) : (s.onPlace f).small = s.small := rfl
@[simp] theorem State.onPlace_serial (s : State) (f : Placement → Placement) : (s.onPlace f).serial = s.serial := rfl
@[simp] theorem State.onPlace_host (s : State) (f : Placement → Placement) : (s.onPlace f).host = s.host := rfl
@[simp] theorem State.onPlace_cap (s : State) (f : Placement → Placement) : (s.onPlace f).cap = s.cap := rfl
@[simp] theorem State.onPlace_xlat (s : State) (f : Placement → Placement) : (s.onPlace f).xlat = s.xlat := rfl
@[simp] theorem State.onPlace_alloc (s : State) (f : Placement → Placement) : (s.onPlace f).alloc = s.alloc := rfl
@[simp] theorem State.onPlace_tile (s : State) (f : Placement → Placement) : (s.onPlace f).tile = s.tile := rfl
@[simp] theorem State.onPlace_place (s : State) (f : Placement → Placement) : (s.onPlace f).place = f s.place := rfl
@[simp] theorem State.onPlace_cache (s : State) (f : Placement → Placement) : (s.onPlace f).cache = s.cache := rfl
@[simp] theorem State.onPlace_flash (s : State) (f : Placement → Placement) : (s.onPlace f).flash = s.flash := rfl
@[simp] theorem State.onPlace_dram (s : State) (f : Placement → Placement) : (s.onPlace f).dram = s.dram := rfl
@[simp] theorem State.onPlace_spare (s : State) (f : Placement → Placement) : (s.onPlace f).spare = s.spare := rfl
@[simp] theorem State.onPlace_reg (s : State) (f : Placement → Placement) : (s.onPlace f).reg = s.reg := rfl
@[simp] theorem State.onPlace_link (s : State) (f : Placement → Placement) : (s.onPlace f).link = s.link := rfl
@[simp] theorem State.onPlace_casc (s : State) (f : Placement → Placement) : (s.onPlace f).casc = s.casc := rfl
@[simp] theorem State.onPlace_purlin (s : State) (f : Placement → Placement) : (s.onPlace f).purlin = s.purlin := rfl
@[simp] theorem State.onPlace_boot (s : State) (f : Placement → Placement) : (s.onPlace f).boot = s.boot := rfl
@[simp] theorem State.onPlace_eaves (s : State) (f : Placement → Placement) : (s.onPlace f).eaves = s.eaves := rfl
@[simp] theorem State.onPlace_power (s : State) (f : Placement → Placement) : (s.onPlace f).power = s.power := rfl
@[simp] theorem State.onPlace_sram (s : State) (f : Placement → Placement) : (s.onPlace f).sram = s.sram := rfl
@[simp] theorem State.onPlace_ctr (s : State) (f : Placement → Placement) : (s.onPlace f).ctr = s.ctr := rfl
@[simp] theorem State.onPlace_conn (s : State) (f : Placement → Placement) : (s.onPlace f).conn = s.conn := rfl
@[simp] theorem State.onPlace_therm (s : State) (f : Placement → Placement) : (s.onPlace f).therm = s.therm := rfl
@[simp] theorem State.onPlace_frozen (s : State) (f : Placement → Placement) : (s.onPlace f).frozen = s.frozen := rfl
@[simp] theorem State.onPlace_out (s : State) (f : Placement → Placement) : (s.onPlace f).out = s.out := rfl

/-! ## `onCache` -/

@[simp] theorem State.onCache_pending (s : State) (f : TileCache → TileCache) : (s.onCache f).pending = s.pending := rfl
@[simp] theorem State.onCache_clock (s : State) (f : TileCache → TileCache) : (s.onCache f).clock = s.clock := rfl
@[simp] theorem State.onCache_small (s : State) (f : TileCache → TileCache) : (s.onCache f).small = s.small := rfl
@[simp] theorem State.onCache_serial (s : State) (f : TileCache → TileCache) : (s.onCache f).serial = s.serial := rfl
@[simp] theorem State.onCache_host (s : State) (f : TileCache → TileCache) : (s.onCache f).host = s.host := rfl
@[simp] theorem State.onCache_cap (s : State) (f : TileCache → TileCache) : (s.onCache f).cap = s.cap := rfl
@[simp] theorem State.onCache_xlat (s : State) (f : TileCache → TileCache) : (s.onCache f).xlat = s.xlat := rfl
@[simp] theorem State.onCache_alloc (s : State) (f : TileCache → TileCache) : (s.onCache f).alloc = s.alloc := rfl
@[simp] theorem State.onCache_tile (s : State) (f : TileCache → TileCache) : (s.onCache f).tile = s.tile := rfl
@[simp] theorem State.onCache_place (s : State) (f : TileCache → TileCache) : (s.onCache f).place = s.place := rfl
@[simp] theorem State.onCache_cache (s : State) (f : TileCache → TileCache) : (s.onCache f).cache = f s.cache := rfl
@[simp] theorem State.onCache_flash (s : State) (f : TileCache → TileCache) : (s.onCache f).flash = s.flash := rfl
@[simp] theorem State.onCache_dram (s : State) (f : TileCache → TileCache) : (s.onCache f).dram = s.dram := rfl
@[simp] theorem State.onCache_spare (s : State) (f : TileCache → TileCache) : (s.onCache f).spare = s.spare := rfl
@[simp] theorem State.onCache_reg (s : State) (f : TileCache → TileCache) : (s.onCache f).reg = s.reg := rfl
@[simp] theorem State.onCache_link (s : State) (f : TileCache → TileCache) : (s.onCache f).link = s.link := rfl
@[simp] theorem State.onCache_casc (s : State) (f : TileCache → TileCache) : (s.onCache f).casc = s.casc := rfl
@[simp] theorem State.onCache_purlin (s : State) (f : TileCache → TileCache) : (s.onCache f).purlin = s.purlin := rfl
@[simp] theorem State.onCache_boot (s : State) (f : TileCache → TileCache) : (s.onCache f).boot = s.boot := rfl
@[simp] theorem State.onCache_eaves (s : State) (f : TileCache → TileCache) : (s.onCache f).eaves = s.eaves := rfl
@[simp] theorem State.onCache_power (s : State) (f : TileCache → TileCache) : (s.onCache f).power = s.power := rfl
@[simp] theorem State.onCache_sram (s : State) (f : TileCache → TileCache) : (s.onCache f).sram = s.sram := rfl
@[simp] theorem State.onCache_ctr (s : State) (f : TileCache → TileCache) : (s.onCache f).ctr = s.ctr := rfl
@[simp] theorem State.onCache_conn (s : State) (f : TileCache → TileCache) : (s.onCache f).conn = s.conn := rfl
@[simp] theorem State.onCache_therm (s : State) (f : TileCache → TileCache) : (s.onCache f).therm = s.therm := rfl
@[simp] theorem State.onCache_frozen (s : State) (f : TileCache → TileCache) : (s.onCache f).frozen = s.frozen := rfl
@[simp] theorem State.onCache_out (s : State) (f : TileCache → TileCache) : (s.onCache f).out = s.out := rfl

/-! ## `onFlash` -/

@[simp] theorem State.onFlash_pending (s : State) (f : Flashing → Flashing) : (s.onFlash f).pending = s.pending := rfl
@[simp] theorem State.onFlash_clock (s : State) (f : Flashing → Flashing) : (s.onFlash f).clock = s.clock := rfl
@[simp] theorem State.onFlash_small (s : State) (f : Flashing → Flashing) : (s.onFlash f).small = s.small := rfl
@[simp] theorem State.onFlash_serial (s : State) (f : Flashing → Flashing) : (s.onFlash f).serial = s.serial := rfl
@[simp] theorem State.onFlash_host (s : State) (f : Flashing → Flashing) : (s.onFlash f).host = s.host := rfl
@[simp] theorem State.onFlash_cap (s : State) (f : Flashing → Flashing) : (s.onFlash f).cap = s.cap := rfl
@[simp] theorem State.onFlash_xlat (s : State) (f : Flashing → Flashing) : (s.onFlash f).xlat = s.xlat := rfl
@[simp] theorem State.onFlash_alloc (s : State) (f : Flashing → Flashing) : (s.onFlash f).alloc = s.alloc := rfl
@[simp] theorem State.onFlash_tile (s : State) (f : Flashing → Flashing) : (s.onFlash f).tile = s.tile := rfl
@[simp] theorem State.onFlash_place (s : State) (f : Flashing → Flashing) : (s.onFlash f).place = s.place := rfl
@[simp] theorem State.onFlash_cache (s : State) (f : Flashing → Flashing) : (s.onFlash f).cache = s.cache := rfl
@[simp] theorem State.onFlash_flash (s : State) (f : Flashing → Flashing) : (s.onFlash f).flash = f s.flash := rfl
@[simp] theorem State.onFlash_dram (s : State) (f : Flashing → Flashing) : (s.onFlash f).dram = s.dram := rfl
@[simp] theorem State.onFlash_spare (s : State) (f : Flashing → Flashing) : (s.onFlash f).spare = s.spare := rfl
@[simp] theorem State.onFlash_reg (s : State) (f : Flashing → Flashing) : (s.onFlash f).reg = s.reg := rfl
@[simp] theorem State.onFlash_link (s : State) (f : Flashing → Flashing) : (s.onFlash f).link = s.link := rfl
@[simp] theorem State.onFlash_casc (s : State) (f : Flashing → Flashing) : (s.onFlash f).casc = s.casc := rfl
@[simp] theorem State.onFlash_purlin (s : State) (f : Flashing → Flashing) : (s.onFlash f).purlin = s.purlin := rfl
@[simp] theorem State.onFlash_boot (s : State) (f : Flashing → Flashing) : (s.onFlash f).boot = s.boot := rfl
@[simp] theorem State.onFlash_eaves (s : State) (f : Flashing → Flashing) : (s.onFlash f).eaves = s.eaves := rfl
@[simp] theorem State.onFlash_power (s : State) (f : Flashing → Flashing) : (s.onFlash f).power = s.power := rfl
@[simp] theorem State.onFlash_sram (s : State) (f : Flashing → Flashing) : (s.onFlash f).sram = s.sram := rfl
@[simp] theorem State.onFlash_ctr (s : State) (f : Flashing → Flashing) : (s.onFlash f).ctr = s.ctr := rfl
@[simp] theorem State.onFlash_conn (s : State) (f : Flashing → Flashing) : (s.onFlash f).conn = s.conn := rfl
@[simp] theorem State.onFlash_therm (s : State) (f : Flashing → Flashing) : (s.onFlash f).therm = s.therm := rfl
@[simp] theorem State.onFlash_frozen (s : State) (f : Flashing → Flashing) : (s.onFlash f).frozen = s.frozen := rfl
@[simp] theorem State.onFlash_out (s : State) (f : Flashing → Flashing) : (s.onFlash f).out = s.out := rfl

/-! ## `onDram` -/

@[simp] theorem State.onDram_pending (s : State) (f : Dram → Dram) : (s.onDram f).pending = s.pending := rfl
@[simp] theorem State.onDram_clock (s : State) (f : Dram → Dram) : (s.onDram f).clock = s.clock := rfl
@[simp] theorem State.onDram_small (s : State) (f : Dram → Dram) : (s.onDram f).small = s.small := rfl
@[simp] theorem State.onDram_serial (s : State) (f : Dram → Dram) : (s.onDram f).serial = s.serial := rfl
@[simp] theorem State.onDram_host (s : State) (f : Dram → Dram) : (s.onDram f).host = s.host := rfl
@[simp] theorem State.onDram_cap (s : State) (f : Dram → Dram) : (s.onDram f).cap = s.cap := rfl
@[simp] theorem State.onDram_xlat (s : State) (f : Dram → Dram) : (s.onDram f).xlat = s.xlat := rfl
@[simp] theorem State.onDram_alloc (s : State) (f : Dram → Dram) : (s.onDram f).alloc = s.alloc := rfl
@[simp] theorem State.onDram_tile (s : State) (f : Dram → Dram) : (s.onDram f).tile = s.tile := rfl
@[simp] theorem State.onDram_place (s : State) (f : Dram → Dram) : (s.onDram f).place = s.place := rfl
@[simp] theorem State.onDram_cache (s : State) (f : Dram → Dram) : (s.onDram f).cache = s.cache := rfl
@[simp] theorem State.onDram_flash (s : State) (f : Dram → Dram) : (s.onDram f).flash = s.flash := rfl
@[simp] theorem State.onDram_dram (s : State) (f : Dram → Dram) : (s.onDram f).dram = f s.dram := rfl
@[simp] theorem State.onDram_spare (s : State) (f : Dram → Dram) : (s.onDram f).spare = s.spare := rfl
@[simp] theorem State.onDram_reg (s : State) (f : Dram → Dram) : (s.onDram f).reg = s.reg := rfl
@[simp] theorem State.onDram_link (s : State) (f : Dram → Dram) : (s.onDram f).link = s.link := rfl
@[simp] theorem State.onDram_casc (s : State) (f : Dram → Dram) : (s.onDram f).casc = s.casc := rfl
@[simp] theorem State.onDram_purlin (s : State) (f : Dram → Dram) : (s.onDram f).purlin = s.purlin := rfl
@[simp] theorem State.onDram_boot (s : State) (f : Dram → Dram) : (s.onDram f).boot = s.boot := rfl
@[simp] theorem State.onDram_eaves (s : State) (f : Dram → Dram) : (s.onDram f).eaves = s.eaves := rfl
@[simp] theorem State.onDram_power (s : State) (f : Dram → Dram) : (s.onDram f).power = s.power := rfl
@[simp] theorem State.onDram_sram (s : State) (f : Dram → Dram) : (s.onDram f).sram = s.sram := rfl
@[simp] theorem State.onDram_ctr (s : State) (f : Dram → Dram) : (s.onDram f).ctr = s.ctr := rfl
@[simp] theorem State.onDram_conn (s : State) (f : Dram → Dram) : (s.onDram f).conn = s.conn := rfl
@[simp] theorem State.onDram_therm (s : State) (f : Dram → Dram) : (s.onDram f).therm = s.therm := rfl
@[simp] theorem State.onDram_frozen (s : State) (f : Dram → Dram) : (s.onDram f).frozen = s.frozen := rfl
@[simp] theorem State.onDram_out (s : State) (f : Dram → Dram) : (s.onDram f).out = s.out := rfl

/-! ## `onSpare` -/

@[simp] theorem State.onSpare_pending (s : State) (f : Sparing → Sparing) : (s.onSpare f).pending = s.pending := rfl
@[simp] theorem State.onSpare_clock (s : State) (f : Sparing → Sparing) : (s.onSpare f).clock = s.clock := rfl
@[simp] theorem State.onSpare_small (s : State) (f : Sparing → Sparing) : (s.onSpare f).small = s.small := rfl
@[simp] theorem State.onSpare_serial (s : State) (f : Sparing → Sparing) : (s.onSpare f).serial = s.serial := rfl
@[simp] theorem State.onSpare_host (s : State) (f : Sparing → Sparing) : (s.onSpare f).host = s.host := rfl
@[simp] theorem State.onSpare_cap (s : State) (f : Sparing → Sparing) : (s.onSpare f).cap = s.cap := rfl
@[simp] theorem State.onSpare_xlat (s : State) (f : Sparing → Sparing) : (s.onSpare f).xlat = s.xlat := rfl
@[simp] theorem State.onSpare_alloc (s : State) (f : Sparing → Sparing) : (s.onSpare f).alloc = s.alloc := rfl
@[simp] theorem State.onSpare_tile (s : State) (f : Sparing → Sparing) : (s.onSpare f).tile = s.tile := rfl
@[simp] theorem State.onSpare_place (s : State) (f : Sparing → Sparing) : (s.onSpare f).place = s.place := rfl
@[simp] theorem State.onSpare_cache (s : State) (f : Sparing → Sparing) : (s.onSpare f).cache = s.cache := rfl
@[simp] theorem State.onSpare_flash (s : State) (f : Sparing → Sparing) : (s.onSpare f).flash = s.flash := rfl
@[simp] theorem State.onSpare_dram (s : State) (f : Sparing → Sparing) : (s.onSpare f).dram = s.dram := rfl
@[simp] theorem State.onSpare_spare (s : State) (f : Sparing → Sparing) : (s.onSpare f).spare = f s.spare := rfl
@[simp] theorem State.onSpare_reg (s : State) (f : Sparing → Sparing) : (s.onSpare f).reg = s.reg := rfl
@[simp] theorem State.onSpare_link (s : State) (f : Sparing → Sparing) : (s.onSpare f).link = s.link := rfl
@[simp] theorem State.onSpare_casc (s : State) (f : Sparing → Sparing) : (s.onSpare f).casc = s.casc := rfl
@[simp] theorem State.onSpare_purlin (s : State) (f : Sparing → Sparing) : (s.onSpare f).purlin = s.purlin := rfl
@[simp] theorem State.onSpare_boot (s : State) (f : Sparing → Sparing) : (s.onSpare f).boot = s.boot := rfl
@[simp] theorem State.onSpare_eaves (s : State) (f : Sparing → Sparing) : (s.onSpare f).eaves = s.eaves := rfl
@[simp] theorem State.onSpare_power (s : State) (f : Sparing → Sparing) : (s.onSpare f).power = s.power := rfl
@[simp] theorem State.onSpare_sram (s : State) (f : Sparing → Sparing) : (s.onSpare f).sram = s.sram := rfl
@[simp] theorem State.onSpare_ctr (s : State) (f : Sparing → Sparing) : (s.onSpare f).ctr = s.ctr := rfl
@[simp] theorem State.onSpare_conn (s : State) (f : Sparing → Sparing) : (s.onSpare f).conn = s.conn := rfl
@[simp] theorem State.onSpare_therm (s : State) (f : Sparing → Sparing) : (s.onSpare f).therm = s.therm := rfl
@[simp] theorem State.onSpare_frozen (s : State) (f : Sparing → Sparing) : (s.onSpare f).frozen = s.frozen := rfl
@[simp] theorem State.onSpare_out (s : State) (f : Sparing → Sparing) : (s.onSpare f).out = s.out := rfl

/-! ## `onReg` -/

@[simp] theorem State.onReg_pending (s : State) (f : Regulator → Regulator) : (s.onReg f).pending = s.pending := rfl
@[simp] theorem State.onReg_clock (s : State) (f : Regulator → Regulator) : (s.onReg f).clock = s.clock := rfl
@[simp] theorem State.onReg_small (s : State) (f : Regulator → Regulator) : (s.onReg f).small = s.small := rfl
@[simp] theorem State.onReg_serial (s : State) (f : Regulator → Regulator) : (s.onReg f).serial = s.serial := rfl
@[simp] theorem State.onReg_host (s : State) (f : Regulator → Regulator) : (s.onReg f).host = s.host := rfl
@[simp] theorem State.onReg_cap (s : State) (f : Regulator → Regulator) : (s.onReg f).cap = s.cap := rfl
@[simp] theorem State.onReg_xlat (s : State) (f : Regulator → Regulator) : (s.onReg f).xlat = s.xlat := rfl
@[simp] theorem State.onReg_alloc (s : State) (f : Regulator → Regulator) : (s.onReg f).alloc = s.alloc := rfl
@[simp] theorem State.onReg_tile (s : State) (f : Regulator → Regulator) : (s.onReg f).tile = s.tile := rfl
@[simp] theorem State.onReg_place (s : State) (f : Regulator → Regulator) : (s.onReg f).place = s.place := rfl
@[simp] theorem State.onReg_cache (s : State) (f : Regulator → Regulator) : (s.onReg f).cache = s.cache := rfl
@[simp] theorem State.onReg_flash (s : State) (f : Regulator → Regulator) : (s.onReg f).flash = s.flash := rfl
@[simp] theorem State.onReg_dram (s : State) (f : Regulator → Regulator) : (s.onReg f).dram = s.dram := rfl
@[simp] theorem State.onReg_spare (s : State) (f : Regulator → Regulator) : (s.onReg f).spare = s.spare := rfl
@[simp] theorem State.onReg_reg (s : State) (f : Regulator → Regulator) : (s.onReg f).reg = f s.reg := rfl
@[simp] theorem State.onReg_link (s : State) (f : Regulator → Regulator) : (s.onReg f).link = s.link := rfl
@[simp] theorem State.onReg_casc (s : State) (f : Regulator → Regulator) : (s.onReg f).casc = s.casc := rfl
@[simp] theorem State.onReg_purlin (s : State) (f : Regulator → Regulator) : (s.onReg f).purlin = s.purlin := rfl
@[simp] theorem State.onReg_boot (s : State) (f : Regulator → Regulator) : (s.onReg f).boot = s.boot := rfl
@[simp] theorem State.onReg_eaves (s : State) (f : Regulator → Regulator) : (s.onReg f).eaves = s.eaves := rfl
@[simp] theorem State.onReg_power (s : State) (f : Regulator → Regulator) : (s.onReg f).power = s.power := rfl
@[simp] theorem State.onReg_sram (s : State) (f : Regulator → Regulator) : (s.onReg f).sram = s.sram := rfl
@[simp] theorem State.onReg_ctr (s : State) (f : Regulator → Regulator) : (s.onReg f).ctr = s.ctr := rfl
@[simp] theorem State.onReg_conn (s : State) (f : Regulator → Regulator) : (s.onReg f).conn = s.conn := rfl
@[simp] theorem State.onReg_therm (s : State) (f : Regulator → Regulator) : (s.onReg f).therm = s.therm := rfl
@[simp] theorem State.onReg_frozen (s : State) (f : Regulator → Regulator) : (s.onReg f).frozen = s.frozen := rfl
@[simp] theorem State.onReg_out (s : State) (f : Regulator → Regulator) : (s.onReg f).out = s.out := rfl

/-! ## `onLink` -/

@[simp] theorem State.onLink_pending (s : State) (f : Rafter → Rafter) : (s.onLink f).pending = s.pending := rfl
@[simp] theorem State.onLink_clock (s : State) (f : Rafter → Rafter) : (s.onLink f).clock = s.clock := rfl
@[simp] theorem State.onLink_small (s : State) (f : Rafter → Rafter) : (s.onLink f).small = s.small := rfl
@[simp] theorem State.onLink_serial (s : State) (f : Rafter → Rafter) : (s.onLink f).serial = s.serial := rfl
@[simp] theorem State.onLink_host (s : State) (f : Rafter → Rafter) : (s.onLink f).host = s.host := rfl
@[simp] theorem State.onLink_cap (s : State) (f : Rafter → Rafter) : (s.onLink f).cap = s.cap := rfl
@[simp] theorem State.onLink_xlat (s : State) (f : Rafter → Rafter) : (s.onLink f).xlat = s.xlat := rfl
@[simp] theorem State.onLink_alloc (s : State) (f : Rafter → Rafter) : (s.onLink f).alloc = s.alloc := rfl
@[simp] theorem State.onLink_tile (s : State) (f : Rafter → Rafter) : (s.onLink f).tile = s.tile := rfl
@[simp] theorem State.onLink_place (s : State) (f : Rafter → Rafter) : (s.onLink f).place = s.place := rfl
@[simp] theorem State.onLink_cache (s : State) (f : Rafter → Rafter) : (s.onLink f).cache = s.cache := rfl
@[simp] theorem State.onLink_flash (s : State) (f : Rafter → Rafter) : (s.onLink f).flash = s.flash := rfl
@[simp] theorem State.onLink_dram (s : State) (f : Rafter → Rafter) : (s.onLink f).dram = s.dram := rfl
@[simp] theorem State.onLink_spare (s : State) (f : Rafter → Rafter) : (s.onLink f).spare = s.spare := rfl
@[simp] theorem State.onLink_reg (s : State) (f : Rafter → Rafter) : (s.onLink f).reg = s.reg := rfl
@[simp] theorem State.onLink_link (s : State) (f : Rafter → Rafter) : (s.onLink f).link = f s.link := rfl
@[simp] theorem State.onLink_casc (s : State) (f : Rafter → Rafter) : (s.onLink f).casc = s.casc := rfl
@[simp] theorem State.onLink_purlin (s : State) (f : Rafter → Rafter) : (s.onLink f).purlin = s.purlin := rfl
@[simp] theorem State.onLink_boot (s : State) (f : Rafter → Rafter) : (s.onLink f).boot = s.boot := rfl
@[simp] theorem State.onLink_eaves (s : State) (f : Rafter → Rafter) : (s.onLink f).eaves = s.eaves := rfl
@[simp] theorem State.onLink_power (s : State) (f : Rafter → Rafter) : (s.onLink f).power = s.power := rfl
@[simp] theorem State.onLink_sram (s : State) (f : Rafter → Rafter) : (s.onLink f).sram = s.sram := rfl
@[simp] theorem State.onLink_ctr (s : State) (f : Rafter → Rafter) : (s.onLink f).ctr = s.ctr := rfl
@[simp] theorem State.onLink_conn (s : State) (f : Rafter → Rafter) : (s.onLink f).conn = s.conn := rfl
@[simp] theorem State.onLink_therm (s : State) (f : Rafter → Rafter) : (s.onLink f).therm = s.therm := rfl
@[simp] theorem State.onLink_frozen (s : State) (f : Rafter → Rafter) : (s.onLink f).frozen = s.frozen := rfl
@[simp] theorem State.onLink_out (s : State) (f : Rafter → Rafter) : (s.onLink f).out = s.out := rfl

/-! ## `onCasc` -/

@[simp] theorem State.onCasc_pending (s : State) (f : Cascade → Cascade) : (s.onCasc f).pending = s.pending := rfl
@[simp] theorem State.onCasc_clock (s : State) (f : Cascade → Cascade) : (s.onCasc f).clock = s.clock := rfl
@[simp] theorem State.onCasc_small (s : State) (f : Cascade → Cascade) : (s.onCasc f).small = s.small := rfl
@[simp] theorem State.onCasc_serial (s : State) (f : Cascade → Cascade) : (s.onCasc f).serial = s.serial := rfl
@[simp] theorem State.onCasc_host (s : State) (f : Cascade → Cascade) : (s.onCasc f).host = s.host := rfl
@[simp] theorem State.onCasc_cap (s : State) (f : Cascade → Cascade) : (s.onCasc f).cap = s.cap := rfl
@[simp] theorem State.onCasc_xlat (s : State) (f : Cascade → Cascade) : (s.onCasc f).xlat = s.xlat := rfl
@[simp] theorem State.onCasc_alloc (s : State) (f : Cascade → Cascade) : (s.onCasc f).alloc = s.alloc := rfl
@[simp] theorem State.onCasc_tile (s : State) (f : Cascade → Cascade) : (s.onCasc f).tile = s.tile := rfl
@[simp] theorem State.onCasc_place (s : State) (f : Cascade → Cascade) : (s.onCasc f).place = s.place := rfl
@[simp] theorem State.onCasc_cache (s : State) (f : Cascade → Cascade) : (s.onCasc f).cache = s.cache := rfl
@[simp] theorem State.onCasc_flash (s : State) (f : Cascade → Cascade) : (s.onCasc f).flash = s.flash := rfl
@[simp] theorem State.onCasc_dram (s : State) (f : Cascade → Cascade) : (s.onCasc f).dram = s.dram := rfl
@[simp] theorem State.onCasc_spare (s : State) (f : Cascade → Cascade) : (s.onCasc f).spare = s.spare := rfl
@[simp] theorem State.onCasc_reg (s : State) (f : Cascade → Cascade) : (s.onCasc f).reg = s.reg := rfl
@[simp] theorem State.onCasc_link (s : State) (f : Cascade → Cascade) : (s.onCasc f).link = s.link := rfl
@[simp] theorem State.onCasc_casc (s : State) (f : Cascade → Cascade) : (s.onCasc f).casc = f s.casc := rfl
@[simp] theorem State.onCasc_purlin (s : State) (f : Cascade → Cascade) : (s.onCasc f).purlin = s.purlin := rfl
@[simp] theorem State.onCasc_boot (s : State) (f : Cascade → Cascade) : (s.onCasc f).boot = s.boot := rfl
@[simp] theorem State.onCasc_eaves (s : State) (f : Cascade → Cascade) : (s.onCasc f).eaves = s.eaves := rfl
@[simp] theorem State.onCasc_power (s : State) (f : Cascade → Cascade) : (s.onCasc f).power = s.power := rfl
@[simp] theorem State.onCasc_sram (s : State) (f : Cascade → Cascade) : (s.onCasc f).sram = s.sram := rfl
@[simp] theorem State.onCasc_ctr (s : State) (f : Cascade → Cascade) : (s.onCasc f).ctr = s.ctr := rfl
@[simp] theorem State.onCasc_conn (s : State) (f : Cascade → Cascade) : (s.onCasc f).conn = s.conn := rfl
@[simp] theorem State.onCasc_therm (s : State) (f : Cascade → Cascade) : (s.onCasc f).therm = s.therm := rfl
@[simp] theorem State.onCasc_frozen (s : State) (f : Cascade → Cascade) : (s.onCasc f).frozen = s.frozen := rfl
@[simp] theorem State.onCasc_out (s : State) (f : Cascade → Cascade) : (s.onCasc f).out = s.out := rfl

/-! ## `onPurlin` -/

@[simp] theorem State.onPurlin_pending (s : State) (f : Purlin → Purlin) : (s.onPurlin f).pending = s.pending := rfl
@[simp] theorem State.onPurlin_clock (s : State) (f : Purlin → Purlin) : (s.onPurlin f).clock = s.clock := rfl
@[simp] theorem State.onPurlin_small (s : State) (f : Purlin → Purlin) : (s.onPurlin f).small = s.small := rfl
@[simp] theorem State.onPurlin_serial (s : State) (f : Purlin → Purlin) : (s.onPurlin f).serial = s.serial := rfl
@[simp] theorem State.onPurlin_host (s : State) (f : Purlin → Purlin) : (s.onPurlin f).host = s.host := rfl
@[simp] theorem State.onPurlin_cap (s : State) (f : Purlin → Purlin) : (s.onPurlin f).cap = s.cap := rfl
@[simp] theorem State.onPurlin_xlat (s : State) (f : Purlin → Purlin) : (s.onPurlin f).xlat = s.xlat := rfl
@[simp] theorem State.onPurlin_alloc (s : State) (f : Purlin → Purlin) : (s.onPurlin f).alloc = s.alloc := rfl
@[simp] theorem State.onPurlin_tile (s : State) (f : Purlin → Purlin) : (s.onPurlin f).tile = s.tile := rfl
@[simp] theorem State.onPurlin_place (s : State) (f : Purlin → Purlin) : (s.onPurlin f).place = s.place := rfl
@[simp] theorem State.onPurlin_cache (s : State) (f : Purlin → Purlin) : (s.onPurlin f).cache = s.cache := rfl
@[simp] theorem State.onPurlin_flash (s : State) (f : Purlin → Purlin) : (s.onPurlin f).flash = s.flash := rfl
@[simp] theorem State.onPurlin_dram (s : State) (f : Purlin → Purlin) : (s.onPurlin f).dram = s.dram := rfl
@[simp] theorem State.onPurlin_spare (s : State) (f : Purlin → Purlin) : (s.onPurlin f).spare = s.spare := rfl
@[simp] theorem State.onPurlin_reg (s : State) (f : Purlin → Purlin) : (s.onPurlin f).reg = s.reg := rfl
@[simp] theorem State.onPurlin_link (s : State) (f : Purlin → Purlin) : (s.onPurlin f).link = s.link := rfl
@[simp] theorem State.onPurlin_casc (s : State) (f : Purlin → Purlin) : (s.onPurlin f).casc = s.casc := rfl
@[simp] theorem State.onPurlin_purlin (s : State) (f : Purlin → Purlin) : (s.onPurlin f).purlin = f s.purlin := rfl
@[simp] theorem State.onPurlin_boot (s : State) (f : Purlin → Purlin) : (s.onPurlin f).boot = s.boot := rfl
@[simp] theorem State.onPurlin_eaves (s : State) (f : Purlin → Purlin) : (s.onPurlin f).eaves = s.eaves := rfl
@[simp] theorem State.onPurlin_power (s : State) (f : Purlin → Purlin) : (s.onPurlin f).power = s.power := rfl
@[simp] theorem State.onPurlin_sram (s : State) (f : Purlin → Purlin) : (s.onPurlin f).sram = s.sram := rfl
@[simp] theorem State.onPurlin_ctr (s : State) (f : Purlin → Purlin) : (s.onPurlin f).ctr = s.ctr := rfl
@[simp] theorem State.onPurlin_conn (s : State) (f : Purlin → Purlin) : (s.onPurlin f).conn = s.conn := rfl
@[simp] theorem State.onPurlin_therm (s : State) (f : Purlin → Purlin) : (s.onPurlin f).therm = s.therm := rfl
@[simp] theorem State.onPurlin_frozen (s : State) (f : Purlin → Purlin) : (s.onPurlin f).frozen = s.frozen := rfl
@[simp] theorem State.onPurlin_out (s : State) (f : Purlin → Purlin) : (s.onPurlin f).out = s.out := rfl

/-! ## `onBoot` -/

@[simp] theorem State.onBoot_pending (s : State) (f : BringUp → BringUp) : (s.onBoot f).pending = s.pending := rfl
@[simp] theorem State.onBoot_clock (s : State) (f : BringUp → BringUp) : (s.onBoot f).clock = s.clock := rfl
@[simp] theorem State.onBoot_small (s : State) (f : BringUp → BringUp) : (s.onBoot f).small = s.small := rfl
@[simp] theorem State.onBoot_serial (s : State) (f : BringUp → BringUp) : (s.onBoot f).serial = s.serial := rfl
@[simp] theorem State.onBoot_host (s : State) (f : BringUp → BringUp) : (s.onBoot f).host = s.host := rfl
@[simp] theorem State.onBoot_cap (s : State) (f : BringUp → BringUp) : (s.onBoot f).cap = s.cap := rfl
@[simp] theorem State.onBoot_xlat (s : State) (f : BringUp → BringUp) : (s.onBoot f).xlat = s.xlat := rfl
@[simp] theorem State.onBoot_alloc (s : State) (f : BringUp → BringUp) : (s.onBoot f).alloc = s.alloc := rfl
@[simp] theorem State.onBoot_tile (s : State) (f : BringUp → BringUp) : (s.onBoot f).tile = s.tile := rfl
@[simp] theorem State.onBoot_place (s : State) (f : BringUp → BringUp) : (s.onBoot f).place = s.place := rfl
@[simp] theorem State.onBoot_cache (s : State) (f : BringUp → BringUp) : (s.onBoot f).cache = s.cache := rfl
@[simp] theorem State.onBoot_flash (s : State) (f : BringUp → BringUp) : (s.onBoot f).flash = s.flash := rfl
@[simp] theorem State.onBoot_dram (s : State) (f : BringUp → BringUp) : (s.onBoot f).dram = s.dram := rfl
@[simp] theorem State.onBoot_spare (s : State) (f : BringUp → BringUp) : (s.onBoot f).spare = s.spare := rfl
@[simp] theorem State.onBoot_reg (s : State) (f : BringUp → BringUp) : (s.onBoot f).reg = s.reg := rfl
@[simp] theorem State.onBoot_link (s : State) (f : BringUp → BringUp) : (s.onBoot f).link = s.link := rfl
@[simp] theorem State.onBoot_casc (s : State) (f : BringUp → BringUp) : (s.onBoot f).casc = s.casc := rfl
@[simp] theorem State.onBoot_purlin (s : State) (f : BringUp → BringUp) : (s.onBoot f).purlin = s.purlin := rfl
@[simp] theorem State.onBoot_boot (s : State) (f : BringUp → BringUp) : (s.onBoot f).boot = f s.boot := rfl
@[simp] theorem State.onBoot_eaves (s : State) (f : BringUp → BringUp) : (s.onBoot f).eaves = s.eaves := rfl
@[simp] theorem State.onBoot_power (s : State) (f : BringUp → BringUp) : (s.onBoot f).power = s.power := rfl
@[simp] theorem State.onBoot_sram (s : State) (f : BringUp → BringUp) : (s.onBoot f).sram = s.sram := rfl
@[simp] theorem State.onBoot_ctr (s : State) (f : BringUp → BringUp) : (s.onBoot f).ctr = s.ctr := rfl
@[simp] theorem State.onBoot_conn (s : State) (f : BringUp → BringUp) : (s.onBoot f).conn = s.conn := rfl
@[simp] theorem State.onBoot_therm (s : State) (f : BringUp → BringUp) : (s.onBoot f).therm = s.therm := rfl
@[simp] theorem State.onBoot_frozen (s : State) (f : BringUp → BringUp) : (s.onBoot f).frozen = s.frozen := rfl
@[simp] theorem State.onBoot_out (s : State) (f : BringUp → BringUp) : (s.onBoot f).out = s.out := rfl

/-! ## `onEaves` -/

@[simp] theorem State.onEaves_pending (s : State) (f : Eaves → Eaves) : (s.onEaves f).pending = s.pending := rfl
@[simp] theorem State.onEaves_clock (s : State) (f : Eaves → Eaves) : (s.onEaves f).clock = s.clock := rfl
@[simp] theorem State.onEaves_small (s : State) (f : Eaves → Eaves) : (s.onEaves f).small = s.small := rfl
@[simp] theorem State.onEaves_serial (s : State) (f : Eaves → Eaves) : (s.onEaves f).serial = s.serial := rfl
@[simp] theorem State.onEaves_host (s : State) (f : Eaves → Eaves) : (s.onEaves f).host = s.host := rfl
@[simp] theorem State.onEaves_cap (s : State) (f : Eaves → Eaves) : (s.onEaves f).cap = s.cap := rfl
@[simp] theorem State.onEaves_xlat (s : State) (f : Eaves → Eaves) : (s.onEaves f).xlat = s.xlat := rfl
@[simp] theorem State.onEaves_alloc (s : State) (f : Eaves → Eaves) : (s.onEaves f).alloc = s.alloc := rfl
@[simp] theorem State.onEaves_tile (s : State) (f : Eaves → Eaves) : (s.onEaves f).tile = s.tile := rfl
@[simp] theorem State.onEaves_place (s : State) (f : Eaves → Eaves) : (s.onEaves f).place = s.place := rfl
@[simp] theorem State.onEaves_cache (s : State) (f : Eaves → Eaves) : (s.onEaves f).cache = s.cache := rfl
@[simp] theorem State.onEaves_flash (s : State) (f : Eaves → Eaves) : (s.onEaves f).flash = s.flash := rfl
@[simp] theorem State.onEaves_dram (s : State) (f : Eaves → Eaves) : (s.onEaves f).dram = s.dram := rfl
@[simp] theorem State.onEaves_spare (s : State) (f : Eaves → Eaves) : (s.onEaves f).spare = s.spare := rfl
@[simp] theorem State.onEaves_reg (s : State) (f : Eaves → Eaves) : (s.onEaves f).reg = s.reg := rfl
@[simp] theorem State.onEaves_link (s : State) (f : Eaves → Eaves) : (s.onEaves f).link = s.link := rfl
@[simp] theorem State.onEaves_casc (s : State) (f : Eaves → Eaves) : (s.onEaves f).casc = s.casc := rfl
@[simp] theorem State.onEaves_purlin (s : State) (f : Eaves → Eaves) : (s.onEaves f).purlin = s.purlin := rfl
@[simp] theorem State.onEaves_boot (s : State) (f : Eaves → Eaves) : (s.onEaves f).boot = s.boot := rfl
@[simp] theorem State.onEaves_eaves (s : State) (f : Eaves → Eaves) : (s.onEaves f).eaves = f s.eaves := rfl
@[simp] theorem State.onEaves_power (s : State) (f : Eaves → Eaves) : (s.onEaves f).power = s.power := rfl
@[simp] theorem State.onEaves_sram (s : State) (f : Eaves → Eaves) : (s.onEaves f).sram = s.sram := rfl
@[simp] theorem State.onEaves_ctr (s : State) (f : Eaves → Eaves) : (s.onEaves f).ctr = s.ctr := rfl
@[simp] theorem State.onEaves_conn (s : State) (f : Eaves → Eaves) : (s.onEaves f).conn = s.conn := rfl
@[simp] theorem State.onEaves_therm (s : State) (f : Eaves → Eaves) : (s.onEaves f).therm = s.therm := rfl
@[simp] theorem State.onEaves_frozen (s : State) (f : Eaves → Eaves) : (s.onEaves f).frozen = s.frozen := rfl
@[simp] theorem State.onEaves_out (s : State) (f : Eaves → Eaves) : (s.onEaves f).out = s.out := rfl

/-! ## `onPower` -/

@[simp] theorem State.onPower_pending (s : State) (f : PowerPath → PowerPath) : (s.onPower f).pending = s.pending := rfl
@[simp] theorem State.onPower_clock (s : State) (f : PowerPath → PowerPath) : (s.onPower f).clock = s.clock := rfl
@[simp] theorem State.onPower_small (s : State) (f : PowerPath → PowerPath) : (s.onPower f).small = s.small := rfl
@[simp] theorem State.onPower_serial (s : State) (f : PowerPath → PowerPath) : (s.onPower f).serial = s.serial := rfl
@[simp] theorem State.onPower_host (s : State) (f : PowerPath → PowerPath) : (s.onPower f).host = s.host := rfl
@[simp] theorem State.onPower_cap (s : State) (f : PowerPath → PowerPath) : (s.onPower f).cap = s.cap := rfl
@[simp] theorem State.onPower_xlat (s : State) (f : PowerPath → PowerPath) : (s.onPower f).xlat = s.xlat := rfl
@[simp] theorem State.onPower_alloc (s : State) (f : PowerPath → PowerPath) : (s.onPower f).alloc = s.alloc := rfl
@[simp] theorem State.onPower_tile (s : State) (f : PowerPath → PowerPath) : (s.onPower f).tile = s.tile := rfl
@[simp] theorem State.onPower_place (s : State) (f : PowerPath → PowerPath) : (s.onPower f).place = s.place := rfl
@[simp] theorem State.onPower_cache (s : State) (f : PowerPath → PowerPath) : (s.onPower f).cache = s.cache := rfl
@[simp] theorem State.onPower_flash (s : State) (f : PowerPath → PowerPath) : (s.onPower f).flash = s.flash := rfl
@[simp] theorem State.onPower_dram (s : State) (f : PowerPath → PowerPath) : (s.onPower f).dram = s.dram := rfl
@[simp] theorem State.onPower_spare (s : State) (f : PowerPath → PowerPath) : (s.onPower f).spare = s.spare := rfl
@[simp] theorem State.onPower_reg (s : State) (f : PowerPath → PowerPath) : (s.onPower f).reg = s.reg := rfl
@[simp] theorem State.onPower_link (s : State) (f : PowerPath → PowerPath) : (s.onPower f).link = s.link := rfl
@[simp] theorem State.onPower_casc (s : State) (f : PowerPath → PowerPath) : (s.onPower f).casc = s.casc := rfl
@[simp] theorem State.onPower_purlin (s : State) (f : PowerPath → PowerPath) : (s.onPower f).purlin = s.purlin := rfl
@[simp] theorem State.onPower_boot (s : State) (f : PowerPath → PowerPath) : (s.onPower f).boot = s.boot := rfl
@[simp] theorem State.onPower_eaves (s : State) (f : PowerPath → PowerPath) : (s.onPower f).eaves = s.eaves := rfl
@[simp] theorem State.onPower_power (s : State) (f : PowerPath → PowerPath) : (s.onPower f).power = f s.power := rfl
@[simp] theorem State.onPower_sram (s : State) (f : PowerPath → PowerPath) : (s.onPower f).sram = s.sram := rfl
@[simp] theorem State.onPower_ctr (s : State) (f : PowerPath → PowerPath) : (s.onPower f).ctr = s.ctr := rfl
@[simp] theorem State.onPower_conn (s : State) (f : PowerPath → PowerPath) : (s.onPower f).conn = s.conn := rfl
@[simp] theorem State.onPower_therm (s : State) (f : PowerPath → PowerPath) : (s.onPower f).therm = s.therm := rfl
@[simp] theorem State.onPower_frozen (s : State) (f : PowerPath → PowerPath) : (s.onPower f).frozen = s.frozen := rfl
@[simp] theorem State.onPower_out (s : State) (f : PowerPath → PowerPath) : (s.onPower f).out = s.out := rfl

/-! ## `onSram` -/

@[simp] theorem State.onSram_pending (s : State) (f : OnChip → OnChip) : (s.onSram f).pending = s.pending := rfl
@[simp] theorem State.onSram_clock (s : State) (f : OnChip → OnChip) : (s.onSram f).clock = s.clock := rfl
@[simp] theorem State.onSram_small (s : State) (f : OnChip → OnChip) : (s.onSram f).small = s.small := rfl
@[simp] theorem State.onSram_serial (s : State) (f : OnChip → OnChip) : (s.onSram f).serial = s.serial := rfl
@[simp] theorem State.onSram_host (s : State) (f : OnChip → OnChip) : (s.onSram f).host = s.host := rfl
@[simp] theorem State.onSram_cap (s : State) (f : OnChip → OnChip) : (s.onSram f).cap = s.cap := rfl
@[simp] theorem State.onSram_xlat (s : State) (f : OnChip → OnChip) : (s.onSram f).xlat = s.xlat := rfl
@[simp] theorem State.onSram_alloc (s : State) (f : OnChip → OnChip) : (s.onSram f).alloc = s.alloc := rfl
@[simp] theorem State.onSram_tile (s : State) (f : OnChip → OnChip) : (s.onSram f).tile = s.tile := rfl
@[simp] theorem State.onSram_place (s : State) (f : OnChip → OnChip) : (s.onSram f).place = s.place := rfl
@[simp] theorem State.onSram_cache (s : State) (f : OnChip → OnChip) : (s.onSram f).cache = s.cache := rfl
@[simp] theorem State.onSram_flash (s : State) (f : OnChip → OnChip) : (s.onSram f).flash = s.flash := rfl
@[simp] theorem State.onSram_dram (s : State) (f : OnChip → OnChip) : (s.onSram f).dram = s.dram := rfl
@[simp] theorem State.onSram_spare (s : State) (f : OnChip → OnChip) : (s.onSram f).spare = s.spare := rfl
@[simp] theorem State.onSram_reg (s : State) (f : OnChip → OnChip) : (s.onSram f).reg = s.reg := rfl
@[simp] theorem State.onSram_link (s : State) (f : OnChip → OnChip) : (s.onSram f).link = s.link := rfl
@[simp] theorem State.onSram_casc (s : State) (f : OnChip → OnChip) : (s.onSram f).casc = s.casc := rfl
@[simp] theorem State.onSram_purlin (s : State) (f : OnChip → OnChip) : (s.onSram f).purlin = s.purlin := rfl
@[simp] theorem State.onSram_boot (s : State) (f : OnChip → OnChip) : (s.onSram f).boot = s.boot := rfl
@[simp] theorem State.onSram_eaves (s : State) (f : OnChip → OnChip) : (s.onSram f).eaves = s.eaves := rfl
@[simp] theorem State.onSram_power (s : State) (f : OnChip → OnChip) : (s.onSram f).power = s.power := rfl
@[simp] theorem State.onSram_sram (s : State) (f : OnChip → OnChip) : (s.onSram f).sram = f s.sram := rfl
@[simp] theorem State.onSram_ctr (s : State) (f : OnChip → OnChip) : (s.onSram f).ctr = s.ctr := rfl
@[simp] theorem State.onSram_conn (s : State) (f : OnChip → OnChip) : (s.onSram f).conn = s.conn := rfl
@[simp] theorem State.onSram_therm (s : State) (f : OnChip → OnChip) : (s.onSram f).therm = s.therm := rfl
@[simp] theorem State.onSram_frozen (s : State) (f : OnChip → OnChip) : (s.onSram f).frozen = s.frozen := rfl
@[simp] theorem State.onSram_out (s : State) (f : OnChip → OnChip) : (s.onSram f).out = s.out := rfl

/-! ## `onCtr` -/

@[simp] theorem State.onCtr_pending (s : State) (f : Counters → Counters) : (s.onCtr f).pending = s.pending := rfl
@[simp] theorem State.onCtr_clock (s : State) (f : Counters → Counters) : (s.onCtr f).clock = s.clock := rfl
@[simp] theorem State.onCtr_small (s : State) (f : Counters → Counters) : (s.onCtr f).small = s.small := rfl
@[simp] theorem State.onCtr_serial (s : State) (f : Counters → Counters) : (s.onCtr f).serial = s.serial := rfl
@[simp] theorem State.onCtr_host (s : State) (f : Counters → Counters) : (s.onCtr f).host = s.host := rfl
@[simp] theorem State.onCtr_cap (s : State) (f : Counters → Counters) : (s.onCtr f).cap = s.cap := rfl
@[simp] theorem State.onCtr_xlat (s : State) (f : Counters → Counters) : (s.onCtr f).xlat = s.xlat := rfl
@[simp] theorem State.onCtr_alloc (s : State) (f : Counters → Counters) : (s.onCtr f).alloc = s.alloc := rfl
@[simp] theorem State.onCtr_tile (s : State) (f : Counters → Counters) : (s.onCtr f).tile = s.tile := rfl
@[simp] theorem State.onCtr_place (s : State) (f : Counters → Counters) : (s.onCtr f).place = s.place := rfl
@[simp] theorem State.onCtr_cache (s : State) (f : Counters → Counters) : (s.onCtr f).cache = s.cache := rfl
@[simp] theorem State.onCtr_flash (s : State) (f : Counters → Counters) : (s.onCtr f).flash = s.flash := rfl
@[simp] theorem State.onCtr_dram (s : State) (f : Counters → Counters) : (s.onCtr f).dram = s.dram := rfl
@[simp] theorem State.onCtr_spare (s : State) (f : Counters → Counters) : (s.onCtr f).spare = s.spare := rfl
@[simp] theorem State.onCtr_reg (s : State) (f : Counters → Counters) : (s.onCtr f).reg = s.reg := rfl
@[simp] theorem State.onCtr_link (s : State) (f : Counters → Counters) : (s.onCtr f).link = s.link := rfl
@[simp] theorem State.onCtr_casc (s : State) (f : Counters → Counters) : (s.onCtr f).casc = s.casc := rfl
@[simp] theorem State.onCtr_purlin (s : State) (f : Counters → Counters) : (s.onCtr f).purlin = s.purlin := rfl
@[simp] theorem State.onCtr_boot (s : State) (f : Counters → Counters) : (s.onCtr f).boot = s.boot := rfl
@[simp] theorem State.onCtr_eaves (s : State) (f : Counters → Counters) : (s.onCtr f).eaves = s.eaves := rfl
@[simp] theorem State.onCtr_power (s : State) (f : Counters → Counters) : (s.onCtr f).power = s.power := rfl
@[simp] theorem State.onCtr_sram (s : State) (f : Counters → Counters) : (s.onCtr f).sram = s.sram := rfl
@[simp] theorem State.onCtr_ctr (s : State) (f : Counters → Counters) : (s.onCtr f).ctr = f s.ctr := rfl
@[simp] theorem State.onCtr_conn (s : State) (f : Counters → Counters) : (s.onCtr f).conn = s.conn := rfl
@[simp] theorem State.onCtr_therm (s : State) (f : Counters → Counters) : (s.onCtr f).therm = s.therm := rfl
@[simp] theorem State.onCtr_frozen (s : State) (f : Counters → Counters) : (s.onCtr f).frozen = s.frozen := rfl
@[simp] theorem State.onCtr_out (s : State) (f : Counters → Counters) : (s.onCtr f).out = s.out := rfl

/-! ## `onConn` -/

@[simp] theorem State.onConn_pending (s : State) (f : Connector → Connector) : (s.onConn f).pending = s.pending := rfl
@[simp] theorem State.onConn_clock (s : State) (f : Connector → Connector) : (s.onConn f).clock = s.clock := rfl
@[simp] theorem State.onConn_small (s : State) (f : Connector → Connector) : (s.onConn f).small = s.small := rfl
@[simp] theorem State.onConn_serial (s : State) (f : Connector → Connector) : (s.onConn f).serial = s.serial := rfl
@[simp] theorem State.onConn_host (s : State) (f : Connector → Connector) : (s.onConn f).host = s.host := rfl
@[simp] theorem State.onConn_cap (s : State) (f : Connector → Connector) : (s.onConn f).cap = s.cap := rfl
@[simp] theorem State.onConn_xlat (s : State) (f : Connector → Connector) : (s.onConn f).xlat = s.xlat := rfl
@[simp] theorem State.onConn_alloc (s : State) (f : Connector → Connector) : (s.onConn f).alloc = s.alloc := rfl
@[simp] theorem State.onConn_tile (s : State) (f : Connector → Connector) : (s.onConn f).tile = s.tile := rfl
@[simp] theorem State.onConn_place (s : State) (f : Connector → Connector) : (s.onConn f).place = s.place := rfl
@[simp] theorem State.onConn_cache (s : State) (f : Connector → Connector) : (s.onConn f).cache = s.cache := rfl
@[simp] theorem State.onConn_flash (s : State) (f : Connector → Connector) : (s.onConn f).flash = s.flash := rfl
@[simp] theorem State.onConn_dram (s : State) (f : Connector → Connector) : (s.onConn f).dram = s.dram := rfl
@[simp] theorem State.onConn_spare (s : State) (f : Connector → Connector) : (s.onConn f).spare = s.spare := rfl
@[simp] theorem State.onConn_reg (s : State) (f : Connector → Connector) : (s.onConn f).reg = s.reg := rfl
@[simp] theorem State.onConn_link (s : State) (f : Connector → Connector) : (s.onConn f).link = s.link := rfl
@[simp] theorem State.onConn_casc (s : State) (f : Connector → Connector) : (s.onConn f).casc = s.casc := rfl
@[simp] theorem State.onConn_purlin (s : State) (f : Connector → Connector) : (s.onConn f).purlin = s.purlin := rfl
@[simp] theorem State.onConn_boot (s : State) (f : Connector → Connector) : (s.onConn f).boot = s.boot := rfl
@[simp] theorem State.onConn_eaves (s : State) (f : Connector → Connector) : (s.onConn f).eaves = s.eaves := rfl
@[simp] theorem State.onConn_power (s : State) (f : Connector → Connector) : (s.onConn f).power = s.power := rfl
@[simp] theorem State.onConn_sram (s : State) (f : Connector → Connector) : (s.onConn f).sram = s.sram := rfl
@[simp] theorem State.onConn_ctr (s : State) (f : Connector → Connector) : (s.onConn f).ctr = s.ctr := rfl
@[simp] theorem State.onConn_conn (s : State) (f : Connector → Connector) : (s.onConn f).conn = f s.conn := rfl
@[simp] theorem State.onConn_therm (s : State) (f : Connector → Connector) : (s.onConn f).therm = s.therm := rfl
@[simp] theorem State.onConn_frozen (s : State) (f : Connector → Connector) : (s.onConn f).frozen = s.frozen := rfl
@[simp] theorem State.onConn_out (s : State) (f : Connector → Connector) : (s.onConn f).out = s.out := rfl

/-! ## `onTherm` -/

@[simp] theorem State.onTherm_pending (s : State) (f : Thermal → Thermal) : (s.onTherm f).pending = s.pending := rfl
@[simp] theorem State.onTherm_clock (s : State) (f : Thermal → Thermal) : (s.onTherm f).clock = s.clock := rfl
@[simp] theorem State.onTherm_small (s : State) (f : Thermal → Thermal) : (s.onTherm f).small = s.small := rfl
@[simp] theorem State.onTherm_serial (s : State) (f : Thermal → Thermal) : (s.onTherm f).serial = s.serial := rfl
@[simp] theorem State.onTherm_host (s : State) (f : Thermal → Thermal) : (s.onTherm f).host = s.host := rfl
@[simp] theorem State.onTherm_cap (s : State) (f : Thermal → Thermal) : (s.onTherm f).cap = s.cap := rfl
@[simp] theorem State.onTherm_xlat (s : State) (f : Thermal → Thermal) : (s.onTherm f).xlat = s.xlat := rfl
@[simp] theorem State.onTherm_alloc (s : State) (f : Thermal → Thermal) : (s.onTherm f).alloc = s.alloc := rfl
@[simp] theorem State.onTherm_tile (s : State) (f : Thermal → Thermal) : (s.onTherm f).tile = s.tile := rfl
@[simp] theorem State.onTherm_place (s : State) (f : Thermal → Thermal) : (s.onTherm f).place = s.place := rfl
@[simp] theorem State.onTherm_cache (s : State) (f : Thermal → Thermal) : (s.onTherm f).cache = s.cache := rfl
@[simp] theorem State.onTherm_flash (s : State) (f : Thermal → Thermal) : (s.onTherm f).flash = s.flash := rfl
@[simp] theorem State.onTherm_dram (s : State) (f : Thermal → Thermal) : (s.onTherm f).dram = s.dram := rfl
@[simp] theorem State.onTherm_spare (s : State) (f : Thermal → Thermal) : (s.onTherm f).spare = s.spare := rfl
@[simp] theorem State.onTherm_reg (s : State) (f : Thermal → Thermal) : (s.onTherm f).reg = s.reg := rfl
@[simp] theorem State.onTherm_link (s : State) (f : Thermal → Thermal) : (s.onTherm f).link = s.link := rfl
@[simp] theorem State.onTherm_casc (s : State) (f : Thermal → Thermal) : (s.onTherm f).casc = s.casc := rfl
@[simp] theorem State.onTherm_purlin (s : State) (f : Thermal → Thermal) : (s.onTherm f).purlin = s.purlin := rfl
@[simp] theorem State.onTherm_boot (s : State) (f : Thermal → Thermal) : (s.onTherm f).boot = s.boot := rfl
@[simp] theorem State.onTherm_eaves (s : State) (f : Thermal → Thermal) : (s.onTherm f).eaves = s.eaves := rfl
@[simp] theorem State.onTherm_power (s : State) (f : Thermal → Thermal) : (s.onTherm f).power = s.power := rfl
@[simp] theorem State.onTherm_sram (s : State) (f : Thermal → Thermal) : (s.onTherm f).sram = s.sram := rfl
@[simp] theorem State.onTherm_ctr (s : State) (f : Thermal → Thermal) : (s.onTherm f).ctr = s.ctr := rfl
@[simp] theorem State.onTherm_conn (s : State) (f : Thermal → Thermal) : (s.onTherm f).conn = s.conn := rfl
@[simp] theorem State.onTherm_therm (s : State) (f : Thermal → Thermal) : (s.onTherm f).therm = f s.therm := rfl
@[simp] theorem State.onTherm_frozen (s : State) (f : Thermal → Thermal) : (s.onTherm f).frozen = s.frozen := rfl
@[simp] theorem State.onTherm_out (s : State) (f : Thermal → Thermal) : (s.onTherm f).out = s.out := rfl

/-! ## `emit` -/

@[simp] theorem State.emit_pending (s : State) (o : Out) : (s.emit o).pending = s.pending := rfl
@[simp] theorem State.emit_clock (s : State) (o : Out) : (s.emit o).clock = s.clock := rfl
@[simp] theorem State.emit_small (s : State) (o : Out) : (s.emit o).small = s.small := rfl
@[simp] theorem State.emit_serial (s : State) (o : Out) : (s.emit o).serial = s.serial := rfl
@[simp] theorem State.emit_host (s : State) (o : Out) : (s.emit o).host = s.host := rfl
@[simp] theorem State.emit_cap (s : State) (o : Out) : (s.emit o).cap = s.cap := rfl
@[simp] theorem State.emit_xlat (s : State) (o : Out) : (s.emit o).xlat = s.xlat := rfl
@[simp] theorem State.emit_alloc (s : State) (o : Out) : (s.emit o).alloc = s.alloc := rfl
@[simp] theorem State.emit_tile (s : State) (o : Out) : (s.emit o).tile = s.tile := rfl
@[simp] theorem State.emit_place (s : State) (o : Out) : (s.emit o).place = s.place := rfl
@[simp] theorem State.emit_cache (s : State) (o : Out) : (s.emit o).cache = s.cache := rfl
@[simp] theorem State.emit_flash (s : State) (o : Out) : (s.emit o).flash = s.flash := rfl
@[simp] theorem State.emit_dram (s : State) (o : Out) : (s.emit o).dram = s.dram := rfl
@[simp] theorem State.emit_spare (s : State) (o : Out) : (s.emit o).spare = s.spare := rfl
@[simp] theorem State.emit_reg (s : State) (o : Out) : (s.emit o).reg = s.reg := rfl
@[simp] theorem State.emit_link (s : State) (o : Out) : (s.emit o).link = s.link := rfl
@[simp] theorem State.emit_casc (s : State) (o : Out) : (s.emit o).casc = s.casc := rfl
@[simp] theorem State.emit_purlin (s : State) (o : Out) : (s.emit o).purlin = s.purlin := rfl
@[simp] theorem State.emit_boot (s : State) (o : Out) : (s.emit o).boot = s.boot := rfl
@[simp] theorem State.emit_eaves (s : State) (o : Out) : (s.emit o).eaves = s.eaves := rfl
@[simp] theorem State.emit_power (s : State) (o : Out) : (s.emit o).power = s.power := rfl
@[simp] theorem State.emit_sram (s : State) (o : Out) : (s.emit o).sram = s.sram := rfl
@[simp] theorem State.emit_ctr (s : State) (o : Out) : (s.emit o).ctr = s.ctr := rfl
@[simp] theorem State.emit_conn (s : State) (o : Out) : (s.emit o).conn = s.conn := rfl
@[simp] theorem State.emit_therm (s : State) (o : Out) : (s.emit o).therm = s.therm := rfl
@[simp] theorem State.emit_frozen (s : State) (o : Out) : (s.emit o).frozen = s.frozen := rfl
@[simp] theorem State.emit_out (s : State) (o : Out) : (s.emit o).out = s.out ++ [o] := rfl

/-! ## Two updates of one part -/

theorem State.onHost_onHost (s : State) (f g : HostSide → HostSide) :
    (s.onHost f).onHost g = s.onHost fun x => g (f x) := rfl
theorem State.onCap_onCap (s : State) (f g : Capacity → Capacity) :
    (s.onCap f).onCap g = s.onCap fun x => g (f x) := rfl
theorem State.onXlat_onXlat (s : State) (f g : Translation → Translation) :
    (s.onXlat f).onXlat g = s.onXlat fun x => g (f x) := rfl
theorem State.onAlloc_onAlloc (s : State) (f g : Allocator → Allocator) :
    (s.onAlloc f).onAlloc g = s.onAlloc fun x => g (f x) := rfl
theorem State.onTile_onTile (s : State) (f g : TileEngine → TileEngine) :
    (s.onTile f).onTile g = s.onTile fun x => g (f x) := rfl
theorem State.onPlace_onPlace (s : State) (f g : Placement → Placement) :
    (s.onPlace f).onPlace g = s.onPlace fun x => g (f x) := rfl
theorem State.onCache_onCache (s : State) (f g : TileCache → TileCache) :
    (s.onCache f).onCache g = s.onCache fun x => g (f x) := rfl
theorem State.onFlash_onFlash (s : State) (f g : Flashing → Flashing) :
    (s.onFlash f).onFlash g = s.onFlash fun x => g (f x) := rfl
theorem State.onDram_onDram (s : State) (f g : Dram → Dram) :
    (s.onDram f).onDram g = s.onDram fun x => g (f x) := rfl
theorem State.onSpare_onSpare (s : State) (f g : Sparing → Sparing) :
    (s.onSpare f).onSpare g = s.onSpare fun x => g (f x) := rfl
theorem State.onReg_onReg (s : State) (f g : Regulator → Regulator) :
    (s.onReg f).onReg g = s.onReg fun x => g (f x) := rfl
theorem State.onLink_onLink (s : State) (f g : Rafter → Rafter) :
    (s.onLink f).onLink g = s.onLink fun x => g (f x) := rfl
theorem State.onCasc_onCasc (s : State) (f g : Cascade → Cascade) :
    (s.onCasc f).onCasc g = s.onCasc fun x => g (f x) := rfl
theorem State.onPurlin_onPurlin (s : State) (f g : Purlin → Purlin) :
    (s.onPurlin f).onPurlin g = s.onPurlin fun x => g (f x) := rfl
theorem State.onBoot_onBoot (s : State) (f g : BringUp → BringUp) :
    (s.onBoot f).onBoot g = s.onBoot fun x => g (f x) := rfl
theorem State.onEaves_onEaves (s : State) (f g : Eaves → Eaves) :
    (s.onEaves f).onEaves g = s.onEaves fun x => g (f x) := rfl
theorem State.onPower_onPower (s : State) (f g : PowerPath → PowerPath) :
    (s.onPower f).onPower g = s.onPower fun x => g (f x) := rfl
theorem State.onSram_onSram (s : State) (f g : OnChip → OnChip) :
    (s.onSram f).onSram g = s.onSram fun x => g (f x) := rfl
theorem State.onCtr_onCtr (s : State) (f g : Counters → Counters) :
    (s.onCtr f).onCtr g = s.onCtr fun x => g (f x) := rfl
theorem State.onConn_onConn (s : State) (f g : Connector → Connector) :
    (s.onConn f).onConn g = s.onConn fun x => g (f x) := rfl
theorem State.onTherm_onTherm (s : State) (f g : Thermal → Thermal) :
    (s.onTherm f).onTherm g = s.onTherm fun x => g (f x) := rfl

/-- A fold of steps, one element at a time. -/
@[simp] theorem foldState_nil {α : Type} (f : State → α → State) (s : State) : foldState f s [] = s := rfl

@[simp] theorem foldState_cons {α : Type} (f : State → α → State) (s : State) (a : α) (l : List α) :
    foldState f s (a :: l) = foldState f (f s a) l := rfl

/-- What every step of a fold keeps, the fold keeps. -/
theorem foldState_keeps {α : Type} (P : State → Prop) (f : State → α → State) (hf : ∀ s a, P s → P (f s a)) (l : List α) :
    ∀ s, P s → P (foldState f s l) := by
  induction l with
  | nil => exact fun s h => h
  | cons a l ih => exact fun s h => ih (f s a) (hf s a h)

end Sys2Proof.Machine
end

