-- ==== Sys2Proof/Laws/Commands.lean ====
section
/-! SUPPORT. How a command that a path serves ends: arrival, effect, reply (R370, R371, R376). -/

namespace Sys2Proof.Machine

/-- A served command: it arrives, its effect runs, it is counted and answered. -/
theorem State.arrive_serves {s : State} {p : Path} {op : Nat} {offAux : Bool} (h : s.service p op offAux = .serve) (i : Instr)
    (f : State → State × ReturnCode × List Byte) :
    s.arrive i p op offAux f = (f (s.arrives p)).1.answered p op (f (s.arrives p)).2.1 (f (s.arrives p)).2.2 := by
  simp only [State.arrive, h, State.answered]

/-- The same for a command accepted on every path. -/
theorem State.command_serves {s : State} {p : Path} {op : Nat} (h : s.serves p op) (i : Instr)
    (f : State → State × ReturnCode × List Byte) :
    s.command i p op f = (f (s.arrives p)).1.answered p op (f (s.arrives p)).2.1 (f (s.arrives p)).2.2 :=
  State.arrive_serves h i f

/-- A command of the privileged paths on one of them. -/
theorem State.privileged_serves {s : State} {p : Path} {op : Nat} (h : s.serves p op) (hp : Path.privileged p = true) (i : Instr)
    (f : State → State × ReturnCode × List Byte) :
    s.privileged i p op f = (f (s.arrives p)).1.answered p op (f (s.arrives p)).2.1 (f (s.arrives p)).2.2 := by
  simp only [State.privileged, State.arrive_serves h, hp, if_true]

/-- A command of the privileged paths on any other path is Unsupported (R371). -/
theorem State.privileged_refuses {s : State} {p : Path} {op : Nat} (h : s.serves p op) (hp : Path.privileged p = false) (i : Instr)
    (f : State → State × ReturnCode × List Byte) :
    s.privileged i p op f = (s.arrives p).answered p op .unsupported [] := by
  simp [State.privileged, State.arrive_serves h, hp]

/-- A background command that its work accepts (R376). -/
theorem State.background_begins {s : State} {p : Path} {op : Nat} (h : s.serves p op) (hp : Path.backgrounds p = true)
    (hb : (s.arrives p).backgroundBusy (Path.carrier p) = false) (i : Instr) (f : State → State × Option ReturnCode)
    (hf : (f ((s.arrives p).startBackground p op)).2 = none) :
    s.background i p op f = (f ((s.arrives p).startBackground p op)).1.answered p op .backgroundStarted [] := by
  simp [State.background, State.arrive_serves h, hp, hb, hf]

/-- A background command while one runs on its carrier is Busy (R376). -/
theorem State.background_busy {s : State} {p : Path} {op : Nat} (h : s.serves p op) (hp : Path.backgrounds p = true)
    (hb : (s.arrives p).backgroundBusy (Path.carrier p) = true) (i : Instr) (f : State → State × Option ReturnCode) :
    s.background i p op f = (s.arrives p).answered p op .busy [] := by
  simp [State.background, State.arrive_serves h, hp, hb]

/-- A privileged background command that its work accepts. -/
theorem State.privilegedBackground_begins {s : State} {p : Path} {op : Nat} (h : s.serves p op) (hp : Path.privileged p = true)
    (hq : Path.backgrounds p = true) (hb : (s.arrives p).backgroundBusy (Path.carrier p) = false) (i : Instr)
    (f : State → State × Option ReturnCode) (hf : (f ((s.arrives p).startBackground p op)).2 = none) :
    s.privilegedBackground i p op f = (f ((s.arrives p).startBackground p op)).1.answered p op .backgroundStarted [] := by
  simp [State.privilegedBackground, State.arrive_serves h, hp, hq, hb, hf]

/-- A command whose reply may wait, where it answers at once (R354). -/
theorem State.deferred_serves {s : State} {p : Path} {op : Nat} (h : s.serves p op) (i : Instr) (f : State → State × Option ReturnCode)
    {rc : ReturnCode} (hf : (f (s.arrives p)).2 = some rc) :
    s.deferred i p op f = (f (s.arrives p)).1.answered p op rc [] := by
  simp [State.deferred, h, hf, State.answered]

end Sys2Proof.Machine
end

