-- ==== Sys2Proof/Laws/Events.lean ====
section
/-! SUPPORT. What raising an event leaves unchanged: everything but the logs, the interrupts, the trace and the events held back
(R49, R384, R476, R519). -/

namespace Sys2Proof.Machine

/-- Between two states only events differ: the host side, the trace, the messages sent, and the events that wait. -/
structure OnlyEvents (s t : State) : Prop where
  pending : t.pending = s.pending
  clock : t.clock = s.clock
  small : t.small = s.small
  serial : t.serial = s.serial
  cap : t.cap = s.cap
  xlat : t.xlat = s.xlat
  alloc : t.alloc = s.alloc
  tile : t.tile = s.tile
  place : t.place = s.place
  cache : t.cache = s.cache
  flash : t.flash = s.flash
  dram : t.dram = s.dram
  spare : t.spare = s.spare
  reg : t.reg = s.reg
  link : t.link = s.link
  casc : t.casc = s.casc
  boot : t.boot = s.boot
  sram : t.sram = s.sram
  conn : t.conn = s.conn
  therm : t.therm = s.therm
  frozen : t.frozen = s.frozen
  eaves : t.eaves = { s.eaves with heldEvents := t.eaves.heldEvents }
  purlin : t.purlin = { s.purlin with heldEvents := t.purlin.heldEvents }
  power : t.power = { s.power with held := t.power.held }

theorem OnlyEvents.refl (s : State) : OnlyEvents s s := by constructor <;> rfl

theorem OnlyEvents.trans {s t u : State} (h : OnlyEvents s t) (g : OnlyEvents t u) : OnlyEvents s u := by
  constructor
  · rw [g.pending, h.pending]
  · rw [g.clock, h.clock]
  · rw [g.small, h.small]
  · rw [g.serial, h.serial]
  · rw [g.cap, h.cap]
  · rw [g.xlat, h.xlat]
  · rw [g.alloc, h.alloc]
  · rw [g.tile, h.tile]
  · rw [g.place, h.place]
  · rw [g.cache, h.cache]
  · rw [g.flash, h.flash]
  · rw [g.dram, h.dram]
  · rw [g.spare, h.spare]
  · rw [g.reg, h.reg]
  · rw [g.link, h.link]
  · rw [g.casc, h.casc]
  · rw [g.boot, h.boot]
  · rw [g.sram, h.sram]
  · rw [g.conn, h.conn]
  · rw [g.therm, h.therm]
  · rw [g.frozen, h.frozen]
  · rw [g.eaves, h.eaves]
  · rw [g.purlin, h.purlin]
  · rw [g.power, h.power]

theorem OnlyEvents.onHost (s : State) (f : HostSide → HostSide) : OnlyEvents s (s.onHost f) := by constructor <;> rfl

theorem OnlyEvents.onCtr (s : State) (f : Counters → Counters) : OnlyEvents s (s.onCtr f) := by constructor <;> rfl

theorem OnlyEvents.emit (s : State) (o : Out) : OnlyEvents s (s.emit o) := by constructor <;> rfl

theorem OnlyEvents.fold {α : Type} (f : State → α → State) (hf : ∀ s a, OnlyEvents s (f s a)) (l : List α) (s : State) :
    OnlyEvents s (foldState f s l) :=
  foldState_keeps (OnlyEvents s) f (fun t a h => h.trans (hf t a)) l s (.refl s)

theorem State.logTo_only (s : State) (l : LdId) (log : EventLog) (data : List Byte) : OnlyEvents s (s.logTo l log data) := by
  unfold State.logTo State.onLd; dsimp only; split
  · exact (OnlyEvents.onHost ..).trans (.emit ..)
  · exact .onHost ..

theorem State.statusBits_only (s : State) (code : Nat) (l : LdId) (log : EventLog) : OnlyEvents s (s.statusBits code l log) := by
  unfold State.statusBits State.onLd; dsimp only; split
  · split
    · exact (OnlyEvents.onHost ..).trans (.emit ..)
    · exact .onHost ..
  · split
    · split
      · exact (OnlyEvents.onHost ..).trans (.emit ..)
      · exact .onHost ..
    · exact .refl s

theorem State.deliver_only (s : State) (code : Nat) (log : EventLog) (rid : Nat) (data : List Byte) (lds : List LdId) :
    OnlyEvents s (s.deliver code log rid data lds) :=
  OnlyEvents.fold _ (fun t l => (t.statusBits_only code l log).trans (State.logTo_only ..)) lds s

theorem State.send_only (s : State) (code : Nat) (log : EventLog) (rid : Nat) (data : List Byte) (lds : List LdId) :
    OnlyEvents s (s.send code log rid data lds) := by
  unfold State.send; split
  · exact s.deliver_only ..
  · split <;> constructor <;> rfl

theorem State.limitedQuiet_only (s : State) (q : RatePeriod) : OnlyEvents s (s.limitedQuiet q) := by
  unfold State.limitedQuiet; split
  · exact .onHost ..
  · exact (s.send_only ..).trans (.onHost ..)

theorem State.trace_only (s : State) (kind sub rid ctx : Nat) (special : List Byte) : OnlyEvents s (s.trace kind sub rid ctx special) := by
  have drop (t : State) (q : RatePeriod) : OnlyEvents t (t.dropRecord.limitedQuiet q) := (OnlyEvents.onCtr t _).trans (State.limitedQuiet_only _ q)
  unfold State.trace; split
  · exact .refl s
  · split
    · exact .onCtr ..
    · dsimp only; split
      · exact (drop ..).trans (drop ..)
      · exact drop ..

theorem State.traceError_only (s : State) (code : Nat) (log : EventLog) (rid : Nat) (data : List Byte) :
    OnlyEvents s (s.traceError code log rid data) := by
  unfold State.traceError; split
  · exact s.trace_only ..
  · exact .refl s

theorem State.raise_only (s : State) (code : Nat) (log : EventLog) (rid : Nat) (data : List Byte) (lds : List LdId) :
    OnlyEvents s (s.raise code log rid data lds) := (s.traceError_only ..).trans (State.send_only ..)

theorem State.raiseAll_only (s : State) (code : Nat) (log : EventLog) (data : List Byte) : OnlyEvents s (s.raiseAll code log data) :=
  s.raise_only ..

theorem State.raiseLimited_only (s : State) (code subject : Nat) (log : EventLog) (rid : Nat) (data : List Byte) (fields : List (Nat × Nat))
    (sums : List Nat) (lds : List LdId) : OnlyEvents s (s.raiseLimited code subject log rid data fields sums lds) :=
  (s.traceError_only ..).trans (State.limitedQuiet_only ..)

theorem State.raisePower_only (s : State) (code : Nat) (log : EventLog) (data : List Byte) : OnlyEvents s (s.raisePower code log data) := by
  unfold State.raisePower; split
  · exact s.raiseAll_only ..
  · constructor <;> rfl

/-! ## What `trace` leaves unchanged -/

@[simp] theorem State.trace_pending (s : State) (kind sub rid ctx : Nat) (special : List Byte) : (s.trace kind sub rid ctx special).pending = s.pending :=
  (s.trace_only ..).pending
@[simp] theorem State.trace_clock (s : State) (kind sub rid ctx : Nat) (special : List Byte) : (s.trace kind sub rid ctx special).clock = s.clock :=
  (s.trace_only ..).clock
@[simp] theorem State.trace_small (s : State) (kind sub rid ctx : Nat) (special : List Byte) : (s.trace kind sub rid ctx special).small = s.small :=
  (s.trace_only ..).small
@[simp] theorem State.trace_serial (s : State) (kind sub rid ctx : Nat) (special : List Byte) : (s.trace kind sub rid ctx special).serial = s.serial :=
  (s.trace_only ..).serial
@[simp] theorem State.trace_cap (s : State) (kind sub rid ctx : Nat) (special : List Byte) : (s.trace kind sub rid ctx special).cap = s.cap :=
  (s.trace_only ..).cap
@[simp] theorem State.trace_xlat (s : State) (kind sub rid ctx : Nat) (special : List Byte) : (s.trace kind sub rid ctx special).xlat = s.xlat :=
  (s.trace_only ..).xlat
@[simp] theorem State.trace_alloc (s : State) (kind sub rid ctx : Nat) (special : List Byte) : (s.trace kind sub rid ctx special).alloc = s.alloc :=
  (s.trace_only ..).alloc
@[simp] theorem State.trace_tile (s : State) (kind sub rid ctx : Nat) (special : List Byte) : (s.trace kind sub rid ctx special).tile = s.tile :=
  (s.trace_only ..).tile
@[simp] theorem State.trace_place (s : State) (kind sub rid ctx : Nat) (special : List Byte) : (s.trace kind sub rid ctx special).place = s.place :=
  (s.trace_only ..).place
@[simp] theorem State.trace_cache (s : State) (kind sub rid ctx : Nat) (special : List Byte) : (s.trace kind sub rid ctx special).cache = s.cache :=
  (s.trace_only ..).cache
@[simp] theorem State.trace_flash (s : State) (kind sub rid ctx : Nat) (special : List Byte) : (s.trace kind sub rid ctx special).flash = s.flash :=
  (s.trace_only ..).flash
@[simp] theorem State.trace_dram (s : State) (kind sub rid ctx : Nat) (special : List Byte) : (s.trace kind sub rid ctx special).dram = s.dram :=
  (s.trace_only ..).dram
@[simp] theorem State.trace_spare (s : State) (kind sub rid ctx : Nat) (special : List Byte) : (s.trace kind sub rid ctx special).spare = s.spare :=
  (s.trace_only ..).spare
@[simp] theorem State.trace_reg (s : State) (kind sub rid ctx : Nat) (special : List Byte) : (s.trace kind sub rid ctx special).reg = s.reg :=
  (s.trace_only ..).reg
@[simp] theorem State.trace_link (s : State) (kind sub rid ctx : Nat) (special : List Byte) : (s.trace kind sub rid ctx special).link = s.link :=
  (s.trace_only ..).link
@[simp] theorem State.trace_casc (s : State) (kind sub rid ctx : Nat) (special : List Byte) : (s.trace kind sub rid ctx special).casc = s.casc :=
  (s.trace_only ..).casc
@[simp] theorem State.trace_boot (s : State) (kind sub rid ctx : Nat) (special : List Byte) : (s.trace kind sub rid ctx special).boot = s.boot :=
  (s.trace_only ..).boot
@[simp] theorem State.trace_sram (s : State) (kind sub rid ctx : Nat) (special : List Byte) : (s.trace kind sub rid ctx special).sram = s.sram :=
  (s.trace_only ..).sram
@[simp] theorem State.trace_conn (s : State) (kind sub rid ctx : Nat) (special : List Byte) : (s.trace kind sub rid ctx special).conn = s.conn :=
  (s.trace_only ..).conn
@[simp] theorem State.trace_therm (s : State) (kind sub rid ctx : Nat) (special : List Byte) : (s.trace kind sub rid ctx special).therm = s.therm :=
  (s.trace_only ..).therm
@[simp] theorem State.trace_frozen (s : State) (kind sub rid ctx : Nat) (special : List Byte) : (s.trace kind sub rid ctx special).frozen = s.frozen :=
  (s.trace_only ..).frozen
@[simp] theorem State.trace_eaves_st (s : State) (kind sub rid ctx : Nat) (special : List Byte) : (s.trace kind sub rid ctx special).eaves.st = s.eaves.st := by
  rw [(s.trace_only ..).eaves]
@[simp] theorem State.trace_eaves_retention (s : State) (kind sub rid ctx : Nat) (special : List Byte) : (s.trace kind sub rid ctx special).eaves.retention = s.eaves.retention := by
  rw [(s.trace_only ..).eaves]
@[simp] theorem State.trace_purlin_fw (s : State) (kind sub rid ctx : Nat) (special : List Byte) : (s.trace kind sub rid ctx special).purlin.fw = s.purlin.fw := by
  rw [(s.trace_only ..).purlin]
@[simp] theorem State.trace_power_sw (s : State) (kind sub rid ctx : Nat) (special : List Byte) : (s.trace kind sub rid ctx special).power.sw = s.power.sw := by
  rw [(s.trace_only ..).power]
@[simp] theorem State.trace_power_count (s : State) (kind sub rid ctx : Nat) (special : List Byte) : (s.trace kind sub rid ctx special).power.count = s.power.count := by
  rw [(s.trace_only ..).power]
@[simp] theorem State.trace_power_latched (s : State) (kind sub rid ctx : Nat) (special : List Byte) : (s.trace kind sub rid ctx special).power.latched = s.power.latched := by
  rw [(s.trace_only ..).power]
@[simp] theorem State.trace_power_records (s : State) (kind sub rid ctx : Nat) (special : List Byte) : (s.trace kind sub rid ctx special).power.records = s.power.records := by
  rw [(s.trace_only ..).power]
@[simp] theorem State.trace_power_lastCause (s : State) (kind sub rid ctx : Nat) (special : List Byte) : (s.trace kind sub rid ctx special).power.lastCause = s.power.lastCause := by
  rw [(s.trace_only ..).power]
@[simp] theorem State.trace_power_tripWait (s : State) (kind sub rid ctx : Nat) (special : List Byte) : (s.trace kind sub rid ctx special).power.tripWait = s.power.tripWait := by
  rw [(s.trace_only ..).power]
@[simp] theorem State.trace_power_foldback (s : State) (kind sub rid ctx : Nat) (special : List Byte) : (s.trace kind sub rid ctx special).power.foldback = s.power.foldback := by
  rw [(s.trace_only ..).power]
@[simp] theorem State.trace_power_present (s : State) (kind sub rid ctx : Nat) (special : List Byte) : (s.trace kind sub rid ctx special).power.present = s.power.present := by
  rw [(s.trace_only ..).power]
@[simp] theorem State.trace_power_mainIn (s : State) (kind sub rid ctx : Nat) (special : List Byte) : (s.trace kind sub rid ctx special).power.mainIn = s.power.mainIn := by
  rw [(s.trace_only ..).power]
@[simp] theorem State.trace_power_auxIn (s : State) (kind sub rid ctx : Nat) (special : List Byte) : (s.trace kind sub rid ctx special).power.auxIn = s.power.auxIn := by
  rw [(s.trace_only ..).power]
@[simp] theorem State.trace_power_trips (s : State) (kind sub rid ctx : Nat) (special : List Byte) : (s.trace kind sub rid ctx special).power.trips = s.power.trips := by
  rw [(s.trace_only ..).power]
@[simp] theorem State.trace_power_retry (s : State) (kind sub rid ctx : Nat) (special : List Byte) : (s.trace kind sub rid ctx special).power.retry = s.power.retry := by
  rw [(s.trace_only ..).power]

/-! ## What `raise` leaves unchanged -/

@[simp] theorem State.raise_pending (s : State) (code : Nat) (log : EventLog) (rid : Nat) (data : List Byte) (lds : List LdId) : (s.raise code log rid data lds).pending = s.pending :=
  (s.raise_only ..).pending
@[simp] theorem State.raise_clock (s : State) (code : Nat) (log : EventLog) (rid : Nat) (data : List Byte) (lds : List LdId) : (s.raise code log rid data lds).clock = s.clock :=
  (s.raise_only ..).clock
@[simp] theorem State.raise_small (s : State) (code : Nat) (log : EventLog) (rid : Nat) (data : List Byte) (lds : List LdId) : (s.raise code log rid data lds).small = s.small :=
  (s.raise_only ..).small
@[simp] theorem State.raise_serial (s : State) (code : Nat) (log : EventLog) (rid : Nat) (data : List Byte) (lds : List LdId) : (s.raise code log rid data lds).serial = s.serial :=
  (s.raise_only ..).serial
@[simp] theorem State.raise_cap (s : State) (code : Nat) (log : EventLog) (rid : Nat) (data : List Byte) (lds : List LdId) : (s.raise code log rid data lds).cap = s.cap :=
  (s.raise_only ..).cap
@[simp] theorem State.raise_xlat (s : State) (code : Nat) (log : EventLog) (rid : Nat) (data : List Byte) (lds : List LdId) : (s.raise code log rid data lds).xlat = s.xlat :=
  (s.raise_only ..).xlat
@[simp] theorem State.raise_alloc (s : State) (code : Nat) (log : EventLog) (rid : Nat) (data : List Byte) (lds : List LdId) : (s.raise code log rid data lds).alloc = s.alloc :=
  (s.raise_only ..).alloc
@[simp] theorem State.raise_tile (s : State) (code : Nat) (log : EventLog) (rid : Nat) (data : List Byte) (lds : List LdId) : (s.raise code log rid data lds).tile = s.tile :=
  (s.raise_only ..).tile
@[simp] theorem State.raise_place (s : State) (code : Nat) (log : EventLog) (rid : Nat) (data : List Byte) (lds : List LdId) : (s.raise code log rid data lds).place = s.place :=
  (s.raise_only ..).place
@[simp] theorem State.raise_cache (s : State) (code : Nat) (log : EventLog) (rid : Nat) (data : List Byte) (lds : List LdId) : (s.raise code log rid data lds).cache = s.cache :=
  (s.raise_only ..).cache
@[simp] theorem State.raise_flash (s : State) (code : Nat) (log : EventLog) (rid : Nat) (data : List Byte) (lds : List LdId) : (s.raise code log rid data lds).flash = s.flash :=
  (s.raise_only ..).flash
@[simp] theorem State.raise_dram (s : State) (code : Nat) (log : EventLog) (rid : Nat) (data : List Byte) (lds : List LdId) : (s.raise code log rid data lds).dram = s.dram :=
  (s.raise_only ..).dram
@[simp] theorem State.raise_spare (s : State) (code : Nat) (log : EventLog) (rid : Nat) (data : List Byte) (lds : List LdId) : (s.raise code log rid data lds).spare = s.spare :=
  (s.raise_only ..).spare
@[simp] theorem State.raise_reg (s : State) (code : Nat) (log : EventLog) (rid : Nat) (data : List Byte) (lds : List LdId) : (s.raise code log rid data lds).reg = s.reg :=
  (s.raise_only ..).reg
@[simp] theorem State.raise_link (s : State) (code : Nat) (log : EventLog) (rid : Nat) (data : List Byte) (lds : List LdId) : (s.raise code log rid data lds).link = s.link :=
  (s.raise_only ..).link
@[simp] theorem State.raise_casc (s : State) (code : Nat) (log : EventLog) (rid : Nat) (data : List Byte) (lds : List LdId) : (s.raise code log rid data lds).casc = s.casc :=
  (s.raise_only ..).casc
@[simp] theorem State.raise_boot (s : State) (code : Nat) (log : EventLog) (rid : Nat) (data : List Byte) (lds : List LdId) : (s.raise code log rid data lds).boot = s.boot :=
  (s.raise_only ..).boot
@[simp] theorem State.raise_sram (s : State) (code : Nat) (log : EventLog) (rid : Nat) (data : List Byte) (lds : List LdId) : (s.raise code log rid data lds).sram = s.sram :=
  (s.raise_only ..).sram
@[simp] theorem State.raise_conn (s : State) (code : Nat) (log : EventLog) (rid : Nat) (data : List Byte) (lds : List LdId) : (s.raise code log rid data lds).conn = s.conn :=
  (s.raise_only ..).conn
@[simp] theorem State.raise_therm (s : State) (code : Nat) (log : EventLog) (rid : Nat) (data : List Byte) (lds : List LdId) : (s.raise code log rid data lds).therm = s.therm :=
  (s.raise_only ..).therm
@[simp] theorem State.raise_frozen (s : State) (code : Nat) (log : EventLog) (rid : Nat) (data : List Byte) (lds : List LdId) : (s.raise code log rid data lds).frozen = s.frozen :=
  (s.raise_only ..).frozen
@[simp] theorem State.raise_eaves_st (s : State) (code : Nat) (log : EventLog) (rid : Nat) (data : List Byte) (lds : List LdId) : (s.raise code log rid data lds).eaves.st = s.eaves.st := by
  rw [(s.raise_only ..).eaves]
@[simp] theorem State.raise_eaves_retention (s : State) (code : Nat) (log : EventLog) (rid : Nat) (data : List Byte) (lds : List LdId) : (s.raise code log rid data lds).eaves.retention = s.eaves.retention := by
  rw [(s.raise_only ..).eaves]
@[simp] theorem State.raise_purlin_fw (s : State) (code : Nat) (log : EventLog) (rid : Nat) (data : List Byte) (lds : List LdId) : (s.raise code log rid data lds).purlin.fw = s.purlin.fw := by
  rw [(s.raise_only ..).purlin]
@[simp] theorem State.raise_power_sw (s : State) (code : Nat) (log : EventLog) (rid : Nat) (data : List Byte) (lds : List LdId) : (s.raise code log rid data lds).power.sw = s.power.sw := by
  rw [(s.raise_only ..).power]
@[simp] theorem State.raise_power_count (s : State) (code : Nat) (log : EventLog) (rid : Nat) (data : List Byte) (lds : List LdId) : (s.raise code log rid data lds).power.count = s.power.count := by
  rw [(s.raise_only ..).power]
@[simp] theorem State.raise_power_latched (s : State) (code : Nat) (log : EventLog) (rid : Nat) (data : List Byte) (lds : List LdId) : (s.raise code log rid data lds).power.latched = s.power.latched := by
  rw [(s.raise_only ..).power]
@[simp] theorem State.raise_power_records (s : State) (code : Nat) (log : EventLog) (rid : Nat) (data : List Byte) (lds : List LdId) : (s.raise code log rid data lds).power.records = s.power.records := by
  rw [(s.raise_only ..).power]
@[simp] theorem State.raise_power_lastCause (s : State) (code : Nat) (log : EventLog) (rid : Nat) (data : List Byte) (lds : List LdId) : (s.raise code log rid data lds).power.lastCause = s.power.lastCause := by
  rw [(s.raise_only ..).power]
@[simp] theorem State.raise_power_tripWait (s : State) (code : Nat) (log : EventLog) (rid : Nat) (data : List Byte) (lds : List LdId) : (s.raise code log rid data lds).power.tripWait = s.power.tripWait := by
  rw [(s.raise_only ..).power]
@[simp] theorem State.raise_power_foldback (s : State) (code : Nat) (log : EventLog) (rid : Nat) (data : List Byte) (lds : List LdId) : (s.raise code log rid data lds).power.foldback = s.power.foldback := by
  rw [(s.raise_only ..).power]
@[simp] theorem State.raise_power_present (s : State) (code : Nat) (log : EventLog) (rid : Nat) (data : List Byte) (lds : List LdId) : (s.raise code log rid data lds).power.present = s.power.present := by
  rw [(s.raise_only ..).power]
@[simp] theorem State.raise_power_mainIn (s : State) (code : Nat) (log : EventLog) (rid : Nat) (data : List Byte) (lds : List LdId) : (s.raise code log rid data lds).power.mainIn = s.power.mainIn := by
  rw [(s.raise_only ..).power]
@[simp] theorem State.raise_power_auxIn (s : State) (code : Nat) (log : EventLog) (rid : Nat) (data : List Byte) (lds : List LdId) : (s.raise code log rid data lds).power.auxIn = s.power.auxIn := by
  rw [(s.raise_only ..).power]
@[simp] theorem State.raise_power_trips (s : State) (code : Nat) (log : EventLog) (rid : Nat) (data : List Byte) (lds : List LdId) : (s.raise code log rid data lds).power.trips = s.power.trips := by
  rw [(s.raise_only ..).power]
@[simp] theorem State.raise_power_retry (s : State) (code : Nat) (log : EventLog) (rid : Nat) (data : List Byte) (lds : List LdId) : (s.raise code log rid data lds).power.retry = s.power.retry := by
  rw [(s.raise_only ..).power]

/-! ## What `raiseAll` leaves unchanged -/

@[simp] theorem State.raiseAll_pending (s : State) (code : Nat) (log : EventLog) (data : List Byte) : (s.raiseAll code log data).pending = s.pending :=
  (s.raiseAll_only ..).pending
@[simp] theorem State.raiseAll_clock (s : State) (code : Nat) (log : EventLog) (data : List Byte) : (s.raiseAll code log data).clock = s.clock :=
  (s.raiseAll_only ..).clock
@[simp] theorem State.raiseAll_small (s : State) (code : Nat) (log : EventLog) (data : List Byte) : (s.raiseAll code log data).small = s.small :=
  (s.raiseAll_only ..).small
@[simp] theorem State.raiseAll_serial (s : State) (code : Nat) (log : EventLog) (data : List Byte) : (s.raiseAll code log data).serial = s.serial :=
  (s.raiseAll_only ..).serial
@[simp] theorem State.raiseAll_cap (s : State) (code : Nat) (log : EventLog) (data : List Byte) : (s.raiseAll code log data).cap = s.cap :=
  (s.raiseAll_only ..).cap
@[simp] theorem State.raiseAll_xlat (s : State) (code : Nat) (log : EventLog) (data : List Byte) : (s.raiseAll code log data).xlat = s.xlat :=
  (s.raiseAll_only ..).xlat
@[simp] theorem State.raiseAll_alloc (s : State) (code : Nat) (log : EventLog) (data : List Byte) : (s.raiseAll code log data).alloc = s.alloc :=
  (s.raiseAll_only ..).alloc
@[simp] theorem State.raiseAll_tile (s : State) (code : Nat) (log : EventLog) (data : List Byte) : (s.raiseAll code log data).tile = s.tile :=
  (s.raiseAll_only ..).tile
@[simp] theorem State.raiseAll_place (s : State) (code : Nat) (log : EventLog) (data : List Byte) : (s.raiseAll code log data).place = s.place :=
  (s.raiseAll_only ..).place
@[simp] theorem State.raiseAll_cache (s : State) (code : Nat) (log : EventLog) (data : List Byte) : (s.raiseAll code log data).cache = s.cache :=
  (s.raiseAll_only ..).cache
@[simp] theorem State.raiseAll_flash (s : State) (code : Nat) (log : EventLog) (data : List Byte) : (s.raiseAll code log data).flash = s.flash :=
  (s.raiseAll_only ..).flash
@[simp] theorem State.raiseAll_dram (s : State) (code : Nat) (log : EventLog) (data : List Byte) : (s.raiseAll code log data).dram = s.dram :=
  (s.raiseAll_only ..).dram
@[simp] theorem State.raiseAll_spare (s : State) (code : Nat) (log : EventLog) (data : List Byte) : (s.raiseAll code log data).spare = s.spare :=
  (s.raiseAll_only ..).spare
@[simp] theorem State.raiseAll_reg (s : State) (code : Nat) (log : EventLog) (data : List Byte) : (s.raiseAll code log data).reg = s.reg :=
  (s.raiseAll_only ..).reg
@[simp] theorem State.raiseAll_link (s : State) (code : Nat) (log : EventLog) (data : List Byte) : (s.raiseAll code log data).link = s.link :=
  (s.raiseAll_only ..).link
@[simp] theorem State.raiseAll_casc (s : State) (code : Nat) (log : EventLog) (data : List Byte) : (s.raiseAll code log data).casc = s.casc :=
  (s.raiseAll_only ..).casc
@[simp] theorem State.raiseAll_boot (s : State) (code : Nat) (log : EventLog) (data : List Byte) : (s.raiseAll code log data).boot = s.boot :=
  (s.raiseAll_only ..).boot
@[simp] theorem State.raiseAll_sram (s : State) (code : Nat) (log : EventLog) (data : List Byte) : (s.raiseAll code log data).sram = s.sram :=
  (s.raiseAll_only ..).sram
@[simp] theorem State.raiseAll_conn (s : State) (code : Nat) (log : EventLog) (data : List Byte) : (s.raiseAll code log data).conn = s.conn :=
  (s.raiseAll_only ..).conn
@[simp] theorem State.raiseAll_therm (s : State) (code : Nat) (log : EventLog) (data : List Byte) : (s.raiseAll code log data).therm = s.therm :=
  (s.raiseAll_only ..).therm
@[simp] theorem State.raiseAll_frozen (s : State) (code : Nat) (log : EventLog) (data : List Byte) : (s.raiseAll code log data).frozen = s.frozen :=
  (s.raiseAll_only ..).frozen
@[simp] theorem State.raiseAll_eaves_st (s : State) (code : Nat) (log : EventLog) (data : List Byte) : (s.raiseAll code log data).eaves.st = s.eaves.st := by
  rw [(s.raiseAll_only ..).eaves]
@[simp] theorem State.raiseAll_eaves_retention (s : State) (code : Nat) (log : EventLog) (data : List Byte) : (s.raiseAll code log data).eaves.retention = s.eaves.retention := by
  rw [(s.raiseAll_only ..).eaves]
@[simp] theorem State.raiseAll_purlin_fw (s : State) (code : Nat) (log : EventLog) (data : List Byte) : (s.raiseAll code log data).purlin.fw = s.purlin.fw := by
  rw [(s.raiseAll_only ..).purlin]
@[simp] theorem State.raiseAll_power_sw (s : State) (code : Nat) (log : EventLog) (data : List Byte) : (s.raiseAll code log data).power.sw = s.power.sw := by
  rw [(s.raiseAll_only ..).power]
@[simp] theorem State.raiseAll_power_count (s : State) (code : Nat) (log : EventLog) (data : List Byte) : (s.raiseAll code log data).power.count = s.power.count := by
  rw [(s.raiseAll_only ..).power]
@[simp] theorem State.raiseAll_power_latched (s : State) (code : Nat) (log : EventLog) (data : List Byte) : (s.raiseAll code log data).power.latched = s.power.latched := by
  rw [(s.raiseAll_only ..).power]
@[simp] theorem State.raiseAll_power_records (s : State) (code : Nat) (log : EventLog) (data : List Byte) : (s.raiseAll code log data).power.records = s.power.records := by
  rw [(s.raiseAll_only ..).power]
@[simp] theorem State.raiseAll_power_lastCause (s : State) (code : Nat) (log : EventLog) (data : List Byte) : (s.raiseAll code log data).power.lastCause = s.power.lastCause := by
  rw [(s.raiseAll_only ..).power]
@[simp] theorem State.raiseAll_power_tripWait (s : State) (code : Nat) (log : EventLog) (data : List Byte) : (s.raiseAll code log data).power.tripWait = s.power.tripWait := by
  rw [(s.raiseAll_only ..).power]
@[simp] theorem State.raiseAll_power_foldback (s : State) (code : Nat) (log : EventLog) (data : List Byte) : (s.raiseAll code log data).power.foldback = s.power.foldback := by
  rw [(s.raiseAll_only ..).power]
@[simp] theorem State.raiseAll_power_present (s : State) (code : Nat) (log : EventLog) (data : List Byte) : (s.raiseAll code log data).power.present = s.power.present := by
  rw [(s.raiseAll_only ..).power]
@[simp] theorem State.raiseAll_power_mainIn (s : State) (code : Nat) (log : EventLog) (data : List Byte) : (s.raiseAll code log data).power.mainIn = s.power.mainIn := by
  rw [(s.raiseAll_only ..).power]
@[simp] theorem State.raiseAll_power_auxIn (s : State) (code : Nat) (log : EventLog) (data : List Byte) : (s.raiseAll code log data).power.auxIn = s.power.auxIn := by
  rw [(s.raiseAll_only ..).power]
@[simp] theorem State.raiseAll_power_trips (s : State) (code : Nat) (log : EventLog) (data : List Byte) : (s.raiseAll code log data).power.trips = s.power.trips := by
  rw [(s.raiseAll_only ..).power]
@[simp] theorem State.raiseAll_power_retry (s : State) (code : Nat) (log : EventLog) (data : List Byte) : (s.raiseAll code log data).power.retry = s.power.retry := by
  rw [(s.raiseAll_only ..).power]

/-! ## What `raiseLimited` leaves unchanged -/

@[simp] theorem State.raiseLimited_pending (s : State) (code subject : Nat) (log : EventLog) (rid : Nat) (data : List Byte) (fields : List (Nat × Nat)) (sums : List Nat) (lds : List LdId) : (s.raiseLimited code subject log rid data fields sums lds).pending = s.pending :=
  (s.raiseLimited_only ..).pending
@[simp] theorem State.raiseLimited_clock (s : State) (code subject : Nat) (log : EventLog) (rid : Nat) (data : List Byte) (fields : List (Nat × Nat)) (sums : List Nat) (lds : List LdId) : (s.raiseLimited code subject log rid data fields sums lds).clock = s.clock :=
  (s.raiseLimited_only ..).clock
@[simp] theorem State.raiseLimited_small (s : State) (code subject : Nat) (log : EventLog) (rid : Nat) (data : List Byte) (fields : List (Nat × Nat)) (sums : List Nat) (lds : List LdId) : (s.raiseLimited code subject log rid data fields sums lds).small = s.small :=
  (s.raiseLimited_only ..).small
@[simp] theorem State.raiseLimited_serial (s : State) (code subject : Nat) (log : EventLog) (rid : Nat) (data : List Byte) (fields : List (Nat × Nat)) (sums : List Nat) (lds : List LdId) : (s.raiseLimited code subject log rid data fields sums lds).serial = s.serial :=
  (s.raiseLimited_only ..).serial
@[simp] theorem State.raiseLimited_cap (s : State) (code subject : Nat) (log : EventLog) (rid : Nat) (data : List Byte) (fields : List (Nat × Nat)) (sums : List Nat) (lds : List LdId) : (s.raiseLimited code subject log rid data fields sums lds).cap = s.cap :=
  (s.raiseLimited_only ..).cap
@[simp] theorem State.raiseLimited_xlat (s : State) (code subject : Nat) (log : EventLog) (rid : Nat) (data : List Byte) (fields : List (Nat × Nat)) (sums : List Nat) (lds : List LdId) : (s.raiseLimited code subject log rid data fields sums lds).xlat = s.xlat :=
  (s.raiseLimited_only ..).xlat
@[simp] theorem State.raiseLimited_alloc (s : State) (code subject : Nat) (log : EventLog) (rid : Nat) (data : List Byte) (fields : List (Nat × Nat)) (sums : List Nat) (lds : List LdId) : (s.raiseLimited code subject log rid data fields sums lds).alloc = s.alloc :=
  (s.raiseLimited_only ..).alloc
@[simp] theorem State.raiseLimited_tile (s : State) (code subject : Nat) (log : EventLog) (rid : Nat) (data : List Byte) (fields : List (Nat × Nat)) (sums : List Nat) (lds : List LdId) : (s.raiseLimited code subject log rid data fields sums lds).tile = s.tile :=
  (s.raiseLimited_only ..).tile
@[simp] theorem State.raiseLimited_place (s : State) (code subject : Nat) (log : EventLog) (rid : Nat) (data : List Byte) (fields : List (Nat × Nat)) (sums : List Nat) (lds : List LdId) : (s.raiseLimited code subject log rid data fields sums lds).place = s.place :=
  (s.raiseLimited_only ..).place
@[simp] theorem State.raiseLimited_cache (s : State) (code subject : Nat) (log : EventLog) (rid : Nat) (data : List Byte) (fields : List (Nat × Nat)) (sums : List Nat) (lds : List LdId) : (s.raiseLimited code subject log rid data fields sums lds).cache = s.cache :=
  (s.raiseLimited_only ..).cache
@[simp] theorem State.raiseLimited_flash (s : State) (code subject : Nat) (log : EventLog) (rid : Nat) (data : List Byte) (fields : List (Nat × Nat)) (sums : List Nat) (lds : List LdId) : (s.raiseLimited code subject log rid data fields sums lds).flash = s.flash :=
  (s.raiseLimited_only ..).flash
@[simp] theorem State.raiseLimited_dram (s : State) (code subject : Nat) (log : EventLog) (rid : Nat) (data : List Byte) (fields : List (Nat × Nat)) (sums : List Nat) (lds : List LdId) : (s.raiseLimited code subject log rid data fields sums lds).dram = s.dram :=
  (s.raiseLimited_only ..).dram
@[simp] theorem State.raiseLimited_spare (s : State) (code subject : Nat) (log : EventLog) (rid : Nat) (data : List Byte) (fields : List (Nat × Nat)) (sums : List Nat) (lds : List LdId) : (s.raiseLimited code subject log rid data fields sums lds).spare = s.spare :=
  (s.raiseLimited_only ..).spare
@[simp] theorem State.raiseLimited_reg (s : State) (code subject : Nat) (log : EventLog) (rid : Nat) (data : List Byte) (fields : List (Nat × Nat)) (sums : List Nat) (lds : List LdId) : (s.raiseLimited code subject log rid data fields sums lds).reg = s.reg :=
  (s.raiseLimited_only ..).reg
@[simp] theorem State.raiseLimited_link (s : State) (code subject : Nat) (log : EventLog) (rid : Nat) (data : List Byte) (fields : List (Nat × Nat)) (sums : List Nat) (lds : List LdId) : (s.raiseLimited code subject log rid data fields sums lds).link = s.link :=
  (s.raiseLimited_only ..).link
@[simp] theorem State.raiseLimited_casc (s : State) (code subject : Nat) (log : EventLog) (rid : Nat) (data : List Byte) (fields : List (Nat × Nat)) (sums : List Nat) (lds : List LdId) : (s.raiseLimited code subject log rid data fields sums lds).casc = s.casc :=
  (s.raiseLimited_only ..).casc
@[simp] theorem State.raiseLimited_boot (s : State) (code subject : Nat) (log : EventLog) (rid : Nat) (data : List Byte) (fields : List (Nat × Nat)) (sums : List Nat) (lds : List LdId) : (s.raiseLimited code subject log rid data fields sums lds).boot = s.boot :=
  (s.raiseLimited_only ..).boot
@[simp] theorem State.raiseLimited_sram (s : State) (code subject : Nat) (log : EventLog) (rid : Nat) (data : List Byte) (fields : List (Nat × Nat)) (sums : List Nat) (lds : List LdId) : (s.raiseLimited code subject log rid data fields sums lds).sram = s.sram :=
  (s.raiseLimited_only ..).sram
@[simp] theorem State.raiseLimited_conn (s : State) (code subject : Nat) (log : EventLog) (rid : Nat) (data : List Byte) (fields : List (Nat × Nat)) (sums : List Nat) (lds : List LdId) : (s.raiseLimited code subject log rid data fields sums lds).conn = s.conn :=
  (s.raiseLimited_only ..).conn
@[simp] theorem State.raiseLimited_therm (s : State) (code subject : Nat) (log : EventLog) (rid : Nat) (data : List Byte) (fields : List (Nat × Nat)) (sums : List Nat) (lds : List LdId) : (s.raiseLimited code subject log rid data fields sums lds).therm = s.therm :=
  (s.raiseLimited_only ..).therm
@[simp] theorem State.raiseLimited_frozen (s : State) (code subject : Nat) (log : EventLog) (rid : Nat) (data : List Byte) (fields : List (Nat × Nat)) (sums : List Nat) (lds : List LdId) : (s.raiseLimited code subject log rid data fields sums lds).frozen = s.frozen :=
  (s.raiseLimited_only ..).frozen
@[simp] theorem State.raiseLimited_eaves_st (s : State) (code subject : Nat) (log : EventLog) (rid : Nat) (data : List Byte) (fields : List (Nat × Nat)) (sums : List Nat) (lds : List LdId) : (s.raiseLimited code subject log rid data fields sums lds).eaves.st = s.eaves.st := by
  rw [(s.raiseLimited_only ..).eaves]
@[simp] theorem State.raiseLimited_eaves_retention (s : State) (code subject : Nat) (log : EventLog) (rid : Nat) (data : List Byte) (fields : List (Nat × Nat)) (sums : List Nat) (lds : List LdId) : (s.raiseLimited code subject log rid data fields sums lds).eaves.retention = s.eaves.retention := by
  rw [(s.raiseLimited_only ..).eaves]
@[simp] theorem State.raiseLimited_purlin_fw (s : State) (code subject : Nat) (log : EventLog) (rid : Nat) (data : List Byte) (fields : List (Nat × Nat)) (sums : List Nat) (lds : List LdId) : (s.raiseLimited code subject log rid data fields sums lds).purlin.fw = s.purlin.fw := by
  rw [(s.raiseLimited_only ..).purlin]
@[simp] theorem State.raiseLimited_power_sw (s : State) (code subject : Nat) (log : EventLog) (rid : Nat) (data : List Byte) (fields : List (Nat × Nat)) (sums : List Nat) (lds : List LdId) : (s.raiseLimited code subject log rid data fields sums lds).power.sw = s.power.sw := by
  rw [(s.raiseLimited_only ..).power]
@[simp] theorem State.raiseLimited_power_count (s : State) (code subject : Nat) (log : EventLog) (rid : Nat) (data : List Byte) (fields : List (Nat × Nat)) (sums : List Nat) (lds : List LdId) : (s.raiseLimited code subject log rid data fields sums lds).power.count = s.power.count := by
  rw [(s.raiseLimited_only ..).power]
@[simp] theorem State.raiseLimited_power_latched (s : State) (code subject : Nat) (log : EventLog) (rid : Nat) (data : List Byte) (fields : List (Nat × Nat)) (sums : List Nat) (lds : List LdId) : (s.raiseLimited code subject log rid data fields sums lds).power.latched = s.power.latched := by
  rw [(s.raiseLimited_only ..).power]
@[simp] theorem State.raiseLimited_power_records (s : State) (code subject : Nat) (log : EventLog) (rid : Nat) (data : List Byte) (fields : List (Nat × Nat)) (sums : List Nat) (lds : List LdId) : (s.raiseLimited code subject log rid data fields sums lds).power.records = s.power.records := by
  rw [(s.raiseLimited_only ..).power]
@[simp] theorem State.raiseLimited_power_lastCause (s : State) (code subject : Nat) (log : EventLog) (rid : Nat) (data : List Byte) (fields : List (Nat × Nat)) (sums : List Nat) (lds : List LdId) : (s.raiseLimited code subject log rid data fields sums lds).power.lastCause = s.power.lastCause := by
  rw [(s.raiseLimited_only ..).power]
@[simp] theorem State.raiseLimited_power_tripWait (s : State) (code subject : Nat) (log : EventLog) (rid : Nat) (data : List Byte) (fields : List (Nat × Nat)) (sums : List Nat) (lds : List LdId) : (s.raiseLimited code subject log rid data fields sums lds).power.tripWait = s.power.tripWait := by
  rw [(s.raiseLimited_only ..).power]
@[simp] theorem State.raiseLimited_power_foldback (s : State) (code subject : Nat) (log : EventLog) (rid : Nat) (data : List Byte) (fields : List (Nat × Nat)) (sums : List Nat) (lds : List LdId) : (s.raiseLimited code subject log rid data fields sums lds).power.foldback = s.power.foldback := by
  rw [(s.raiseLimited_only ..).power]
@[simp] theorem State.raiseLimited_power_present (s : State) (code subject : Nat) (log : EventLog) (rid : Nat) (data : List Byte) (fields : List (Nat × Nat)) (sums : List Nat) (lds : List LdId) : (s.raiseLimited code subject log rid data fields sums lds).power.present = s.power.present := by
  rw [(s.raiseLimited_only ..).power]
@[simp] theorem State.raiseLimited_power_mainIn (s : State) (code subject : Nat) (log : EventLog) (rid : Nat) (data : List Byte) (fields : List (Nat × Nat)) (sums : List Nat) (lds : List LdId) : (s.raiseLimited code subject log rid data fields sums lds).power.mainIn = s.power.mainIn := by
  rw [(s.raiseLimited_only ..).power]
@[simp] theorem State.raiseLimited_power_auxIn (s : State) (code subject : Nat) (log : EventLog) (rid : Nat) (data : List Byte) (fields : List (Nat × Nat)) (sums : List Nat) (lds : List LdId) : (s.raiseLimited code subject log rid data fields sums lds).power.auxIn = s.power.auxIn := by
  rw [(s.raiseLimited_only ..).power]
@[simp] theorem State.raiseLimited_power_trips (s : State) (code subject : Nat) (log : EventLog) (rid : Nat) (data : List Byte) (fields : List (Nat × Nat)) (sums : List Nat) (lds : List LdId) : (s.raiseLimited code subject log rid data fields sums lds).power.trips = s.power.trips := by
  rw [(s.raiseLimited_only ..).power]
@[simp] theorem State.raiseLimited_power_retry (s : State) (code subject : Nat) (log : EventLog) (rid : Nat) (data : List Byte) (fields : List (Nat × Nat)) (sums : List Nat) (lds : List LdId) : (s.raiseLimited code subject log rid data fields sums lds).power.retry = s.power.retry := by
  rw [(s.raiseLimited_only ..).power]

/-! ## What `raisePower` leaves unchanged -/

@[simp] theorem State.raisePower_pending (s : State) (code : Nat) (log : EventLog) (data : List Byte) : (s.raisePower code log data).pending = s.pending :=
  (s.raisePower_only ..).pending
@[simp] theorem State.raisePower_clock (s : State) (code : Nat) (log : EventLog) (data : List Byte) : (s.raisePower code log data).clock = s.clock :=
  (s.raisePower_only ..).clock
@[simp] theorem State.raisePower_small (s : State) (code : Nat) (log : EventLog) (data : List Byte) : (s.raisePower code log data).small = s.small :=
  (s.raisePower_only ..).small
@[simp] theorem State.raisePower_serial (s : State) (code : Nat) (log : EventLog) (data : List Byte) : (s.raisePower code log data).serial = s.serial :=
  (s.raisePower_only ..).serial
@[simp] theorem State.raisePower_cap (s : State) (code : Nat) (log : EventLog) (data : List Byte) : (s.raisePower code log data).cap = s.cap :=
  (s.raisePower_only ..).cap
@[simp] theorem State.raisePower_xlat (s : State) (code : Nat) (log : EventLog) (data : List Byte) : (s.raisePower code log data).xlat = s.xlat :=
  (s.raisePower_only ..).xlat
@[simp] theorem State.raisePower_alloc (s : State) (code : Nat) (log : EventLog) (data : List Byte) : (s.raisePower code log data).alloc = s.alloc :=
  (s.raisePower_only ..).alloc
@[simp] theorem State.raisePower_tile (s : State) (code : Nat) (log : EventLog) (data : List Byte) : (s.raisePower code log data).tile = s.tile :=
  (s.raisePower_only ..).tile
@[simp] theorem State.raisePower_place (s : State) (code : Nat) (log : EventLog) (data : List Byte) : (s.raisePower code log data).place = s.place :=
  (s.raisePower_only ..).place
@[simp] theorem State.raisePower_cache (s : State) (code : Nat) (log : EventLog) (data : List Byte) : (s.raisePower code log data).cache = s.cache :=
  (s.raisePower_only ..).cache
@[simp] theorem State.raisePower_flash (s : State) (code : Nat) (log : EventLog) (data : List Byte) : (s.raisePower code log data).flash = s.flash :=
  (s.raisePower_only ..).flash
@[simp] theorem State.raisePower_dram (s : State) (code : Nat) (log : EventLog) (data : List Byte) : (s.raisePower code log data).dram = s.dram :=
  (s.raisePower_only ..).dram
@[simp] theorem State.raisePower_spare (s : State) (code : Nat) (log : EventLog) (data : List Byte) : (s.raisePower code log data).spare = s.spare :=
  (s.raisePower_only ..).spare
@[simp] theorem State.raisePower_reg (s : State) (code : Nat) (log : EventLog) (data : List Byte) : (s.raisePower code log data).reg = s.reg :=
  (s.raisePower_only ..).reg
@[simp] theorem State.raisePower_link (s : State) (code : Nat) (log : EventLog) (data : List Byte) : (s.raisePower code log data).link = s.link :=
  (s.raisePower_only ..).link
@[simp] theorem State.raisePower_casc (s : State) (code : Nat) (log : EventLog) (data : List Byte) : (s.raisePower code log data).casc = s.casc :=
  (s.raisePower_only ..).casc
@[simp] theorem State.raisePower_boot (s : State) (code : Nat) (log : EventLog) (data : List Byte) : (s.raisePower code log data).boot = s.boot :=
  (s.raisePower_only ..).boot
@[simp] theorem State.raisePower_sram (s : State) (code : Nat) (log : EventLog) (data : List Byte) : (s.raisePower code log data).sram = s.sram :=
  (s.raisePower_only ..).sram
@[simp] theorem State.raisePower_conn (s : State) (code : Nat) (log : EventLog) (data : List Byte) : (s.raisePower code log data).conn = s.conn :=
  (s.raisePower_only ..).conn
@[simp] theorem State.raisePower_therm (s : State) (code : Nat) (log : EventLog) (data : List Byte) : (s.raisePower code log data).therm = s.therm :=
  (s.raisePower_only ..).therm
@[simp] theorem State.raisePower_frozen (s : State) (code : Nat) (log : EventLog) (data : List Byte) : (s.raisePower code log data).frozen = s.frozen :=
  (s.raisePower_only ..).frozen
@[simp] theorem State.raisePower_eaves_st (s : State) (code : Nat) (log : EventLog) (data : List Byte) : (s.raisePower code log data).eaves.st = s.eaves.st := by
  rw [(s.raisePower_only ..).eaves]
@[simp] theorem State.raisePower_eaves_retention (s : State) (code : Nat) (log : EventLog) (data : List Byte) : (s.raisePower code log data).eaves.retention = s.eaves.retention := by
  rw [(s.raisePower_only ..).eaves]
@[simp] theorem State.raisePower_purlin_fw (s : State) (code : Nat) (log : EventLog) (data : List Byte) : (s.raisePower code log data).purlin.fw = s.purlin.fw := by
  rw [(s.raisePower_only ..).purlin]
@[simp] theorem State.raisePower_power_sw (s : State) (code : Nat) (log : EventLog) (data : List Byte) : (s.raisePower code log data).power.sw = s.power.sw := by
  rw [(s.raisePower_only ..).power]
@[simp] theorem State.raisePower_power_count (s : State) (code : Nat) (log : EventLog) (data : List Byte) : (s.raisePower code log data).power.count = s.power.count := by
  rw [(s.raisePower_only ..).power]
@[simp] theorem State.raisePower_power_latched (s : State) (code : Nat) (log : EventLog) (data : List Byte) : (s.raisePower code log data).power.latched = s.power.latched := by
  rw [(s.raisePower_only ..).power]
@[simp] theorem State.raisePower_power_records (s : State) (code : Nat) (log : EventLog) (data : List Byte) : (s.raisePower code log data).power.records = s.power.records := by
  rw [(s.raisePower_only ..).power]
@[simp] theorem State.raisePower_power_lastCause (s : State) (code : Nat) (log : EventLog) (data : List Byte) : (s.raisePower code log data).power.lastCause = s.power.lastCause := by
  rw [(s.raisePower_only ..).power]
@[simp] theorem State.raisePower_power_tripWait (s : State) (code : Nat) (log : EventLog) (data : List Byte) : (s.raisePower code log data).power.tripWait = s.power.tripWait := by
  rw [(s.raisePower_only ..).power]
@[simp] theorem State.raisePower_power_foldback (s : State) (code : Nat) (log : EventLog) (data : List Byte) : (s.raisePower code log data).power.foldback = s.power.foldback := by
  rw [(s.raisePower_only ..).power]
@[simp] theorem State.raisePower_power_present (s : State) (code : Nat) (log : EventLog) (data : List Byte) : (s.raisePower code log data).power.present = s.power.present := by
  rw [(s.raisePower_only ..).power]
@[simp] theorem State.raisePower_power_mainIn (s : State) (code : Nat) (log : EventLog) (data : List Byte) : (s.raisePower code log data).power.mainIn = s.power.mainIn := by
  rw [(s.raisePower_only ..).power]
@[simp] theorem State.raisePower_power_auxIn (s : State) (code : Nat) (log : EventLog) (data : List Byte) : (s.raisePower code log data).power.auxIn = s.power.auxIn := by
  rw [(s.raisePower_only ..).power]
@[simp] theorem State.raisePower_power_trips (s : State) (code : Nat) (log : EventLog) (data : List Byte) : (s.raisePower code log data).power.trips = s.power.trips := by
  rw [(s.raisePower_only ..).power]
@[simp] theorem State.raisePower_power_retry (s : State) (code : Nat) (log : EventLog) (data : List Byte) : (s.raisePower code log data).power.retry = s.power.retry := by
  rw [(s.raisePower_only ..).power]

end Sys2Proof.Machine
end

