-- ==== Sys2Proof/Laws/Sparse.lean ====
section
/-! SUPPORT. Laws of sparse tables: reading after a write, and that every write keeps the canonical form. -/

namespace Sys2Proof

theorem Sparse.above_trans {α : Type} {k k' : Nat} (h : k < k') {m : Sparse α} (hm : Sparse.above k' m = true) :
    Sparse.above k m = true := by
  cases m with
  | nil => rfl
  | cons e rest => simp only [Sparse.above, decide_eq_true_eq] at *; omega

theorem Sparse.wf_cons {α : Type} [DecidableEq α] {d : α} {k : Nat} {v : α} {m : Sparse α} :
    Sparse.wf d ((k, v) :: m) = true ↔ v ≠ d ∧ Sparse.above k m = true ∧ Sparse.wf d m = true := by
  simp [Sparse.wf, and_assoc]

/-- Below every key, a canonical table reads as the default. -/
theorem Sparse.get_above {α : Type} (d : α) {k : Nat} {m : Sparse α} (h : Sparse.above k m = true) : Sparse.get d m k = d := by
  cases m with
  | nil => rfl
  | cons e rest =>
    have hk : k < e.1 := by simpa [Sparse.above] using h
    simp only [Sparse.get]
    rw [if_neg (by omega), if_pos hk]

/-- Taking a key out of a canonical table: it stays canonical, above every bound it was above. -/
theorem Sparse.erase_wf {α : Type} [DecidableEq α] {d : α} {m : Sparse α} (k : Nat) (h : Sparse.wf d m = true) :
    Sparse.wf d (Sparse.erase m k) = true ∧ ∀ j, Sparse.above j m = true → Sparse.above j (Sparse.erase m k) = true := by
  induction m with
  | nil => exact ⟨rfl, fun _ _ => rfl⟩
  | cons e rest ih =>
    obtain ⟨hv, ha, hr⟩ := Sparse.wf_cons.1 h
    obtain ⟨ih1, ih2⟩ := ih hr
    simp only [Sparse.erase]
    split
    · exact ⟨hr, fun j hj => Sparse.above_trans (by simpa [Sparse.above] using hj) ha⟩
    · split
      · exact ⟨h, fun j hj => hj⟩
      · exact ⟨Sparse.wf_cons.2 ⟨hv, ih2 _ ha, ih1⟩, fun j hj => by simpa [Sparse.above] using hj⟩

/-- Putting a value other than the default into a canonical table keeps it canonical. -/
theorem Sparse.insert_wf {α : Type} [DecidableEq α] {d : α} {m : Sparse α} (k : Nat) {v : α} (hv : v ≠ d)
    (h : Sparse.wf d m = true) :
    Sparse.wf d (Sparse.insert m k v) = true ∧ ∀ j, j < k → Sparse.above j m = true → Sparse.above j (Sparse.insert m k v) = true := by
  induction m with
  | nil => exact ⟨Sparse.wf_cons.2 ⟨hv, rfl, rfl⟩, fun j hj _ => by simpa [Sparse.insert, Sparse.above] using hj⟩
  | cons e rest ih =>
    obtain ⟨he, ha, hr⟩ := Sparse.wf_cons.1 h
    obtain ⟨ih1, ih2⟩ := ih hr
    simp only [Sparse.insert]
    split
    · rename_i hk
      exact ⟨Sparse.wf_cons.2 ⟨hv, hk ▸ ha, hr⟩, fun j hj _ => by simpa [Sparse.above] using hj⟩
    · split
      · rename_i hlt
        exact ⟨Sparse.wf_cons.2 ⟨hv, by simpa [Sparse.above] using hlt, h⟩, fun j hj _ => by simpa [Sparse.above] using hj⟩
      · rename_i h1 h2
        exact ⟨Sparse.wf_cons.2 ⟨he, ih2 _ (by omega) ha, ih1⟩, fun j _ hm => by simpa [Sparse.above] using hm⟩

/-- Every write keeps the canonical form. -/
theorem Sparse.set_wf {α : Type} [DecidableEq α] {d : α} {m : Sparse α} (k : Nat) (v : α) (h : Sparse.wf d m = true) :
    Sparse.wf d (Sparse.set d m k v) = true := by
  unfold Sparse.set
  split
  · exact (Sparse.erase_wf k h).1
  · rename_i hv; exact (Sparse.insert_wf k hv h).1

theorem Sparse.get_erase {α : Type} [DecidableEq α] {d : α} {m : Sparse α} (k j : Nat) (h : Sparse.wf d m = true) :
    Sparse.get d (Sparse.erase m k) j = if j = k then d else Sparse.get d m j := by
  induction m with
  | nil => simp [Sparse.erase, Sparse.get]
  | cons e rest ih =>
    obtain ⟨he, ha, hr⟩ := Sparse.wf_cons.1 h
    simp only [Sparse.erase]
    split
    · rename_i hk
      split
      · rename_i hj; rw [hj, ← hk]; exact Sparse.get_above d ha
      · rename_i hj
        simp only [Sparse.get]
        rw [if_neg (by omega)]
        split
        · rename_i hlt; exact Sparse.get_above d (Sparse.above_trans hlt ha)
        · rfl
    · rename_i hk
      split
      · rename_i hlt
        split
        · rename_i hj; rw [hj]; simp only [Sparse.get, if_neg hk, if_pos hlt]
        · rfl
      · rename_i hlt
        simp only [Sparse.get]
        rw [ih hr]
        by_cases hj : j = k
        · rw [if_pos hj, if_pos hj, if_neg (by omega), if_neg (by omega)]
        · rw [if_neg hj, if_neg hj]

theorem Sparse.get_insert {α : Type} {d : α} {m : Sparse α} (k j : Nat) (v : α) :
    Sparse.get d (Sparse.insert m k v) j = if j = k then v else Sparse.get d m j := by
  induction m with
  | nil =>
    simp only [Sparse.insert, Sparse.get]
    split
    · rename_i h; rw [if_pos h.symm]
    · rename_i h; rw [if_neg (Ne.symm h)]; split <;> rfl
  | cons e rest ih =>
    simp only [Sparse.insert]
    split
    · rename_i hk
      simp only [Sparse.get]
      by_cases hj : j = k
      · rw [if_pos hj.symm, if_pos hj]
      · rw [if_neg (Ne.symm hj), if_neg hj, hk, if_neg (Ne.symm hj)]
    · rename_i hk
      split
      · rename_i hlt
        by_cases hj : j = k
        · simp only [Sparse.get]; rw [if_pos hj.symm, if_pos hj]
        · rw [if_neg hj]
          conv => lhs; simp only [Sparse.get]
          rw [if_neg (Ne.symm hj)]
          by_cases hjk : j < k
          · simp only [Sparse.get]; rw [if_pos hjk, if_neg (by omega), if_pos (by omega)]
          · rw [if_neg hjk]; rfl
      · rename_i hlt
        simp only [Sparse.get]
        rw [ih]
        by_cases hj : j = k
        · rw [if_pos hj, if_pos hj, if_neg (by omega), if_neg (by omega)]
        · rw [if_neg hj, if_neg hj]

/-- A read after a write gives the value written at its key, and what stood there before at every other. -/
theorem Sparse.get_set {α : Type} [DecidableEq α] {d : α} {m : Sparse α} (k j : Nat) (v : α) (h : Sparse.wf d m = true) :
    Sparse.get d (Sparse.set d m k v) j = if j = k then v else Sparse.get d m j := by
  unfold Sparse.set
  split
  · rename_i hv; rw [Sparse.get_erase k j h, hv]
  · exact Sparse.get_insert k j v

end Sys2Proof
end

