-- ==== Sys2Proof/Laws/Memory.lean ====
section
/-! SUPPORT. Laws of the DRAM contents: reading after a write, and that every operation on them keeps the canonical form. -/

namespace Sys2Proof.Machine

theorem Memory.write_wf {m : List Host.Cell} (a : Nat) (b : Byte) (h : Memory.wf m = true) : Memory.wf (Memory.write m a b) = true :=
  Sparse.set_wf a b h

theorem Memory.writes_wf (bs : List Byte) : ∀ {m : List Host.Cell} (a : Nat), Memory.wf m = true → Memory.wf (Memory.writes m a bs) = true := by
  induction bs with
  | nil => exact fun _ h => h
  | cons b rest ih => exact fun a h => ih (a + 1) (Memory.write_wf a b h)

/-- A byte read after one byte was written. -/
theorem Memory.read_write {m : List Host.Cell} (a j : Nat) (b : Byte) (h : Memory.wf m = true) :
    Memory.read (Memory.write m a b) j = if j = a then b else Memory.read m j := Sparse.get_set a j b h

/-- A write of bytes leaves every address below and from its end on as it was. -/
theorem Memory.read_writes_outside (bs : List Byte) : ∀ {m : List Host.Cell} (a j : Nat), Memory.wf m = true →
    j < a ∨ a + bs.length ≤ j → Memory.read (Memory.writes m a bs) j = Memory.read m j := by
  induction bs with
  | nil => exact fun _ _ _ _ => rfl
  | cons b rest ih =>
    intro m a j h hj
    simp only [List.length_cons] at hj
    simp only [Memory.writes]
    rw [ih (a + 1) j (Memory.write_wf a b h) (by omega), Memory.read_write a j b h, if_neg (by omega)]

/-- A byte that a write of bytes covers reads as the byte written. -/
theorem Memory.read_writes_inside (bs : List Byte) : ∀ {m : List Host.Cell} (a i : Nat) (hi : i < bs.length), Memory.wf m = true →
    Memory.read (Memory.writes m a bs) (a + i) = bs[i] := by
  induction bs with
  | nil => intro m a i hi; exact absurd hi (by simp)
  | cons b rest ih =>
    intro m a i hi h
    simp only [Memory.writes]
    cases i with
    | zero =>
      rw [Memory.read_writes_outside rest (a + 1) (a + 0) (Memory.write_wf a b h) (by omega), Memory.read_write a (a + 0) b h, if_pos (by omega)]
      rfl
    | succ i =>
      have hi' : i < rest.length := by simpa using hi
      have := ih (a + 1) i hi' (Memory.write_wf a b h)
      rw [show a + 1 + i = a + (i + 1) by omega] at this
      simpa using this

/-- Storing a slot keeps the canonical form. -/
theorem State.storeSlot_wf {s : State} (slot : Nat) (data check : List Byte) (h : Memory.wf s.dram.cells = true) :
    Memory.wf (s.storeSlot slot data check).dram.cells = true :=
  Memory.writes_wf check _ (Memory.writes_wf data _ h)

theorem Memory.foldl_write_wf (v : Nat → Byte) (l : List Nat) : ∀ {m : List Host.Cell}, Memory.wf m = true →
    Memory.wf (l.foldl (fun m a => Memory.write m a (v a)) m) = true := by
  induction l with
  | nil => exact fun h => h
  | cons a rest ih => exact fun h => ih (Memory.write_wf a (v a) h)

/-- The loss of masked segments keeps the canonical form (R241). -/
theorem State.loseMasked_wf {s : State} (ch mask : Nat) (h : Memory.wf s.dram.cells = true) :
    Memory.wf (s.loseMasked ch mask).dram.cells = true := Memory.foldl_write_wf _ _ h

/-- At reset the DRAM contents are canonical: nothing is listed. -/
theorem State.reset_wf : Memory.wf State.reset.dram.cells = true := rfl

end Sys2Proof.Machine
end

