-- ==== Sys2Proof/Laws/Keeps.lean ====
section
/-! SUPPORT. What every command keeps (Keeps of Sys2Proof/Safety.lean): the rules that the lemmas about the operations are made from. -/

namespace Sys2Proof.Machine

theorem Keeps.refl (s : State) : Keeps s s := ⟨rfl, rfl, rfl, rfl, Nat.le_refl _, id⟩

theorem Keeps.trans {s t u : State} (h : Keeps s t) (g : Keeps t u) : Keeps s u :=
  ⟨g.queue.trans h.queue, g.clock.trans h.clock, g.small.trans h.small, g.serial.trans h.serial, Nat.le_trans h.fused g.fused,
    fun x => g.sound (h.sound x)⟩

/-- A change of the parts that no invariant names. -/
theorem Keeps.of_same {s t u : State} (h : Keeps s t) (hq : u.pending = t.pending) (hc : u.clock = t.clock) (hm : u.small = t.small)
    (hs : u.serial = t.serial) (hf : u.purlin.fw.fused = t.purlin.fw.fused) (hd : u.dram.cells = t.dram.cells)
    (hl : u.power.latched = t.power.latched) (hw : u.power.sw = t.power.sw) (he : u.eaves.st = t.eaves.st)
    (hn : u.eaves.entry = t.eaves.entry) : Keeps s u :=
  h.trans ⟨hq, hc, hm, hs, hf ▸ Nat.le_refl _, fun x =>
    ⟨by rw [hd]; exact x.memory, by rw [hl, hw, he]; exact x.latched, by rw [he, hn]; exact x.asleep⟩⟩

theorem Keeps.of_events {s t u : State} (h : Keeps s t) (g : OnlyEvents t u) : Keeps s u :=
  h.of_same g.pending g.clock g.small g.serial (by rw [g.purlin]) (by rw [g.dram]) (by rw [g.power]) (by rw [g.power]) (by rw [g.eaves])
    (by rw [g.eaves])

section Updates
variable {s₀ s : State} (h : Keeps s₀ s)
include h

theorem Keeps.onHost (f : HostSide → HostSide) : Keeps s₀ (s.onHost f) := h.of_same rfl rfl rfl rfl rfl rfl rfl rfl rfl rfl

theorem Keeps.onCap (f : Capacity → Capacity) : Keeps s₀ (s.onCap f) := h.of_same rfl rfl rfl rfl rfl rfl rfl rfl rfl rfl

theorem Keeps.onXlat (f : Translation → Translation) : Keeps s₀ (s.onXlat f) := h.of_same rfl rfl rfl rfl rfl rfl rfl rfl rfl rfl

theorem Keeps.onAlloc (f : Allocator → Allocator) : Keeps s₀ (s.onAlloc f) := h.of_same rfl rfl rfl rfl rfl rfl rfl rfl rfl rfl

theorem Keeps.onTile (f : TileEngine → TileEngine) : Keeps s₀ (s.onTile f) := h.of_same rfl rfl rfl rfl rfl rfl rfl rfl rfl rfl

theorem Keeps.onPlace (f : Placement → Placement) : Keeps s₀ (s.onPlace f) := h.of_same rfl rfl rfl rfl rfl rfl rfl rfl rfl rfl

theorem Keeps.onCache (f : TileCache → TileCache) : Keeps s₀ (s.onCache f) := h.of_same rfl rfl rfl rfl rfl rfl rfl rfl rfl rfl

theorem Keeps.onFlash (f : Flashing → Flashing) : Keeps s₀ (s.onFlash f) := h.of_same rfl rfl rfl rfl rfl rfl rfl rfl rfl rfl

theorem Keeps.onSpare (f : Sparing → Sparing) : Keeps s₀ (s.onSpare f) := h.of_same rfl rfl rfl rfl rfl rfl rfl rfl rfl rfl

theorem Keeps.onReg (f : Regulator → Regulator) : Keeps s₀ (s.onReg f) := h.of_same rfl rfl rfl rfl rfl rfl rfl rfl rfl rfl

theorem Keeps.onLink (f : Rafter → Rafter) : Keeps s₀ (s.onLink f) := h.of_same rfl rfl rfl rfl rfl rfl rfl rfl rfl rfl

theorem Keeps.onCasc (f : Cascade → Cascade) : Keeps s₀ (s.onCasc f) := h.of_same rfl rfl rfl rfl rfl rfl rfl rfl rfl rfl

theorem Keeps.onBoot (f : BringUp → BringUp) : Keeps s₀ (s.onBoot f) := h.of_same rfl rfl rfl rfl rfl rfl rfl rfl rfl rfl

theorem Keeps.onSram (f : OnChip → OnChip) : Keeps s₀ (s.onSram f) := h.of_same rfl rfl rfl rfl rfl rfl rfl rfl rfl rfl

theorem Keeps.onCtr (f : Counters → Counters) : Keeps s₀ (s.onCtr f) := h.of_same rfl rfl rfl rfl rfl rfl rfl rfl rfl rfl

theorem Keeps.onConn (f : Connector → Connector) : Keeps s₀ (s.onConn f) := h.of_same rfl rfl rfl rfl rfl rfl rfl rfl rfl rfl

theorem Keeps.onTherm (f : Thermal → Thermal) : Keeps s₀ (s.onTherm f) := h.of_same rfl rfl rfl rfl rfl rfl rfl rfl rfl rfl

theorem Keeps.onDram {f : Dram → Dram} (hf : ∀ d, (f d).cells = d.cells) : Keeps s₀ (s.onDram f) :=
  h.of_same rfl rfl rfl rfl rfl (hf _) rfl rfl rfl rfl

theorem Keeps.onPurlin {f : Purlin → Purlin} (hf : ∀ d, (f d).fw.fused = d.fw.fused) : Keeps s₀ (s.onPurlin f) :=
  h.of_same rfl rfl rfl rfl (hf _) rfl rfl rfl rfl rfl

theorem Keeps.onEaves {f : Eaves → Eaves} (hf : ∀ d, (f d).st = d.st) (hg : ∀ d, (f d).entry = d.entry) : Keeps s₀ (s.onEaves f) :=
  h.of_same rfl rfl rfl rfl rfl rfl rfl rfl (hf _) (hg _)

theorem Keeps.onPower {f : PowerPath → PowerPath} (hf : ∀ d, (f d).latched = d.latched) (hg : ∀ d, (f d).sw = d.sw) :
    Keeps s₀ (s.onPower f) :=
  h.of_same rfl rfl rfl rfl rfl rfl (hf _) (hg _) rfl rfl

theorem Keeps.setFrozen (x : Option LogImage) : Keeps s₀ { s with frozen := x } := h.of_same rfl rfl rfl rfl rfl rfl rfl rfl rfl rfl

/-- A change of the eaves domain that keeps its state and ends an entry or keeps it. -/
theorem Keeps.onEavesEntry {f : Eaves → Eaves} (hf : ∀ d, (f d).st = d.st) (hg : ∀ d, (f d).entry = none ∨ (f d).entry = d.entry) :
    Keeps s₀ (s.onEaves f) :=
  h.trans ⟨rfl, rfl, rfl, rfl, Nat.le_refl _, fun x => ⟨x.memory, fun y => ⟨(x.latched y).1, (hf _).trans (x.latched y).2⟩, fun y => by
    obtain g | g := hg s.eaves
    · exact g
    · exact g.trans (x.asleep ((hf _).symm.trans y))⟩⟩

/-- A change of the eaves domain while it is awake. -/
theorem Keeps.onEavesAwake {f : Eaves → Eaves} (hs : s₀.Sound → s.eaves.st ≠ .offAux) (hf : ∀ d, (f d).st = d.st) : Keeps s₀ (s.onEaves f) :=
  ⟨h.queue, h.clock, h.small, h.serial, h.fused, fun z =>
    have x := h.sound z
    ⟨x.memory, fun y => ⟨(x.latched y).1, (hf _).trans (x.latched y).2⟩, fun y => absurd ((hf _).symm.trans y) (hs z)⟩⟩

/-- A change of the power path after which it is not latched. -/
theorem Keeps.onPowerClear {f : PowerPath → PowerPath} (hf : (f s.power).latched = false) : Keeps s₀ (s.onPower f) :=
  h.trans ⟨rfl, rfl, rfl, rfl, Nat.le_refl _, fun x => ⟨x.memory, fun y => absurd (show (f s.power).latched = true from y) (by rw [hf]; decide), x.asleep⟩⟩

/-- A change of the power path that keeps its latch, in a state whose switch is not latched. -/
theorem Keeps.onPowerSwitch {f : PowerPath → PowerPath} (hs : s.power.sw ≠ .latched) (hf : ∀ d, (f d).latched = d.latched) :
    Keeps s₀ (s.onPower f) :=
  h.trans ⟨rfl, rfl, rfl, rfl, Nat.le_refl _, fun x => ⟨x.memory, fun y => absurd (x.latched ((hf _).symm.trans y)).1 hs, x.asleep⟩⟩

theorem Keeps.emit (o : Out) : Keeps s₀ (s.emit o) := h.of_same rfl rfl rfl rfl rfl rfl rfl rfl rfl rfl

theorem Keeps.fold {α : Type} {f : State → α → State} (l : List α) (hf : ∀ s a, Keeps s₀ s → Keeps s₀ (f s a)) :
    Keeps s₀ (foldState f s l) := foldState_keeps (Keeps s₀) f hf l s h

omit h in
theorem Keeps.foldl {α β : Type} {f : State × β → α → State × β} (l : List α) {x : State × β} (hx : Keeps s₀ x.1)
    (hf : ∀ x a, Keeps s₀ x.1 → Keeps s₀ (f x a).1) : Keeps s₀ (l.foldl f x).1 := by
  induction l generalizing x with
  | nil => exact hx
  | cons a l ih => exact ih (hf x a hx)

omit h in
theorem Keeps.of_pair {α : Type} {p : State × α} {a : α} (e : p = (s, a)) (hp : Keeps s₀ p.1) : Keeps s₀ s := by subst e; exact hp

omit h in
theorem Keeps.of_pair' {α : Type} {p : α × State} {a : α} (e : p = (a, s)) (hp : Keeps s₀ p.2) : Keeps s₀ s := by subst e; exact hp

omit h in
theorem Keeps.of_some {o : Option State} (e : o = some s) (ho : ∀ t, o = some t → Keeps s₀ t) : Keeps s₀ s := ho s e

end Updates

end Sys2Proof.Machine
end

