-- ==== Sys2Proof/Laws/KeepsAlloc.lean ====
section
/-! SUPPORT. What every command keeps: the named operations, memory, the transport, the answers, the allocator, the rates, the tile cache and the service of commands. -/

namespace Sys2Proof.Machine

set_option Elab.async false
set_option linter.all false

theorem State.onPort_keeps {s₀ s : State} (h : Keeps s₀ s) (p : HostPort) (f : PortState → PortState) : Keeps s₀ (State.onPort s p f) := by
  unfold State.onPort
  try dsimp only
  repeat' first | (with_reducible first | assumption | apply Keeps.onHost) | split

theorem State.onLd_keeps {s₀ s : State} (h : Keeps s₀ s) (l : Nat) (f : LdState → LdState) : Keeps s₀ (State.onLd s l f) := by
  unfold State.onLd
  try dsimp only
  repeat' first | (with_reducible first | assumption | apply Keeps.onHost)

theorem State.setReady_keeps {s₀ s : State} (h : Keeps s₀ s) (i : Nat) (v : Bool) : Keeps s₀ (State.setReady s i v) := by
  unfold State.setReady
  try dsimp only
  repeat' first | (with_reducible first | assumption | apply Keeps.onBoot)

theorem State.putRecord_keeps {s₀ s : State} (h : Keeps s₀ s) (kind sub rid ctx : Nat) (special : List Byte) : Keeps s₀ (State.putRecord s kind sub rid ctx special) := by
  unfold State.putRecord
  try dsimp only
  repeat' first | (with_reducible first | assumption | apply Keeps.onCtr)

theorem State.dropRecord_keeps {s₀ s : State} (h : Keeps s₀ s) : Keeps s₀ (State.dropRecord s) := by
  unfold State.dropRecord
  try dsimp only
  repeat' first | (with_reducible first | assumption | apply Keeps.onCtr) | split

theorem State.logTo_keeps {s₀ s : State} (h : Keeps s₀ s) (l : LdId) (log : EventLog) (data : List Byte) : Keeps s₀ (State.logTo s l log data) := by
  unfold State.logTo
  try dsimp only
  repeat' first | (with_reducible first | assumption | apply State.onLd_keeps | apply Keeps.emit) | split

theorem State.statusBits_keeps {s₀ s : State} (h : Keeps s₀ s) (code : Nat) (l : LdId) (log : EventLog) : Keeps s₀ (State.statusBits s code l log) := by
  unfold State.statusBits
  try dsimp only
  repeat' first | (with_reducible first | assumption | apply State.onLd_keeps | apply Keeps.emit) | split

theorem State.deliver_keeps {s₀ s : State} (h : Keeps s₀ s) (code : Nat) (log : EventLog) (rid : Nat) (data : List Byte) (lds : List LdId) : Keeps s₀ (State.deliver s code log rid data lds) := by
  unfold State.deliver
  try dsimp only
  repeat' (first
    | (with_reducible first | assumption | apply State.logTo_keeps | apply State.statusBits_keeps | apply Keeps.fold)
    | (intro _ _ _; try dsimp only))

theorem State.send_keeps {s₀ s : State} (h : Keeps s₀ s) (code : Nat) (log : EventLog) (rid : Nat) (data : List Byte) (lds : List LdId) : Keeps s₀ (State.send s code log rid data lds) := by
  unfold State.send
  try dsimp only
  repeat' (first
    | (with_reducible first | assumption | apply State.deliver_keeps | apply Keeps.onEaves | apply Keeps.onPurlin) | (intro _; rfl)
    | split | (intro _; dsimp only; split <;> rfl))

theorem State.limitedQuiet_keeps {s₀ s : State} (h : Keeps s₀ s) (q : RatePeriod) : Keeps s₀ (State.limitedQuiet s q) := by
  unfold State.limitedQuiet
  try dsimp only
  repeat' first | (with_reducible first | assumption | apply State.send_keeps | apply Keeps.onHost) | split

theorem State.trace_keeps {s₀ s : State} (h : Keeps s₀ s) (kind sub rid ctx : Nat) (special : List Byte) : Keeps s₀ (State.trace s kind sub rid ctx special) := by
  unfold State.trace
  try dsimp only
  repeat' (first
    | (with_reducible first | assumption | apply State.limitedQuiet_keeps | apply State.dropRecord_keeps | apply State.putRecord_keeps)
    | split)

theorem State.traceError_keeps {s₀ s : State} (h : Keeps s₀ s) (code : Nat) (log : EventLog) (rid : Nat) (data : List Byte) : Keeps s₀ (State.traceError s code log rid data) := by
  unfold State.traceError
  try dsimp only
  repeat' first | (with_reducible first | assumption | apply State.trace_keeps) | split

theorem State.raise_keeps {s₀ s : State} (h : Keeps s₀ s) (code : Nat) (log : EventLog) (rid : Nat) (data : List Byte) (lds : List LdId) : Keeps s₀ (State.raise s code log rid data lds) := by
  unfold State.raise
  try dsimp only
  repeat' first | (with_reducible first | assumption | apply State.send_keeps | apply State.traceError_keeps)

theorem State.raiseAll_keeps {s₀ s : State} (h : Keeps s₀ s) (code : Nat) (log : EventLog) (data : List Byte) : Keeps s₀ (State.raiseAll s code log data) := by
  unfold State.raiseAll
  try dsimp only
  repeat' first | (with_reducible first | assumption | apply State.raise_keeps)

theorem State.raiseLimited_keeps {s₀ s : State} (h : Keeps s₀ s) (code subject : Nat) (log : EventLog) (rid : Nat) (data : List Byte) (fields : List (Nat × Nat)) (sums : List Nat) (lds : List LdId) : Keeps s₀ (State.raiseLimited s code subject log rid data fields sums lds) := by
  unfold State.raiseLimited
  try dsimp only
  repeat' first | (with_reducible first | assumption | apply State.limitedQuiet_keeps | apply State.traceError_keeps)

theorem State.endPeriod_keeps {s₀ s : State} (h : Keeps s₀ s) (code subject : Nat) : Keeps s₀ (State.endPeriod s code subject) := by
  unfold State.endPeriod
  try dsimp only
  repeat' first | (with_reducible first | assumption | apply State.send_keeps | apply Keeps.onHost) | split

theorem State.flushEvents_keeps {s₀ s : State} (h : Keeps s₀ s) (held : List (Nat × Nat × Nat × List Byte × List LdId)) : Keeps s₀ (State.flushEvents s held) := by
  unfold State.flushEvents
  try dsimp only
  repeat' first | (with_reducible first | assumption | apply State.deliver_keeps | apply Keeps.fold) | split | (intro _ _ _; try dsimp only)

theorem State.bumpOne_keeps {s₀ s : State} (h : Keeps s₀ s) (i n : Nat) : Keeps s₀ (State.bumpOne s i n) := by
  unfold State.bumpOne
  try dsimp only
  repeat' first | (with_reducible first | assumption | apply State.raiseLimited_keeps | apply Keeps.onCtr) | split

theorem State.bumps_keeps {s₀ s : State} (h : Keeps s₀ s) (event inst n : Nat) : Keeps s₀ (State.bumps s event inst n) := by
  unfold State.bumps
  try dsimp only
  repeat' first | (with_reducible first | assumption | apply State.bumpOne_keeps | apply Keeps.fold) | split | (intro _ _ _; try dsimp only)

theorem State.bump_keeps {s₀ s : State} (h : Keeps s₀ s) (event inst : Nat) : Keeps s₀ (State.bump s event inst) := by
  unfold State.bump
  try dsimp only
  repeat' first | (with_reducible first | assumption | apply State.bumps_keeps)

theorem State.cost_keeps {s₀ s : State} (h : Keeps s₀ s) (bursts encodes decodes : Nat) : Keeps s₀ (State.cost s bursts encodes decodes) := by
  unfold State.cost
  try dsimp only
  repeat' first | (with_reducible first | assumption | apply Keeps.onReg)

theorem State.draw_keeps {s₀ s : State} (h : Keeps s₀ s) : Keeps s₀ (State.draw s).2 := by
  unfold State.draw
  try dsimp only
  repeat' first | (with_reducible first | assumption | apply Keeps.onFlash)

theorem State.drawKey_keeps {s₀ s : State} (h : Keeps s₀ s) : Keeps s₀ (State.drawKey s).2 := by
  unfold State.drawKey
  try dsimp only
  repeat' first | (with_reducible first | assumption | apply State.draw_keeps) | split

theorem State.onDir_keeps {s₀ s : State} (h : Keeps s₀ s) (block : Nat) (f : DirEntry → DirEntry) : Keeps s₀ (State.onDir s block f) := by
  unfold State.onDir
  try dsimp only
  repeat' first | (with_reducible first | assumption | apply Keeps.onXlat)

theorem State.unlist_keeps {s₀ s : State} (h : Keeps s₀ s) (home dpa n : Nat) : Keeps s₀ (State.unlist s home dpa n) := by
  unfold State.unlist
  try dsimp only
  repeat' first | (with_reducible first | assumption | apply State.onLd_keeps)

theorem State.enlist_keeps {s₀ s : State} (h : Keeps s₀ s) (home : Nat) (e : PoisonEntry) : Keeps s₀ (State.enlist s home e) := by
  unfold State.enlist
  try dsimp only
  repeat' first | (with_reducible first | assumption | apply State.onLd_keeps) | split

theorem State.setTilePoison_keeps {s₀ s : State} (h : Keeps s₀ s) (course tile mask : Nat) : Keeps s₀ (State.setTilePoison s course tile mask) := by
  unfold State.setTilePoison
  try dsimp only
  repeat' (first
    | (with_reducible first | assumption | apply State.unlist_keeps | apply State.enlist_keeps | apply Keeps.fold) | split
    | (intro _ _ _; try dsimp only))

theorem State.onCtx_keeps {s₀ s : State} (h : Keeps s₀ s) (c : Nat) (f : Context → Context) : Keeps s₀ (State.onCtx s c f) := by
  unfold State.onCtx
  try dsimp only
  repeat' first | (with_reducible first | assumption | apply Keeps.onFlash)

theorem State.storeSlot_keeps {s₀ s : State} (h : Keeps s₀ s) (slot : Nat) (data check : List Byte) : Keeps s₀ (s.storeSlot slot data check) :=
  h.trans ⟨rfl, rfl, rfl, rfl, Nat.le_refl _, fun x => ⟨State.storeSlot_wf slot data check x.memory, x.latched, x.asleep⟩⟩

theorem State.onRport_keeps {s₀ s : State} (h : Keeps s₀ s) (p : Nat) (f : RafterLink → RafterLink) : Keeps s₀ (State.onRport s p f) := by
  unfold State.onRport
  try dsimp only
  repeat' first | (with_reducible first | assumption | apply Keeps.onLink)

theorem State.onPeer_keeps {s₀ s : State} (h : Keeps s₀ s) (d : Nat) (f : Peer → Peer) : Keeps s₀ (State.onPeer s d f) := by
  unfold State.onPeer
  try dsimp only
  repeat' first | (with_reducible first | assumption | apply Keeps.onLink)

theorem State.transmit_keeps {s₀ s : State} (h : Keeps s₀ s) (d : Nat) (packet : List Byte) : Keeps s₀ (State.transmit s d packet) := by
  unfold State.transmit
  try dsimp only
  repeat' first | (with_reducible first | assumption | apply State.onRport_keeps)

theorem State.sendUnsequenced_keeps {s₀ s : State} (h : Keeps s₀ s) (d kind : Nat) (payload : List Byte) : Keeps s₀ (State.sendUnsequenced s d kind payload) := by
  unfold State.sendUnsequenced
  try dsimp only
  repeat' (first
    | (with_reducible first | assumption | apply State.transmit_keeps | apply State.onPeer_keeps | apply State.onRport_keeps | apply Keeps.onLink)
    | split)

theorem State.announce_keeps {s₀ s : State} (h : Keeps s₀ s) (d : Nat) : Keeps s₀ (State.announce s d) := by
  unfold State.announce
  try dsimp only
  repeat' first | (with_reducible first | assumption | apply State.sendUnsequenced_keeps | apply State.onPeer_keeps) | split

theorem State.sendEntry_keeps {s₀ s : State} (h : Keeps s₀ s) (d : Nat) (h : Held) : Keeps s₀ (State.sendEntry s d h).1 := by
  unfold State.sendEntry
  try dsimp only
  repeat' first | (with_reducible first | assumption | apply State.transmit_keeps | apply State.onPeer_keeps | apply Keeps.onLink) | split

theorem State.sendHeld_keeps {s₀ s : State} (h : Keeps s₀ s) (d : Nat) (l : List Held) : Keeps s₀ (State.sendHeld s d l).1 := by
  induction l generalizing s d with
  | nil =>
    unfold State.sendHeld
    try dsimp only
    repeat' first | (with_reducible first | assumption | apply State.sendEntry_keeps) | split
  | cons a l ih =>
    unfold State.sendHeld
    try dsimp only
    repeat' first | (with_reducible first | assumption | apply ih | apply State.sendEntry_keeps) | split

theorem State.pump_keeps {s₀ s : State} (h : Keeps s₀ s) (d : Nat) : Keeps s₀ (State.pump s d) := by
  unfold State.pump
  try dsimp only
  repeat' first | (with_reducible first | assumption | apply State.onPeer_keeps | apply State.sendHeld_keeps) | split

theorem State.enqueueSend_keeps {s₀ s : State} (h : Keeps s₀ s) (d : Nat) (h : Header) (payload : List Byte) (credit : Bool) (what : SentFor) : Keeps s₀ (State.enqueueSend s d h payload credit what) := by
  unfold State.enqueueSend
  try dsimp only
  repeat' (first
    | (with_reducible first | assumption | apply State.pump_keeps | apply State.onPeer_keeps | apply State.announce_keeps) | split)

theorem State.countBytes_keeps {s₀ s : State} (h : Keeps s₀ s) (q inn out : Nat) : Keeps s₀ (State.countBytes s q inn out) := by
  unfold State.countBytes
  try dsimp only
  repeat' first | (with_reducible first | assumption | apply Keeps.onCtr)

theorem State.traceRequest_keeps {s₀ s : State} (h : Keeps s₀ s) (r : Request) : Keeps s₀ (State.traceRequest s r) := by
  unfold State.traceRequest
  try dsimp only
  repeat' first | (with_reducible first | assumption | apply State.trace_keeps | apply Keeps.onCtr) | split

theorem State.landed_keeps {s₀ s : State} (h : Keeps s₀ s) (r : Request) : Keeps s₀ (State.landed s r) := by
  unfold State.landed
  try dsimp only
  repeat' first | (with_reducible first | assumption | apply State.onLd_keeps | apply Keeps.onReg) | split

theorem State.respond_keeps {s₀ s : State} (h : Keeps s₀ s) (peer seq kind : Nat) (poison : Bool) (r : Request) (payload : List Byte) : Keeps s₀ (State.respond s peer seq kind poison r payload) := by
  unfold State.respond
  try dsimp only
  repeat' first | (with_reducible first | assumption | apply State.enqueueSend_keeps | apply State.onPeer_keeps)

theorem State.mirror_keeps {s₀ s : State} (h : Keeps s₀ s) (i : Nat) (f : Segment) (r : Request) (origin originSeq : Nat) : Keeps s₀ (State.mirror s i f r origin originSeq) := by
  unfold State.mirror
  try dsimp only
  repeat' first | (with_reducible first | assumption | apply State.enqueueSend_keeps | apply Keeps.onCasc | apply Keeps.onReg) | split

theorem State.answer_keeps {s₀ s : State} (h : Keeps s₀ s) (r : Request) (data : List Byte) (poison : Bool) : Keeps s₀ (State.answer s r data poison) := by
  unfold State.answer
  try dsimp only
  repeat' (first
    | (with_reducible first | assumption | apply State.countBytes_keeps | apply State.traceRequest_keeps | apply State.landed_keeps | apply State.respond_keeps | apply Keeps.emit)
    | split)

theorem State.complete_keeps {s₀ s : State} (h : Keeps s₀ s) (r : Request) (bad : Bool) : Keeps s₀ (State.complete s r bad) := by
  unfold State.complete
  try dsimp only
  repeat' (first
    | (with_reducible first | assumption | apply State.traceRequest_keeps | apply State.landed_keeps | apply State.mirror_keeps | apply State.respond_keeps | apply Keeps.emit)
    | split)

theorem State.settleMirror_keeps {s₀ s : State} (h : Keeps s₀ s) (n : Nat) : Keeps s₀ (State.settleMirror s n) := by
  unfold State.settleMirror
  try dsimp only
  repeat' (first
    | (with_reducible first | assumption | apply State.enqueueSend_keeps | apply State.onPeer_keeps | apply Keeps.onCasc) | split)

theorem State.completeHost_keeps {s₀ s : State} (h : Keeps s₀ s) (r : Request) : Keeps s₀ (State.completeHost s r) := by
  unfold State.completeHost
  try dsimp only
  repeat' first | (with_reducible first | assumption | apply State.complete_keeps | apply State.mirror_keeps | apply Keeps.onCasc) | split

theorem State.answerAll_keeps {s₀ s : State} (h : Keeps s₀ s) (reads : List Request) (tile : List Byte) (bad : Nat) : Keeps s₀ (State.answerAll s reads tile bad) := by
  unfold State.answerAll
  try dsimp only
  repeat' first | (with_reducible first | assumption | apply State.answer_keeps | apply Keeps.fold) | (intro _ _ _; try dsimp only)

theorem State.onChannel_keeps {s₀ s : State} (h : Keeps s₀ s) (ch : Nat) (f : Channel → Channel) : Keeps s₀ (State.onChannel s ch f) := by
  unfold State.onChannel
  try dsimp only
  repeat' first | (with_reducible first | assumption | apply Keeps.onDram) | (intro _; rfl) | (intro _; dsimp only; split <;> rfl)

theorem State.onGroup_keeps {s₀ s : State} (h : Keeps s₀ s) (g : Nat) (f : Group → Group) : Keeps s₀ (State.onGroup s g f) := by
  unfold State.onGroup
  try dsimp only
  repeat' first | (with_reducible first | assumption | apply Keeps.onDram) | (intro _; rfl) | (intro _; dsimp only; split <;> rfl)

theorem State.onLath_keeps {s₀ s : State} (h : Keeps s₀ s) (key : Nat) (f : Lath → Lath) : Keeps s₀ (State.onLath s key f) := by
  unfold State.onLath
  try dsimp only
  repeat' first | (with_reducible first | assumption | apply Keeps.onAlloc)

theorem State.reap_keeps {s₀ s : State} (h : Keeps s₀ s) (ch : Nat) : Keeps s₀ (State.reap s ch) := by
  unfold State.reap
  try dsimp only
  repeat' first | (with_reducible first | assumption | apply Keeps.onAlloc) | split

theorem State.placeLight_keeps {s₀ s : State} (h : Keeps s₀ s) (ch n : Nat) (x : Nat × Nat × Bool) : Keeps s₀ (State.placeLight s ch n x).2 := by
  unfold State.placeLight
  try dsimp only
  repeat' first | (with_reducible first | assumption | apply State.onLath_keeps | apply State.reap_keeps | apply Keeps.onAlloc) | split

theorem State.allocLight_keeps {s₀ s t : State} {n : Nat} {r : Run} (e : s.allocLight n = some (r, t)) (h : Keeps s₀ s) : Keeps s₀ t := by
  unfold State.allocLight at e
  split at e
  · rename_i ch x _
    have := State.placeLight_keeps h ch n x
    rw [Option.some.inj e] at this; exact this
  · cases e

theorem State.closeSet_keeps {s₀ s : State} (h : Keeps s₀ s) (anchor : Nat) : Keeps s₀ (State.closeSet s anchor) := by
  unfold State.closeSet
  try dsimp only
  repeat' (first
    | (with_reducible first | assumption | apply State.onLath_keeps | apply Keeps.onAlloc | apply Keeps.fold) | split
    | (intro _ _ _; try dsimp only))

theorem State.anchorPlace_keeps {s₀ s : State} (h : Keeps s₀ s) (anchor n : Nat) : Keeps s₀ (State.anchorPlace s anchor n).1 := by
  unfold State.anchorPlace
  try dsimp only
  repeat' first | (with_reducible first | assumption | apply State.closeSet_keeps | apply Keeps.onAlloc) | split

theorem State.anchorsPlace_keeps {s₀ s : State} (h : Keeps s₀ s) (n : Nat) (l : List Nat) : Keeps s₀ (State.anchorsPlace s n l).1 := by
  induction l generalizing s n with
  | nil =>
    unfold State.anchorsPlace
    try dsimp only
    repeat' first | (with_reducible first | assumption | apply State.anchorPlace_keeps) | split
  | cons a l ih =>
    unfold State.anchorsPlace
    try dsimp only
    repeat' first | (with_reducible first | assumption | apply ih | apply State.anchorPlace_keeps) | split

theorem State.allocStrong_keeps {s₀ s : State} (h : Keeps s₀ s) (len : Nat) : Keeps s₀ (State.allocStrong s len).1 := by
  unfold State.allocStrong
  try dsimp only
  repeat' (first
    | (with_reducible first | assumption | apply State.raiseLimited_keeps | apply State.anchorsPlace_keeps | apply State.onLath_keeps | apply State.reap_keeps | apply Keeps.fold | apply Keeps.onAlloc)
    | split | (intro _ _ _; try dsimp only))

theorem State.checkReserve_keeps {s₀ s : State} (h : Keeps s₀ s) : Keeps s₀ (State.checkReserve s) := by
  unfold State.checkReserve
  try dsimp only
  repeat' first | (with_reducible first | assumption | apply State.raiseAll_keeps | apply Keeps.onSpare) | split

theorem State.requestRelease_keeps {s₀ s : State} (h : Keeps s₀ s) (blocks : List Nat) : Keeps s₀ (State.requestRelease s blocks) := by
  unfold State.requestRelease
  try dsimp only
  repeat' (first
    | (with_reducible first | assumption | apply State.logTo_keeps | apply State.raise_keeps | apply Keeps.onCap | apply Keeps.fold)
    | split | (intro _ _ _; try dsimp only))

theorem State.setThrottle_keeps {s₀ s : State} (h : Keeps s₀ s) (d : Nat) : Keeps s₀ (State.setThrottle s d) := by
  unfold State.setThrottle
  try dsimp only
  repeat' first | (with_reducible first | assumption | apply State.raiseAll_keeps | apply Keeps.onReg | apply Keeps.onPlace)

theorem State.stageUp_keeps {s₀ s : State} (h : Keeps s₀ s) (byExpiry : Bool) : Keeps s₀ (State.stageUp s byExpiry) := by
  unfold State.stageUp
  try dsimp only
  repeat' (first
    | (with_reducible first | assumption | apply State.raiseAll_keeps | apply State.setThrottle_keeps | apply State.requestRelease_keeps | apply Keeps.onPlace | apply Keeps.onReg)
    | split)

theorem State.stageDown_keeps {s₀ s : State} (h : Keeps s₀ s) : Keeps s₀ (State.stageDown s) := by
  unfold State.stageDown
  try dsimp only
  repeat' (first
    | (with_reducible first | assumption | apply State.raiseAll_keeps | apply State.setThrottle_keeps | apply Keeps.onPlace | apply Keeps.onCap | apply Keeps.onReg)
    | split)

theorem State.settlePressure_keeps {s₀ s : State} (h : Keeps s₀ s)  (l : Nat) : Keeps s₀ (State.settlePressure l s) := by
  induction l generalizing s with
  | zero =>
    unfold State.settlePressure
    try dsimp only
    repeat' first | (with_reducible first | assumption | apply State.stageDown_keeps | apply State.stageUp_keeps) | split
  | succ n ih =>
    unfold State.settlePressure
    try dsimp only
    repeat' first | (with_reducible first | assumption | apply ih | apply State.stageDown_keeps | apply State.stageUp_keeps) | split

theorem State.adjustPressure_keeps {s₀ s : State} (h : Keeps s₀ s) : Keeps s₀ (State.adjustPressure s) := by
  unfold State.adjustPressure
  try dsimp only
  repeat' first | (with_reducible first | assumption | apply State.checkReserve_keeps | apply State.settlePressure_keeps) | split

theorem State.alloc?_keeps {s₀ s : State} (h : Keeps s₀ s) (len : Nat) (strong strict : Bool) : Keeps s₀ (s.alloc? len strong strict).1 := by
  unfold State.alloc?
  split
  · exact h
  · have hx : Keeps s₀ (if strong && s.strongReady then s.allocStrong len else (s, none)).1 := by
      split
      · exact State.allocStrong_keeps h len
      · exact h
    dsimp only
    split
    · exact State.adjustPressure_keeps hx
    · split
      · exact hx
      · split
        · exact State.adjustPressure_keeps (State.allocLight_keeps (by assumption) hx)
        · exact hx

theorem State.unplaced_keeps {s₀ s : State} (h : Keeps s₀ s) (kind block : Nat) : Keeps s₀ (State.unplaced s kind block) := by
  unfold State.unplaced
  try dsimp only
  repeat' first | (with_reducible first | assumption | apply State.raiseLimited_keeps) | split

theorem State.checkStarved_keeps {s₀ s : State} (h : Keeps s₀ s) (ch : Nat) : Keeps s₀ (State.checkStarved s ch) := by
  unfold State.checkStarved
  try dsimp only
  repeat' first | (with_reducible first | assumption | apply State.raiseLimited_keeps | apply Keeps.onAlloc) | split

theorem State.freed_keeps {s₀ s : State} (h : Keeps s₀ s) (r : Run) : Keeps s₀ (State.freed s r) := by
  unfold State.freed
  try dsimp only
  repeat' (first
    | (with_reducible first | assumption | apply State.adjustPressure_keeps | apply State.onLath_keeps | apply State.checkStarved_keeps | apply State.reap_keeps | apply Keeps.fold | apply Keeps.onAlloc)
    | split | (intro _ _ _; try dsimp only))

theorem State.release_keeps {s₀ s : State} (h : Keeps s₀ s) (r : Run) : Keeps s₀ (State.release s r) := by
  unfold State.release
  try dsimp only
  repeat' (first
    | (with_reducible first | assumption | apply State.onChannel_keeps | apply State.freed_keeps | apply Keeps.fold | apply Keeps.onAlloc)
    | split | (intro _ _ _; try dsimp only))

theorem State.markerDone_keeps {s₀ s : State} (h : Keeps s₀ s) (ch m : Nat) : Keeps s₀ (State.markerDone s ch m) := by
  unfold State.markerDone
  try dsimp only
  repeat' first | (with_reducible first | assumption | apply State.freed_keeps | apply Keeps.onAlloc) | split

theorem State.unalloc_keeps {s₀ s : State} (h : Keeps s₀ s) (r : Run) : Keeps s₀ (State.unalloc s r) := by
  unfold State.unalloc
  try dsimp only
  repeat' first | (with_reducible first | assumption | apply State.release_keeps)

theorem State.onClass_keeps {s₀ s : State} (h : Keeps s₀ s) (c : Nat) (f : ClassRow → ClassRow) : Keeps s₀ (State.onClass s c f) := by
  unfold State.onClass
  try dsimp only
  repeat' first | (with_reducible first | assumption | apply Keeps.onReg)

theorem State.scaleGuarantees_keeps {s₀ s : State} (h : Keeps s₀ s) : Keeps s₀ (State.scaleGuarantees s) := by
  unfold State.scaleGuarantees
  try dsimp only
  repeat' first | (with_reducible first | assumption | apply State.raiseAll_keeps | apply Keeps.onReg) | split

theorem State.setRate_keeps {s₀ s : State} (h : Keeps s₀ s) (d : Option Nat) (limit : Nat) : Keeps s₀ (State.setRate s d limit) := by
  unfold State.setRate
  try dsimp only
  repeat' first | (with_reducible first | assumption | apply State.scaleGuarantees_keeps | apply Keeps.onReg) | split

theorem State.rateInterval_keeps {s₀ s : State} (h : Keeps s₀ s) : Keeps s₀ (State.rateInterval s) := by
  unfold State.rateInterval
  try dsimp only
  repeat' first | (with_reducible first | assumption | apply State.setRate_keeps | apply Keeps.onReg) | split

theorem State.recompute_keeps {s₀ s : State} (h : Keeps s₀ s) : Keeps s₀ (State.recompute s) := by
  unfold State.recompute
  try dsimp only
  repeat' first | (with_reducible first | assumption | apply State.setRate_keeps) | split

theorem State.timeHot_keeps {s₀ s : State} (h : Keeps s₀ s) : Keeps s₀ (State.timeHot s) := by
  unfold State.timeHot
  try dsimp only
  repeat' first | (with_reducible first | assumption | apply Keeps.onTherm) | split

theorem State.setDramStage_keeps {s₀ s : State} (h : Keeps s₀ s) (g k : Nat) : Keeps s₀ (State.setDramStage s g k) := by
  unfold State.setDramStage
  try dsimp only
  repeat' (first
    | (with_reducible first | assumption | apply State.recompute_keeps | apply State.raiseAll_keeps | apply State.timeHot_keeps | apply Keeps.onTherm))

theorem State.dramThermal_keeps {s₀ s : State} (h : Keeps s₀ s) (g : Nat) (l : Nat) : Keeps s₀ (State.dramThermal s g l) := by
  induction l generalizing s g with
  | zero =>
    unfold State.dramThermal
    try dsimp only
    repeat' first | (with_reducible first | assumption | apply State.setDramStage_keeps) | split
  | succ n ih =>
    unfold State.dramThermal
    try dsimp only
    repeat' first | (with_reducible first | assumption | apply ih | apply State.setDramStage_keeps) | split

theorem State.sramWord_keeps {s₀ s : State} (h : Keeps s₀ s) (rank a : Nat) : Keeps s₀ (State.sramWord s rank a).2 := by
  unfold State.sramWord
  try dsimp only
  repeat' (first
    | (with_reducible first | assumption | apply State.raiseLimited_keeps | apply State.raiseAll_keeps | apply Keeps.onSram) | split)

theorem State.sramWords_keeps {s₀ s : State} (h : Keeps s₀ s) (rank a : Nat) (l : Nat) : Keeps s₀ (State.sramWords s rank a l).2 := by
  induction l generalizing s rank a with
  | zero =>
    unfold State.sramWords
    try dsimp only
    repeat' first | (with_reducible first | assumption | apply State.sramWord_keeps) | split
  | succ n ih =>
    unfold State.sramWords
    try dsimp only
    repeat' first | (with_reducible first | assumption | apply ih | apply State.sramWord_keeps) | split

theorem State.sramWritten_keeps {s₀ s : State} (h : Keeps s₀ s) (a bytes : Nat) : Keeps s₀ (State.sramWritten s a bytes) := by
  unfold State.sramWritten
  try dsimp only
  repeat' first | (with_reducible first | assumption | apply Keeps.onSram)

theorem State.onWay_keeps {s₀ s : State} (h : Keeps s₀ s) (k : Nat) (f : Way → Way) : Keeps s₀ (State.onWay s k f) := by
  unfold State.onWay
  try dsimp only
  repeat' first | (with_reducible first | assumption | apply Keeps.onCache)

theorem State.onTracker_keeps {s₀ s : State} (h : Keeps s₀ s) (n : Nat) (f : Tracker → Tracker) : Keeps s₀ (State.onTracker s n f) := by
  unfold State.onTracker
  try dsimp only
  repeat' first | (with_reducible first | assumption | apply Keeps.onCache) | split

theorem State.loseWay_keeps {s₀ s : State} (h : Keeps s₀ s) (k : Nat) : Keeps s₀ (State.loseWay s k) := by
  unfold State.loseWay
  try dsimp only
  repeat' first | (with_reducible first | assumption | apply Keeps.onCache) | split

theorem State.dropWay_keeps {s₀ s : State} (h : Keeps s₀ s) (k kind : Nat) : Keeps s₀ (State.dropWay s k kind) := by
  unfold State.dropWay
  try dsimp only
  repeat' (first
    | (with_reducible first | assumption | apply State.raiseAll_keeps | apply State.onWay_keeps | apply State.loseWay_keeps | apply Keeps.onCache)
    | split)

theorem State.checkParity_keeps {s₀ s : State} (h : Keeps s₀ s) (set : Nat) : Keeps s₀ (State.checkParity s set) := by
  unfold State.checkParity
  try dsimp only
  repeat' first | (with_reducible first | assumption | apply State.dropWay_keeps | apply Keeps.fold) | (intro _ _ _; try dsimp only)

theorem State.touchWay_keeps {s₀ s : State} (h : Keeps s₀ s) (k : Nat) : Keeps s₀ (State.touchWay s k) := by
  unfold State.touchWay
  try dsimp only
  repeat' first | (with_reducible first | assumption | apply Keeps.onCache)

theorem State.claimWay_keeps {s₀ s : State} (h : Keeps s₀ s) (k : Nat) : Keeps s₀ (State.claimWay s k) := by
  unfold State.claimWay
  try dsimp only
  repeat' first | (with_reducible first | assumption | apply State.onWay_keeps) | split

theorem State.tagMiss_keeps {s₀ s : State} (h : Keeps s₀ s) : Keeps s₀ (State.tagMiss s) := by
  unfold State.tagMiss
  try dsimp only
  repeat' first | (with_reducible first | assumption | apply State.bump_keeps | apply Keeps.onCache)

theorem State.lookup_keeps {s₀ s : State} (h : Keeps s₀ s) (tile : Nat) (epoch : BitVec 2) (line : Nat) : Keeps s₀ (State.lookup s tile epoch line).2 := by
  unfold State.lookup
  try dsimp only
  repeat' (first
    | (with_reducible first | assumption | apply State.tagMiss_keeps | apply State.checkParity_keeps | apply State.bump_keeps | apply State.touchWay_keeps | apply State.sramWords_keeps | apply State.loseWay_keeps | apply State.onWay_keeps | apply State.dropWay_keeps | apply Keeps.onCache)
    | split)

theorem State.cachedTile_keeps {s₀ s : State} (h : Keeps s₀ s) (tile : Nat) (epoch : BitVec 2) : Keeps s₀ (State.cachedTile s tile epoch).2 := by
  unfold State.cachedTile
  try dsimp only
  repeat' (first
    | (with_reducible first | assumption | apply State.checkParity_keeps | apply State.dropWay_keeps | apply State.sramWords_keeps)
    | split)

theorem State.openTracker_keeps {s₀ s : State} (h : Keeps s₀ s) (tile : Nat) (epoch : BitVec 2) (mask : Nat) (way : Option Nat) : Keeps s₀ (State.openTracker s tile epoch mask way).2 := by
  unfold State.openTracker
  try dsimp only
  repeat' first | (with_reducible first | assumption | apply State.claimWay_keeps | apply Keeps.onCache) | split

theorem State.openFill_keeps {s₀ s : State} (h : Keeps s₀ s) (cls tile : Nat) (epoch : BitVec 2) (mask : Nat) (way : Option Nat) : Keeps s₀ (State.openFill s cls tile epoch mask way).2 := by
  unfold State.openFill
  try dsimp only
  repeat' first | (with_reducible first | assumption | apply State.openTracker_keeps | apply Keeps.onCache) | split

theorem State.closeTracker_keeps {s₀ s : State} (h : Keeps s₀ s) (n : Nat) : Keeps s₀ (State.closeTracker s n) := by
  unfold State.closeTracker
  try dsimp only
  repeat' first | (with_reducible first | assumption | apply State.onWay_keeps | apply Keeps.onCache) | split

theorem State.fillWay_keeps {s₀ s : State} (h : Keeps s₀ s) (k tile : Nat) (epoch : BitVec 2) (lines : Nat) (data : List Byte) : Keeps s₀ (State.fillWay s k tile epoch lines data) := by
  unfold State.fillWay
  try dsimp only
  repeat' (first
    | (with_reducible first | assumption | apply State.touchWay_keeps | apply State.onWay_keeps | apply State.sramWritten_keeps | apply Keeps.onCache | apply Keeps.fold)
    | split | (intro _ _ _; try dsimp only))

theorem State.install_keeps {s₀ s : State} (h : Keeps s₀ s) (n : Nat) (blockEpoch : BitVec 2) (lines : Nat) (data : List Byte) : Keeps s₀ (State.install s n blockEpoch lines data) := by
  unfold State.install
  try dsimp only
  repeat' (first
    | (with_reducible first | assumption | apply State.fillWay_keeps | apply State.onTracker_keeps | apply Keeps.onCache) | split)

theorem State.staleTrackers_keeps {s₀ s : State} (h : Keeps s₀ s) (tile : Nat) : Keeps s₀ (State.staleTrackers s tile) := by
  unfold State.staleTrackers
  try dsimp only
  repeat' first | (with_reducible first | assumption | apply Keeps.onCache) | split

theorem State.cacheTile_keeps {s₀ s : State} (h : Keeps s₀ s) (tile : Nat) (data : List Byte) (bad : Nat) : Keeps s₀ (State.cacheTile s tile data bad) := by
  unfold State.cacheTile
  try dsimp only
  repeat' (first
    | (with_reducible first | assumption | apply State.staleTrackers_keeps | apply State.sramWritten_keeps | apply State.onWay_keeps | apply Keeps.fold | apply Keeps.onCache)
    | (intro _ _ _; try dsimp only))

theorem State.cacheLine_keeps {s₀ s : State} (h : Keeps s₀ s) (tile line mask : Nat) (data : List Byte) : Keeps s₀ (State.cacheLine s tile line mask data) := by
  unfold State.cacheLine
  try dsimp only
  repeat' (first
    | (with_reducible first | assumption | apply State.staleTrackers_keeps | apply State.onWay_keeps | apply Keeps.fold | apply Keeps.onCache)
    | split | (intro _ _ _; try dsimp only))

theorem State.invalidate_keeps {s₀ s : State} (h : Keeps s₀ s) (tile : Nat) : Keeps s₀ (State.invalidate s tile) := by
  unfold State.invalidate
  try dsimp only
  repeat' (first
    | (with_reducible first | assumption | apply State.staleTrackers_keeps | apply State.onWay_keeps | apply Keeps.onCache | apply Keeps.fold)
    | split | (intro _ _ _; try dsimp only))

theorem State.invalidateCourse_keeps {s₀ s : State} (h : Keeps s₀ s) (course : Nat) : Keeps s₀ (State.invalidateCourse s course) := by
  unfold State.invalidateCourse
  try dsimp only
  repeat' first | (with_reducible first | assumption | apply State.invalidate_keeps | apply Keeps.fold) | (intro _ _ _; try dsimp only)

theorem State.invalidateLine_keeps {s₀ s : State} (h : Keeps s₀ s) (tile line : Nat) : Keeps s₀ (State.invalidateLine s tile line) := by
  unfold State.invalidateLine
  try dsimp only
  repeat' (first
    | (with_reducible first | assumption | apply State.onWay_keeps | apply Keeps.fold | apply Keeps.onCache) | split
    | (intro _ _ _; try dsimp only))

theorem State.poisonLines_keeps {s₀ s : State} (h : Keeps s₀ s) (course tile mask : Nat) : Keeps s₀ (State.poisonLines s course tile mask) := by
  unfold State.poisonLines
  try dsimp only
  repeat' (first
    | (with_reducible first | assumption | apply State.setTilePoison_keeps | apply State.invalidateLine_keeps | apply Keeps.fold) | split
    | (intro _ _ _; try dsimp only))

theorem State.reply_keeps {s₀ s : State} (h : Keeps s₀ s) (p : Path) (op : Nat) (rc : ReturnCode) (output : List Byte) : Keeps s₀ (State.reply s p op rc output) := by
  unfold State.reply
  try dsimp only
  repeat' (first
    | (with_reducible first | assumption | apply State.enqueueSend_keeps | apply State.onPeer_keeps | apply Keeps.onPurlin | apply Keeps.emit)
    | (intro _; rfl) | split | (intro _; dsimp only; split <;> rfl))

theorem State.changeState_keeps' {s₀ s : State} (h : Keeps s₀ s) (new : SledState) (cause : Option Nat)
    (hl : s₀.Sound → s.power.latched = false ∨ s.eaves.st ≠ .offAux) (hb : new ≠ .offAux ∨ s.eaves.entry = none) : Keeps s₀ (s.changeState new cause) := by
  have key : ∀ (f : Eaves → Eaves) (g : Sparing → Sparing), (∀ e, (f e).st = new) → (∀ e, (f e).entry = e.entry) → Keeps s₀ ((s.onSpare g).onEaves f) := by
    intro f g hf hg
    refine ⟨h.queue, h.clock, h.small, h.serial, h.fused, fun x => ?_⟩
    have y := h.sound x
    refine ⟨y.memory, fun z => ?_, fun z => ?_⟩
    · obtain hl | hl := hl x
      · exact absurd z (by simp [State.onEaves, State.onSpare, hl])
      · exact absurd (y.latched z).2 hl
    · obtain hb | hb := hb
      · exact absurd ((hf _).symm.trans z) hb
      · exact (hg _).trans hb
  unfold State.changeState
  extract_lets e old dur entering leaving quiet slept s1 s2 s3
  have h2 : Keeps s₀ s2 := key _ _ (fun _ => rfl) (fun _ => rfl)
  have h3 : Keeps s₀ s3 := by
    unfold s3
    split
    · exact h2
    · exact State.trace_keeps h2 _ _ _ _ _
  split
  · exact h3
  · exact State.raiseAll_keeps h3 _ _ _

theorem State.changeState_keeps {s₀ s : State} (h : Keeps s₀ s) (new : SledState) (cause : Option Nat)
    (hl : s.power.latched = false ∨ s.eaves.st ≠ .offAux) (hb : new ≠ .offAux ∨ s.eaves.entry = none) : Keeps s₀ (s.changeState new cause) :=
  State.changeState_keeps' h new cause (fun _ => hl) hb

theorem State.deliverHeld_keeps {s₀ s : State} (h : Keeps s₀ s) : Keeps s₀ (State.deliverHeld s) := by
  unfold State.deliverHeld
  try dsimp only
  repeat' (first
    | (with_reducible first | assumption | apply State.flushEvents_keeps | apply Keeps.onEaves) | (intro _; rfl) | split
    | (intro _; dsimp only; split <;> rfl))

theorem State.wakePending_keeps {s₀ s : State} (h : Keeps s₀ s) : Keeps s₀ s.wakePending :=
  h.trans ⟨rfl, rfl, rfl, rfl, Nat.le_refl _, fun x => ⟨x.memory, x.latched, fun y => by
    simp only [State.wakePending, State.onEaves] at y ⊢; rw [x.asleep y]; rfl⟩⟩

theorem State.wakeDrowse_keeps {s₀ s : State} (h : Keeps s₀ s) (cause : Nat) : Keeps s₀ (s.wakeDrowse cause) := by
  unfold State.wakeDrowse
  dsimp only
  split
  · rename_i e
    apply State.deliverHeld_keeps
    apply State.changeState_keeps
    · exact (State.wakePending_keeps h).onEaves (fun _ => rfl) (fun _ => rfl)
    · right; simp only [State.onEaves]; rw [e]; decide
    · left; decide
  · exact State.wakePending_keeps h

theorem State.wakeWatch_keeps {s₀ s : State} (h : Keeps s₀ s) (cause : Nat) : Keeps s₀ (State.wakeWatch s cause) := by
  unfold State.wakeWatch
  try dsimp only
  repeat' (first
    | (with_reducible first | assumption | apply State.wakePending_keeps | apply Keeps.onEaves | apply Keeps.onConn) | (intro _; rfl)
    | split | (intro _; dsimp only; split <;> rfl))

theorem State.addressMatch_keeps {s₀ s : State} (h : Keeps s₀ s) (address : BitVec 7) : Keeps s₀ (State.addressMatch s address) := by
  unfold State.addressMatch
  try dsimp only
  repeat' (first
    | (with_reducible first | assumption | apply State.wakePending_keeps | apply State.wakeDrowse_keeps | apply State.wakeWatch_keeps | apply Keeps.emit | apply Keeps.onEaves)
    | (intro _; rfl) | split | (intro _; dsimp only; split <;> rfl))

theorem State.setBackground_keeps {s₀ s : State} (h : Keeps s₀ s) (c : Carrier) (b : Background) : Keeps s₀ (State.setBackground s c b) := by
  unfold State.setBackground
  try dsimp only
  repeat' first | (with_reducible first | assumption | apply Keeps.onPurlin) | (intro _; rfl) | (intro _; dsimp only; split <;> rfl)

theorem State.startBackground_keeps {s₀ s : State} (h : Keeps s₀ s) (p : Path) (op : Nat) : Keeps s₀ (State.startBackground s p op) := by
  unfold State.startBackground
  try dsimp only
  repeat' first | (with_reducible first | assumption | apply State.setBackground_keeps)

theorem State.progress_keeps {s₀ s : State} (h : Keeps s₀ s) (p : Option Path) (op percent : Nat) : Keeps s₀ (State.progress s p op percent) := by
  unfold State.progress
  try dsimp only
  repeat' first | (with_reducible first | assumption | apply State.setBackground_keeps) | split

theorem State.finishBackground_keeps {s₀ s : State} (h : Keeps s₀ s) (p : Option Path) (op : Nat) (rc : ReturnCode) (output : List Byte) : Keeps s₀ (State.finishBackground s p op rc output) := by
  unfold State.finishBackground
  try dsimp only
  repeat' first | (with_reducible first | assumption | apply State.setBackground_keeps) | split

theorem State.askAbort_keeps {s₀ s : State} (h : Keeps s₀ s) (op : Nat) (p : Option Path) : Keeps s₀ (State.askAbort s op p) := by
  unfold State.askAbort
  try dsimp only
  repeat' first | (with_reducible first | assumption | apply State.setBackground_keeps) | split

theorem State.arrives_keeps {s₀ s : State} (h : Keeps s₀ s) (p : Path) : Keeps s₀ (State.arrives s p) := by
  unfold State.arrives
  try dsimp only
  repeat' (first
    | (with_reducible first | assumption | apply State.wakeDrowse_keeps | apply Keeps.onEaves) | (intro _; rfl) | split
    | (intro _; dsimp only; split <;> rfl))

theorem State.arrive_keeps {s₀ s : State} (h : Keeps s₀ s) (i : Instr) (p : Path) (op : Nat) (offAux : Bool) {f : State → State × ReturnCode × List Byte} (hf : ∀ s, Keeps s₀ s → Keeps s₀ (f s).1) : Keeps s₀ (s.arrive i p op offAux f) := by
  unfold State.arrive
  split
  · exact h
  · exact State.addressMatch_keeps h _
  · exact h.onEaves (fun _ => rfl) (fun _ => rfl)
  · exact h.onPurlin (fun _ => rfl)
  · exact State.reply_keeps h _ _ _ _
  · exact State.reply_keeps h _ _ _ _
  · have h1 := hf _ (State.arrives_keeps h p)
    extract_lets s1
    change Keeps s₀ (f s1).1 at h1
    generalize f s1 = x at h1 ⊢
    obtain ⟨s2, rc, out⟩ := x
    with_reducible apply State.reply_keeps
    with_reducible apply Keeps.onPurlin
    · exact h1
    · exact fun _ => rfl

theorem State.deferred_keeps {s₀ s : State} (h : Keeps s₀ s) (i : Instr) (p : Path) (op : Nat) {f : State → State × Option ReturnCode} (hf : ∀ s, Keeps s₀ s → Keeps s₀ (f s).1) : Keeps s₀ (s.deferred i p op f) := by
  unfold State.deferred
  split
  · have h1 := hf _ (State.arrives_keeps h p)
    extract_lets s1
    change Keeps s₀ (f s1).1 at h1
    generalize f s1 = x at h1 ⊢
    obtain ⟨s2, rc⟩ := x
    cases rc with
    | some rc =>
      with_reducible apply State.reply_keeps
      with_reducible apply Keeps.onPurlin
      · exact h1
      · exact fun _ => rfl
    | none =>
      with_reducible apply Keeps.onPurlin
      · exact h1
      · exact fun _ => rfl
  · exact State.arrive_keeps h _ _ _ _ (fun _ h => h)

theorem State.command_keeps {s₀ s : State} (h : Keeps s₀ s) (i : Instr) (p : Path) (op : Nat) {f : State → State × ReturnCode × List Byte} (hf : ∀ s, Keeps s₀ s → Keeps s₀ (f s).1) : Keeps s₀ (s.command i p op f) :=
  State.arrive_keeps h i p op false hf

theorem State.privileged_keeps {s₀ s : State} (h : Keeps s₀ s) (i : Instr) (p : Path) (op : Nat) {f : State → State × ReturnCode × List Byte} (hf : ∀ s, Keeps s₀ s → Keeps s₀ (f s).1) : Keeps s₀ (s.privileged i p op f) := by
  refine State.arrive_keeps h i p op false fun s h => ?_
  split
  · exact hf s h
  · exact h

theorem State.background_keeps {s₀ s : State} (h : Keeps s₀ s) (i : Instr) (p : Path) (op : Nat) {f : State → State × Option ReturnCode} (hf : ∀ s, Keeps s₀ s → Keeps s₀ (f s).1) : Keeps s₀ (s.background i p op f) := by
  refine State.arrive_keeps h i p op false fun s h => ?_
  dsimp only
  have := hf (s.startBackground p op) (State.startBackground_keeps h p op)
  split
  · exact h
  · split
    · exact h
    · split
      · exact h
      · exact this

theorem State.privilegedBackground_keeps {s₀ s : State} (h : Keeps s₀ s) (i : Instr) (p : Path) (op : Nat) {f : State → State × Option ReturnCode} (hf : ∀ s, Keeps s₀ s → Keeps s₀ (f s).1) : Keeps s₀ (s.privilegedBackground i p op f) := by
  refine State.arrive_keeps h i p op false fun s h => ?_
  dsimp only
  have := hf (s.startBackground p op) (State.startBackground_keeps h p op)
  split
  · exact h
  · split
    · exact h
    · split
      · exact h
      · exact this

theorem refuse_keeps {s₀ s : State} (h : Keeps s₀ s) (rc : ReturnCode) : Keeps s₀ (refuse s rc).1 := by
  unfold refuse
  try dsimp only
  repeat' first | with_reducible assumption

end Sys2Proof.Machine
end

