-- ==== Sys2Proof/Laws/KeepsTiles.lean ====
section
/-! SUPPORT. What every command keeps: faults, the channels, slots, battens and tiles. -/

namespace Sys2Proof.Machine

set_option Elab.async false
set_option linter.all false

theorem State.recordFault_keeps {s₀ s : State} (h : Keeps s₀ s) (r : FaultRecord) : Keeps s₀ (State.recordFault s r) := by
  unfold State.recordFault
  try dsimp only
  repeat' first | (with_reducible first | assumption | apply Keeps.onSpare) | split

theorem State.fault_keeps {s₀ s : State} (h : Keeps s₀ s) (slot cls first count source : Nat) (oneDie : Bool) : Keeps s₀ (State.fault s slot cls first count source oneDie) := by
  unfold State.fault
  try dsimp only
  repeat' first | (with_reducible first | assumption | apply State.recordFault_keeps)

theorem State.countCorrections_keeps {s₀ s : State} (h : Keeps s₀ s) (ch corrections transients rid : Nat) : Keeps s₀ (State.countCorrections s ch corrections transients rid) := by
  unfold State.countCorrections
  try dsimp only
  repeat' first | (with_reducible first | assumption | apply State.raiseLimited_keeps)

theorem State.wantRebuild_keeps {s₀ s : State} (h : Keeps s₀ s) (block : Nat) (reason : RebuildReason) (path : Option Path) : Keeps s₀ (State.wantRebuild s block reason path) := by
  unfold State.wantRebuild
  try dsimp only
  repeat' first | (with_reducible first | assumption | apply Keeps.onXlat) | split

theorem State.startMoves_keeps {s₀ s : State} (h : Keeps s₀ s) (r : Retirement) (path : Option Path) (corrects : Bool) : Keeps s₀ (State.startMoves s r path corrects) := by
  unfold State.startMoves
  try dsimp only
  repeat' (first
    | (with_reducible first | assumption | apply State.wantRebuild_keeps | apply State.finishBackground_keeps | apply State.raiseAll_keeps | apply Keeps.fold | apply Keeps.onSpare)
    | split | (intro _ _ _; try dsimp only))

theorem State.retireChannel_keeps {s₀ s : State} (h : Keeps s₀ s) (ch cause : Nat) (path : Option Path) (corrects : Bool) : Keeps s₀ (State.retireChannel s ch cause path corrects) := by
  unfold State.retireChannel
  try dsimp only
  repeat' (first
    | (with_reducible first | assumption | apply State.startMoves_keeps | apply State.adjustPressure_keeps | apply State.recompute_keeps | apply State.raiseAll_keeps | apply State.finishBackground_keeps | apply Keeps.onSpare)
    | split)

theorem State.retireRank_keeps {s₀ s : State} (h : Keeps s₀ s) (ch rank cause : Nat) (path : Option Path) (corrects : Bool) : Keeps s₀ (State.retireRank s ch rank cause path corrects) := by
  unfold State.retireRank
  try dsimp only
  repeat' (first
    | (with_reducible first | assumption | apply State.startMoves_keeps | apply State.adjustPressure_keeps | apply State.raiseAll_keeps | apply State.retireChannel_keeps | apply State.finishBackground_keeps | apply Keeps.onSpare)
    | split)

theorem State.fenceRow_keeps {s₀ s : State} (h : Keeps s₀ s) (ch rank bank row : Nat) (path : Option Path) (corrects : Bool) : Keeps s₀ (State.fenceRow s ch rank bank row path corrects) := by
  unfold State.fenceRow
  try dsimp only
  repeat' (first
    | (with_reducible first | assumption | apply State.startMoves_keeps | apply State.adjustPressure_keeps | apply State.raiseAll_keeps | apply State.onChannel_keeps | apply State.retireRank_keeps | apply State.finishBackground_keeps | apply Keeps.onSpare)
    | split)

theorem State.retire_keeps {s₀ s : State} (h : Keeps s₀ s) (r : Retirement) (path : Option Path) (corrects : Bool) : Keeps s₀ (State.retire s r path corrects) := by
  unfold State.retire
  try dsimp only
  repeat' (first
    | (with_reducible first | assumption | apply State.fenceRow_keeps | apply State.retireRank_keeps | apply State.retireChannel_keeps)
    | split)

theorem State.judge_keeps {s₀ s : State} (h : Keeps s₀ s) (r : Retirement) (corrects : Bool) : Keeps s₀ (State.judge s r corrects) := by
  unfold State.judge
  try dsimp only
  repeat' first | (with_reducible first | assumption | apply State.retire_keeps | apply Keeps.onSpare) | split

theorem State.hardFault_keeps {s₀ s : State} (h : Keeps s₀ s) (slot : Nat) (first : Option Nat) (corrects : Bool) : Keeps s₀ (State.hardFault s slot first corrects) := by
  unfold State.hardFault
  try dsimp only
  repeat' first | (with_reducible first | assumption | apply State.judge_keeps | apply Keeps.onSpare) | split

theorem State.urgentRow_keeps {s₀ s : State} (h : Keeps s₀ s) (slot : Nat) : Keeps s₀ (State.urgentRow s slot) := by
  unfold State.urgentRow
  try dsimp only
  repeat' first | (with_reducible first | assumption | apply Keeps.onSpare)

theorem State.hardEvent_keeps {s₀ s : State} (h : Keeps s₀ s) (slot cls first rid : Nat) : Keeps s₀ (State.hardEvent s slot cls first rid) := by
  unfold State.hardEvent
  try dsimp only
  repeat' first | (with_reducible first | assumption | apply State.raise_keeps)

theorem State.classify_multi_keeps {s₀ s : State} (h : Keeps s₀ s) (slot : Nat) (data : List Byte) (source p count : Nat) (oneDie : Bool) :
    Keeps s₀ (State.classify.multi slot data source s p count oneDie) := by
  unfold State.classify.multi
  dsimp only
  exact State.hardFault_keeps (State.urgentRow_keeps (State.hardEvent_keeps (State.fault_keeps (State.onChannel_keeps (h.onSpare _) _ _) _ _ _ _ _ _) _ _ _ _) _) _ _ _

theorem State.classify_keeps {s₀ s : State} (h : Keeps s₀ s) (slot first : Nat) (data : List Byte) (source : Nat) (found : Gf.Verdict) :
    Keeps s₀ (s.classify slot first data source found) := by
  unfold State.classify
  dsimp only
  split
  · apply State.countCorrections_keeps
    exact State.fault_keeps (h.onSpare _) _ _ _ _ _ _
  · split
    · apply State.hardFault_keeps
      apply State.hardEvent_keeps
      exact State.fault_keeps (h.onSpare _) _ _ _ _ _ _
    · exact State.classify_multi_keeps h _ _ _ _ _ _
  · exact State.classify_multi_keeps h _ _ _ _ _ _

theorem State.drainOne_keeps {s₀ s : State} (h : Keeps s₀ s) (ch : Nat) : Keeps s₀ (State.drainOne s ch) := by
  unfold State.drainOne
  try dsimp only
  repeat' (first
    | (with_reducible first | assumption | apply State.bump_keeps | apply State.onChannel_keeps | apply State.storeSlot_keeps) | split)

theorem State.drainN_keeps {s₀ s : State} (h : Keeps s₀ s) (ch : Nat) (l : Nat) : Keeps s₀ (State.drainN s ch l) := by
  induction l generalizing s ch with
  | zero =>
    unfold State.drainN
    try dsimp only
    repeat' first | (with_reducible first | assumption | apply State.drainOne_keeps) | split
  | succ n ih =>
    unfold State.drainN
    try dsimp only
    repeat' first | (with_reducible first | assumption | apply ih | apply State.drainOne_keeps) | split

theorem State.drainTo_keeps {s₀ s : State} (h : Keeps s₀ s) (ch n : Nat) : Keeps s₀ (State.drainTo s ch n) := by
  unfold State.drainTo
  try dsimp only
  repeat' first | (with_reducible first | assumption | apply State.drainN_keeps)

theorem State.hazard_keeps {s₀ s : State} (h : Keeps s₀ s) (ch slot : Nat) : Keeps s₀ (State.hazard s ch slot) := by
  unfold State.hazard
  try dsimp only
  repeat' (first
    | (with_reducible first | assumption | apply State.bump_keeps | apply State.onChannel_keeps | apply State.drainN_keeps) | split)

theorem State.toBuffer_keeps {s₀ s : State} (h : Keeps s₀ s) (ch : Nat) (w : Posted) : Keeps s₀ (State.toBuffer s ch w) := by
  unfold State.toBuffer
  try dsimp only
  repeat' (first
    | (with_reducible first | assumption | apply State.onChannel_keeps | apply State.drainTo_keeps | apply State.drainOne_keeps) | split)

theorem State.afterPost_keeps {s₀ s : State} (h : Keeps s₀ s) (a : PostAction) : Keeps s₀ (State.afterPost s a) := by
  unfold State.afterPost
  try dsimp only
  repeat' first | (with_reducible first | assumption | apply State.completeHost_keeps | apply State.cacheLine_keeps) | split

theorem State.posted_keeps {s₀ s : State} (h : Keeps s₀ s) (a : PostAction) : Keeps s₀ (State.posted s a) := by
  unfold State.posted
  try dsimp only
  repeat' (first
    | (with_reducible first | assumption | apply State.afterPost_keeps | apply Keeps.onSpare | apply Keeps.fold) | split
    | (intro _ _ _; try dsimp only))

theorem State.post_keeps {s₀ s : State} (h : Keeps s₀ s) (ch slot : Nat) (data : List Byte) (actions : List PostAction) : Keeps s₀ (State.post s ch slot data actions) := by
  unfold State.post
  try dsimp only
  repeat' (first
    | (with_reducible first | assumption | apply State.toBuffer_keeps | apply State.posted_keeps | apply Keeps.fold)
    | (intro _ _ _; try dsimp only))

theorem State.writeBack_keeps {s₀ s : State} (h : Keeps s₀ s) (slot first : Nat) (data : List Byte) (source rid : Nat) : Keeps s₀ (State.writeBack s slot first data source rid) := by
  unfold State.writeBack
  try dsimp only
  repeat' (first
    | (with_reducible first | assumption | apply State.onChannel_keeps | apply State.toBuffer_keeps | apply State.countCorrections_keeps | apply State.bump_keeps | apply State.fault_keeps | apply Keeps.onSpare)
    | split)

theorem State.reread_keeps {s₀ s : State} (h : Keeps s₀ s) (ch slot first : Nat) (data : List Byte) (source : Nat) : Keeps s₀ (State.reread s ch slot first data source) := by
  unfold State.reread
  try dsimp only
  repeat' first | (with_reducible first | assumption | apply State.classify_keeps | apply State.hazard_keeps)

theorem State.wantTurn_keeps {s₀ s : State} (h : Keeps s₀ s) (ch : Nat) : Keeps s₀ (State.wantTurn s ch) := by
  unfold State.wantTurn
  try dsimp only
  repeat' first | (with_reducible first | assumption | apply Keeps.onDram) | (intro _; rfl) | split | (intro _; dsimp only; split <;> rfl)

theorem State.leaveSelfRefresh_keeps {s₀ s : State} (h : Keeps s₀ s) (ch : Nat) : Keeps s₀ (State.leaveSelfRefresh s ch) := by
  unfold State.leaveSelfRefresh
  try dsimp only
  repeat' first | (with_reducible first | assumption | apply State.onChannel_keeps)

theorem State.wakeFor_keeps {s₀ s : State} (h : Keeps s₀ s) (ch : Nat) : Keeps s₀ (State.wakeFor s ch) := by
  unfold State.wakeFor
  try dsimp only
  repeat' (first
    | (with_reducible first | assumption | apply State.leaveSelfRefresh_keeps | apply State.onGroup_keeps | apply State.onChannel_keeps)
    | split)

theorem State.finishRetrain_keeps {s₀ s : State} (h : Keeps s₀ s) (ch kind detail stallNs : Nat) : Keeps s₀ (State.finishRetrain s ch kind detail stallNs) := by
  unfold State.finishRetrain
  try dsimp only
  repeat' (first
    | (with_reducible first | assumption | apply State.finishBackground_keeps | apply Keeps.fold | apply Keeps.onDram) | (intro _; rfl)
    | (intro _ _ _; try dsimp only) | (intro _; dsimp only; split <;> rfl))

theorem State.takeOut_keeps {s₀ s : State} (h : Keeps s₀ s) (ch kind : Nat) : Keeps s₀ (State.takeOut s ch kind) := by
  unfold State.takeOut
  try dsimp only
  repeat' (first
    | (with_reducible first | assumption | apply State.retireChannel_keeps | apply State.finishRetrain_keeps | apply State.raiseAll_keeps | apply State.onChannel_keeps | apply State.markerDone_keeps | apply State.posted_keeps | apply State.fault_keeps | apply Keeps.fold | apply Keeps.onDram | apply Keeps.onSpare)
    | (intro _; rfl) | split | (intro _ _ _; try dsimp only) | (intro _; dsimp only; split <;> rfl))

theorem State.pollDone_keeps {s₀ s : State} (h : Keeps s₀ s) (ch : Nat) (codes : BitVec 12) : Keeps s₀ (State.pollDone s ch codes) := by
  unfold State.pollDone
  try dsimp only
  repeat' (first
    | (with_reducible first | assumption | apply State.dramThermal_keeps | apply State.onChannel_keeps | apply State.raiseAll_keeps | apply Keeps.fold)
    | split | (intro _ _ _; try dsimp only))

theorem State.zqDone_keeps {s₀ s : State} (h : Keeps s₀ s) (ch : Nat) (passed : Bool) (ns : Nat) : Keeps s₀ (State.zqDone s ch passed ns) := by
  unfold State.zqDone
  try dsimp only
  repeat' (first
    | (with_reducible first | assumption | apply State.onChannel_keeps | apply State.finishRetrain_keeps | apply State.takeOut_keeps)
    | split)

theorem State.dqsDone_keeps {s₀ s : State} (h : Keeps s₀ s) (ch : Nat) (drift : BitVec 16) : Keeps s₀ (State.dqsDone s ch drift) := by
  unfold State.dqsDone
  try dsimp only
  repeat' first | (with_reducible first | assumption | apply State.onChannel_keeps | apply State.wantTurn_keeps) | split

theorem State.execHead_keeps {s₀ s : State} (h : Keeps s₀ s) (ch : Nat) : Keeps s₀ (State.execHead s ch) := by
  unfold State.execHead
  try dsimp only
  repeat' (first
    | (with_reducible first | assumption | apply State.bump_keeps | apply State.onChannel_keeps | apply State.hazard_keeps | apply State.post_keeps | apply State.markerDone_keeps | apply State.pollDone_keeps | apply State.zqDone_keeps | apply State.dqsDone_keeps | apply State.reread_keeps)
    | split)

theorem State.execMany_keeps {s₀ s : State} (h : Keeps s₀ s) (ch : Nat) (l : Nat) : Keeps s₀ (State.execMany s ch l) := by
  induction l generalizing s ch with
  | zero =>
    unfold State.execMany
    try dsimp only
    repeat' first | (with_reducible first | assumption | apply State.execHead_keeps) | split
  | succ n ih =>
    unfold State.execMany
    try dsimp only
    repeat' first | (with_reducible first | assumption | apply ih | apply State.execHead_keeps) | split

theorem State.execMarkers_keeps {s₀ s : State} (h : Keeps s₀ s) (ch : Nat) (l : Nat) : Keeps s₀ (State.execMarkers s ch l) := by
  induction l generalizing s ch with
  | zero =>
    unfold State.execMarkers
    try dsimp only
    repeat' first | (with_reducible first | assumption | apply State.execHead_keeps) | split
  | succ n ih =>
    unfold State.execMarkers
    try dsimp only
    repeat' first | (with_reducible first | assumption | apply ih | apply State.execHead_keeps) | split

theorem State.runChannel_keeps {s₀ s : State} (h : Keeps s₀ s) (ch : Nat) : Keeps s₀ (State.runChannel s ch) := by
  unfold State.runChannel
  try dsimp only
  repeat' first | (with_reducible first | assumption | apply State.execMarkers_keeps | apply State.execMany_keeps) | split

theorem State.enterRead_keeps {s₀ s : State} (h : Keeps s₀ s) (slot fetch index : Nat) : Keeps s₀ (State.enterRead s slot fetch index) := by
  unfold State.enterRead
  try dsimp only
  repeat' first | (with_reducible first | assumption | apply State.wakeFor_keeps | apply State.onChannel_keeps)

theorem State.enterWrite_keeps {s₀ s : State} (h : Keeps s₀ s) (slot : Nat) (data : List Byte) (actions : List PostAction) : Keeps s₀ (State.enterWrite s slot data actions) := by
  unfold State.enterWrite
  try dsimp only
  repeat' (first
    | (with_reducible first | assumption | apply State.wakeFor_keeps | apply State.onChannel_keeps | apply State.post_keeps | apply State.runChannel_keeps | apply State.posted_keeps | apply Keeps.fold)
    | split | (intro _ _ _; try dsimp only))

theorem State.readLight_keeps {s₀ s : State} (h : Keeps s₀ s) (slot source rid : Nat) : Keeps s₀ (State.readLight s slot source rid).1 := by
  unfold State.readLight
  try dsimp only
  repeat' (first
    | (with_reducible first | assumption | apply State.onChannel_keeps | apply State.bump_keeps | apply State.wakeFor_keeps | apply State.writeBack_keeps | apply Keeps.onSpare)
    | split)

theorem State.badSlot_keeps {s₀ s : State} (h : Keeps s₀ s) (slot area course mask source rid : Nat) (lds : List LdId) : Keeps s₀ (State.badSlot s slot area course mask source rid lds) := by
  unfold State.badSlot
  try dsimp only
  repeat' (first
    | (with_reducible first | assumption | apply State.hardFault_keeps | apply State.raise_keeps | apply State.fault_keeps | apply Keeps.onSpare))

theorem State.readMember_keeps {s₀ s : State} (h : Keeps s₀ s) (r : Run) (n m source rid : Nat) : Keeps s₀ (State.readMember s r n m source rid).1 := by
  unfold State.readMember
  try dsimp only
  repeat' first | (with_reducible first | assumption | apply State.readLight_keeps) | split

theorem State.readMembers_keeps {s₀ s : State} (h : Keeps s₀ s) (r : Run) (n source rid : Nat) (skip : Option Nat) (l : List Nat) : Keeps s₀ (State.readMembers s r n source rid skip l).1 := by
  induction l generalizing s r n source rid skip with
  | nil =>
    unfold State.readMembers
    try dsimp only
    repeat' first | (with_reducible first | assumption | apply State.readMember_keeps) | split
  | cons a l ih =>
    unfold State.readMembers
    try dsimp only
    repeat' first | (with_reducible first | assumption | apply ih | apply State.readMember_keeps) | split

theorem State.sendBack_keeps {s₀ s : State} (h : Keeps s₀ s) (slot : Nat) (data : List Byte) (source : Nat) : Keeps s₀ (State.sendBack s slot data source) := by
  unfold State.sendBack
  try dsimp only
  repeat' (first
    | (with_reducible first | assumption | apply State.onChannel_keeps | apply State.enterWrite_keeps | apply State.fault_keeps | apply Keeps.onSpare)
    | split)

theorem State.rebuiltEvent_keeps {s₀ s : State} (h : Keeps s₀ s) (slot cause rid : Nat) : Keeps s₀ (State.rebuiltEvent s slot cause rid) := by
  unfold State.rebuiltEvent
  try dsimp only
  repeat' first | (with_reducible first | assumption | apply State.raise_keeps | apply Keeps.onSpare)

theorem State.stripeBad_keeps {s₀ s : State} (h : Keeps s₀ s) (r : Run) (n mask rid : Nat) : Keeps s₀ (State.stripeBad s r n mask rid) := by
  unfold State.stripeBad
  try dsimp only
  repeat' first | (with_reducible first | assumption | apply State.raise_keeps)

theorem State.rebuildMember_keeps {s₀ s : State} (h : Keeps s₀ s) (r : Run) (n m cause source rid : Nat) : Keeps s₀ (State.rebuildMember s r n m cause source rid).1 := by
  unfold State.rebuildMember
  try dsimp only
  repeat' (first
    | (with_reducible first | assumption | apply State.stripeBad_keeps | apply State.readMembers_keeps | apply State.cost_keeps | apply State.sendBack_keeps | apply State.rebuiltEvent_keeps)
    | split)

theorem State.readSlot_keeps {s₀ s : State} (h : Keeps s₀ s) (r : Run) (k source rid : Nat) : Keeps s₀ (State.readSlot s r k source rid).1 := by
  unfold State.readSlot
  try dsimp only
  repeat' (first
    | (with_reducible first | assumption | apply State.readLight_keeps | apply State.rebuildMember_keeps)
    | (with_reducible refine Keeps.of_pair (by assumption) ?_) | split)

theorem State.readStripe_keeps {s₀ s : State} (h : Keeps s₀ s) (r : Run) (n source rid : Nat) : Keeps s₀ (State.readStripe s r n source rid).1 := by
  unfold State.readStripe
  try dsimp only
  repeat' (first
    | (with_reducible first | assumption | apply State.readMembers_keeps | apply State.stripeBad_keeps | apply State.sendBack_keeps | apply State.raise_keeps | apply State.fault_keeps | apply State.rebuiltEvent_keeps | apply Keeps.onSpare)
    | split)

theorem State.readStripes_keeps {s₀ s : State} (h : Keeps s₀ s) (r : Run) (source rid : Nat) (l : List Nat) : Keeps s₀ (State.readStripes s r source rid l).1 := by
  induction l generalizing s r source rid with
  | nil =>
    unfold State.readStripes
    try dsimp only
    repeat' first | (with_reducible first | assumption | apply State.readStripe_keeps) | split
  | cons a l ih =>
    unfold State.readStripes
    try dsimp only
    repeat' first | (with_reducible first | assumption | apply ih | apply State.readStripe_keeps) | split

theorem State.readSlots_keeps {s₀ s : State} (h : Keeps s₀ s) (r : Run) (source rid : Nat) (l : List Nat) : Keeps s₀ (State.readSlots s r source rid l).1 := by
  induction l generalizing s r source rid with
  | nil =>
    unfold State.readSlots
    try dsimp only
    repeat' first | (with_reducible first | assumption | apply State.readSlot_keeps) | split
  | cons a l ih =>
    unfold State.readSlots
    try dsimp only
    repeat' first | (with_reducible first | assumption | apply ih | apply State.readSlot_keeps) | split

theorem State.readRun_keeps {s₀ s : State} (h : Keeps s₀ s) (r : Run) (source rid : Nat) : Keeps s₀ (State.readRun s r source rid).1 := by
  unfold State.readRun
  try dsimp only
  repeat' first | (with_reducible first | assumption | apply State.readSlots_keeps | apply State.readStripes_keeps) | split

theorem State.writeMember_keeps {s₀ s : State} (h : Keeps s₀ s) (slot : Nat) (data : List Byte) (actions : List PostAction) : Keeps s₀ (State.writeMember s slot data actions) := by
  unfold State.writeMember
  try dsimp only
  repeat' (first
    | (with_reducible first | assumption | apply State.enterWrite_keeps | apply State.posted_keeps | apply Keeps.fold) | split
    | (intro _ _ _; try dsimp only))

theorem State.writeChecked_keeps {s₀ s : State} (h : Keeps s₀ s) (r : Run) (n : Nat) (writes : List (Nat × List Byte)) (p q : List Byte) (onDone : List PostAction) : Keeps s₀ (State.writeChecked s r n writes p q onDone) := by
  unfold State.writeChecked
  try dsimp only
  repeat' (first
    | (with_reducible first | assumption | apply State.writeMember_keeps | apply Keeps.fold | apply Keeps.onSpare)
    | (intro _ _ _; try dsimp only))

theorem State.writeStripe_keeps {s₀ s : State} (h : Keeps s₀ s) (r : Run) (n : Nat) (data : List (List Byte)) (onDone : List PostAction) : Keeps s₀ (State.writeStripe s r n data onDone) := by
  unfold State.writeStripe
  try dsimp only
  repeat' first | (with_reducible first | assumption | apply State.writeChecked_keeps)

theorem State.updateStripe_keeps {s₀ s : State} (h : Keeps s₀ s) (r : Run) (n : Nat) (writes : List (Nat × List Byte)) (rid : Nat) (onDone : List PostAction) : Keeps s₀ (State.updateStripe s r n writes rid onDone) := by
  unfold State.updateStripe
  try dsimp only
  repeat' (first
    | (with_reducible first | assumption | apply State.writeChecked_keeps | apply State.readMember_keeps | apply State.readSlots_keeps | apply State.writeStripe_keeps)
    | split)

theorem State.writeSlots_keeps {s₀ s : State} (h : Keeps s₀ s) (r : Run) (writes : List (Nat × List Byte)) (rid : Nat) (onDone : List PostAction) : Keeps s₀ (State.writeSlots s r writes rid onDone) := by
  unfold State.writeSlots
  try dsimp only
  repeat' (first
    | (with_reducible first | assumption | apply State.enterWrite_keeps | apply State.updateStripe_keeps | apply State.posted_keeps | apply Keeps.fold)
    | split | (intro _ _ _; try dsimp only))

theorem State.writeRun_keeps {s₀ s : State} (h : Keeps s₀ s) (r : Run) (cts : List (List Byte)) : Keeps s₀ (State.writeRun s r cts) := by
  unfold State.writeRun
  try dsimp only
  repeat' (first
    | (with_reducible first | assumption | apply State.enterWrite_keeps | apply State.writeStripe_keeps | apply Keeps.fold) | split
    | (intro _ _ _; try dsimp only))

theorem State.nextPass_keeps {s₀ s : State} (h : Keeps s₀ s) : Keeps s₀ (State.nextPass s) := by
  unfold State.nextPass
  try dsimp only
  repeat' first | (with_reducible first | assumption | apply Keeps.onFlash) | split

theorem State.startRekeyOf_keeps {s₀ s : State} (h : Keeps s₀ s) (c reason : Nat) : Keeps s₀ (State.startRekeyOf s c reason) := by
  unfold State.startRekeyOf
  try dsimp only
  repeat' (first
    | (with_reducible first | assumption | apply State.raise_keeps | apply State.nextPass_keeps | apply State.onCtx_keeps | apply State.drawKey_keeps | apply Keeps.onFlash)
    | split)

theorem State.countWrites_keeps {s₀ s : State} (h : Keeps s₀ s) (c : Nat) (gen : Bool) (n : Nat) : Keeps s₀ (State.countWrites s c gen n) := by
  unfold State.countWrites
  try dsimp only
  repeat' (first
    | (with_reducible first | assumption | apply State.onCtx_keeps | apply State.raise_keeps | apply State.startRekeyOf_keeps | apply Keeps.onFlash)
    | split)

theorem State.encryptAll_keeps {s₀ s : State} (h : Keeps s₀ s) (ctx : Nat) (gen : Bool) (tier : Tier) (course : Nat) (slots : List (Nat × List Byte)) : Keeps s₀ (State.encryptAll s ctx gen tier course slots).1 := by
  unfold State.encryptAll
  try dsimp only
  repeat' first | (with_reducible first | assumption | apply State.countWrites_keeps)

theorem State.touchBundle_keeps {s₀ s : State} (h : Keeps s₀ s) (course : Nat) : Keeps s₀ (State.touchBundle s course) := by
  unfold State.touchBundle
  try dsimp only
  repeat' first | (with_reducible first | assumption | apply Keeps.onPlace) | split

theorem State.touchEngine_keeps {s₀ s : State} (h : Keeps s₀ s) (course : Nat) : Keeps s₀ (State.touchEngine s course) := by
  unfold State.touchEngine
  try dsimp only
  repeat' first | (with_reducible first | assumption | apply Keeps.onPlace) | split

theorem State.traceTier_keeps {s₀ s : State} (h : Keeps s₀ s) (sub course : Nat) (old new : Tier) (len : Nat) : Keeps s₀ (State.traceTier s sub course old new len) := by
  unfold State.traceTier
  try dsimp only
  repeat' first | (with_reducible first | assumption | apply State.trace_keeps)

theorem State.setCached_keeps {s₀ s : State} (h : Keeps s₀ s) (course : Nat) (c : CachedBatten) : Keeps s₀ (State.setCached s course c) := by
  unfold State.setCached
  try dsimp only
  repeat' first | (with_reducible first | assumption | apply Keeps.onXlat)

theorem State.setTable_keeps {s₀ s : State} (h : Keeps s₀ s) (course : Nat) (b : Batten) : Keeps s₀ (State.setTable s course b) := by
  unfold State.setTable
  try dsimp only
  repeat' first | (with_reducible first | assumption | apply Keeps.onXlat)

theorem State.writeBackBatten_keeps {s₀ s : State} (h : Keeps s₀ s) (course : Nat) : Keeps s₀ (State.writeBackBatten s course) := by
  unfold State.writeBackBatten
  try dsimp only
  repeat' first | (with_reducible first | assumption | apply State.setCached_keeps | apply State.setTable_keeps) | split

theorem State.evictBatten_keeps {s₀ s : State} (h : Keeps s₀ s) (course : Nat) : Keeps s₀ (State.evictBatten s course) := by
  unfold State.evictBatten
  try dsimp only
  repeat' first | (with_reducible first | assumption | apply State.writeBackBatten_keeps | apply Keeps.onXlat)

theorem State.ownCount_keeps {s₀ s : State} (h : Keeps s₀ s) (ctx : Nat) (up : Bool) : Keeps s₀ (State.ownCount s ctx up) := by
  unfold State.ownCount
  try dsimp only
  repeat' first | (with_reducible first | assumption | apply State.onCtx_keeps) | split

theorem State.loseCourse_keeps {s₀ s : State} (h : Keeps s₀ s) (course : Nat) : Keeps s₀ (State.loseCourse s course) := by
  unfold State.loseCourse
  try dsimp only
  repeat' (first
    | (with_reducible first | assumption | apply State.touchBundle_keeps | apply State.traceTier_keeps | apply State.invalidateCourse_keeps | apply State.enlist_keeps | apply State.unlist_keeps | apply State.setCached_keeps | apply State.ownCount_keeps | apply State.setTable_keeps)
    | split)

theorem State.lostEvent_keeps {s₀ s : State} (h : Keeps s₀ s) (block first count : Nat) : Keeps s₀ (State.lostEvent s block first count) := by
  unfold State.lostEvent
  try dsimp only
  repeat' first | (with_reducible first | assumption | apply State.raise_keeps)

theorem State.clearTableError_keeps {s₀ s : State} (h : Keeps s₀ s) (slot : Nat) : Keeps s₀ (State.clearTableError s slot) := by
  unfold State.clearTableError
  try dsimp only
  repeat' first | (with_reducible first | assumption | apply Keeps.onXlat)

theorem State.readTableSlot_keeps {s₀ s : State} (h : Keeps s₀ s) (course source : Nat) : Keeps s₀ (State.readTableSlot s course source) := by
  unfold State.readTableSlot
  try dsimp only
  repeat' (first
    | (with_reducible first | assumption | apply State.lostEvent_keeps | apply State.badSlot_keeps | apply State.clearTableError_keeps | apply State.loseCourse_keeps | apply State.raise_keeps | apply State.fault_keeps | apply State.countCorrections_keeps | apply State.bump_keeps | apply Keeps.fold | apply Keeps.onSpare)
    | split | (intro _ _ _; try dsimp only))

theorem State.loadBatten_keeps {s₀ s : State} (h : Keeps s₀ s) (course source : Nat) : Keeps s₀ (State.loadBatten s course source) := by
  unfold State.loadBatten
  try dsimp only
  repeat' (first
    | (with_reducible first | assumption | apply State.lostEvent_keeps | apply State.loseCourse_keeps | apply State.readTableSlot_keeps | apply State.bump_keeps | apply State.setCached_keeps | apply State.evictBatten_keeps | apply Keeps.onXlat)
    | split)

theorem State.commit_keeps {s₀ s : State} (h : Keeps s₀ s) (course : Nat) (b : Batten) : Keeps s₀ (State.commit s course b) := by
  unfold State.commit
  try dsimp only
  repeat' (first
    | (with_reducible first | assumption | apply State.touchBundle_keeps | apply State.setCached_keeps | apply State.setTable_keeps)
    | split)

theorem State.commitHeat_keeps {s₀ s : State} (h : Keeps s₀ s) (course : Nat) (f : Batten → Batten) : Keeps s₀ (State.commitHeat s course f) := by
  unfold State.commitHeat
  try dsimp only
  repeat' first | (with_reducible first | assumption | apply State.setCached_keeps | apply State.setTable_keeps) | split

theorem State.lockBatten_keeps {s₀ s : State} (h : Keeps s₀ s) (course : Nat) (v : Bool) : Keeps s₀ (State.lockBatten s course v) := by
  unfold State.lockBatten
  try dsimp only
  repeat' first | (with_reducible first | assumption | apply State.setCached_keeps) | split

theorem State.syncPoison_keeps {s₀ s : State} (h : Keeps s₀ s) (course : Nat) : Keeps s₀ (State.syncPoison s course) := by
  unfold State.syncPoison
  try dsimp only
  repeat' first | (with_reducible first | assumption | apply State.commit_keeps) | split

theorem State.freeRunOf_keeps {s₀ s : State} (h : Keeps s₀ s) (b : Batten) : Keeps s₀ (State.freeRunOf s b) := by
  unfold State.freeRunOf
  try dsimp only
  repeat' first | (with_reducible first | assumption | apply State.release_keeps)

theorem State.allocTable_keeps {s₀ s : State} (h : Keeps s₀ s) (block : Nat) : Keeps s₀ (State.allocTable s block).1 := by
  unfold State.allocTable
  try dsimp only
  repeat' (first
    | (with_reducible first | assumption | apply State.adjustPressure_keeps | apply State.allocStrong_keeps | apply State.raise_keeps | apply State.onLath_keeps | apply Keeps.onAlloc)
    | split)

theorem State.freeTable_keeps {s₀ s : State} (h : Keeps s₀ s) (base : Nat) (strong : Bool) : Keeps s₀ (State.freeTable s base strong) := by
  unfold State.freeTable
  try dsimp only
  repeat' (first
    | (with_reducible first | assumption | apply State.release_keeps | apply Keeps.fold | apply Keeps.onXlat) | split
    | (intro _ _ _; try dsimp only))

theorem State.uncountBlock_keeps {s₀ s : State} (h : Keeps s₀ s) (block : Nat) : Keeps s₀ (State.uncountBlock s block) := by
  unfold State.uncountBlock
  try dsimp only
  repeat' (first
    | (with_reducible first | assumption | apply State.ownCount_keeps | apply Keeps.fold) | split | (intro _ _ _; try dsimp only))

theorem State.clearBlockPoison_keeps {s₀ s : State} (h : Keeps s₀ s) (block : Nat) : Keeps s₀ (State.clearBlockPoison s block) := by
  unfold State.clearBlockPoison
  try dsimp only
  repeat' (first
    | (with_reducible first | assumption | apply State.unlist_keeps | apply State.setCached_keeps | apply State.setTable_keeps | apply Keeps.fold)
    | split | (intro _ _ _; try dsimp only))

theorem State.touchBlock_keeps {s₀ s : State} (h : Keeps s₀ s) (block : Nat) : Keeps s₀ (State.touchBlock s block) := by
  unfold State.touchBlock
  try dsimp only
  repeat' first | (with_reducible first | assumption | apply Keeps.onPlace) | split

theorem State.advanceEpoch_keeps {s₀ s : State} (h : Keeps s₀ s) (block : Nat) : Keeps s₀ (State.advanceEpoch s block) := by
  unfold State.advanceEpoch
  try dsimp only
  repeat' (first
    | (with_reducible first | assumption | apply State.touchBlock_keeps | apply State.onDir_keeps | apply State.clearBlockPoison_keeps | apply State.uncountBlock_keeps))

theorem State.placeSwap_keeps {s₀ s : State} (h : Keeps s₀ s) (block : Nat) : Keeps s₀ (State.placeSwap s block) := by
  unfold State.placeSwap
  try dsimp only
  repeat' (first
    | (with_reducible first | assumption | apply State.unplaced_keeps | apply State.allocTable_keeps | apply State.onDir_keeps | apply Keeps.onXlat)
    | split)

theorem State.beginSwap_keeps {s₀ s : State} (h : Keeps s₀ s) (block : Nat) (bound : Bool) : Keeps s₀ (State.beginSwap s block bound) := by
  unfold State.beginSwap
  try dsimp only
  repeat' (first
    | (with_reducible first | assumption | apply State.placeSwap_keeps | apply State.touchBlock_keeps | apply State.onDir_keeps | apply State.clearBlockPoison_keeps | apply State.uncountBlock_keeps | apply State.finishBackground_keeps | apply State.freeTable_keeps | apply Keeps.onXlat)
    | split)

theorem State.makeAbsent_keeps {s₀ s : State} (h : Keeps s₀ s) (block : Nat) (bound : Bool) : Keeps s₀ (State.makeAbsent s block bound) := by
  unfold State.makeAbsent
  try dsimp only
  repeat' first | (with_reducible first | assumption | apply State.advanceEpoch_keeps | apply State.beginSwap_keeps) | split

theorem State.readPlain_keeps {s₀ s : State} (h : Keeps s₀ s) (course : Nat) (b : Batten) (r : Run) (first ordinal source rid : Nat) (l : List Nat) : Keeps s₀ (State.readPlain s course b r first ordinal source rid l).1 := by
  induction l generalizing s course b r first ordinal source rid with
  | nil =>
    unfold State.readPlain
    try dsimp only
    repeat' first | (with_reducible first | assumption | apply State.readSlot_keeps | apply Keeps.onFlash) | split
  | cons a l ih =>
    unfold State.readPlain
    try dsimp only
    repeat' first | (with_reducible first | assumption | apply ih | apply State.readSlot_keeps | apply Keeps.onFlash) | split

theorem State.countDecode_keeps {s₀ s : State} (h : Keeps s₀ s) : Keeps s₀ (State.countDecode s) := by
  unfold State.countDecode
  try dsimp only
  repeat' first | (with_reducible first | assumption | apply State.bump_keeps | apply Keeps.onTile)

theorem State.tileFailed_keeps {s₀ s : State} (h : Keeps s₀ s) (course t cause rid : Nat) : Keeps s₀ (State.tileFailed s course t cause rid) := by
  unfold State.tileFailed
  try dsimp only
  repeat' first | (with_reducible first | assumption | apply State.raise_keeps | apply Keeps.onTile) | split

theorem State.badTileSlots_keeps {s₀ s : State} (h : Keeps s₀ s) (course mask source rid : Nat) (slots : List Nat) : Keeps s₀ (State.badTileSlots s course mask source rid slots) := by
  unfold State.badTileSlots
  try dsimp only
  repeat' first | (with_reducible first | assumption | apply State.badSlot_keeps | apply Keeps.fold) | (intro _ _ _; try dsimp only)

theorem State.readCoded_keeps {s₀ s : State} (h : Keeps s₀ s) (course : Nat) (b : Batten) (t first n source rid : Nat) : Keeps s₀ (State.readCoded s course b t first n source rid).1 := by
  unfold State.readCoded
  try dsimp only
  repeat' (first
    | (with_reducible first | assumption | apply State.countDecode_keeps | apply State.readPlain_keeps | apply State.fault_keeps | apply State.tileFailed_keeps | apply State.badTileSlots_keeps | apply Keeps.fold | apply Keeps.onSpare)
    | split | (intro _ _ _; try dsimp only))

theorem State.readPhioz_keeps {s₀ s : State} (h : Keeps s₀ s) (course : Nat) (b : Batten) (t source rid : Nat) : Keeps s₀ (State.readPhioz s course b t source rid).1 := by
  unfold State.readPhioz
  try dsimp only
  repeat' (first
    | (with_reducible first | assumption | apply State.countDecode_keeps | apply State.readPlain_keeps | apply State.tileFailed_keeps | apply State.badTileSlots_keeps)
    | split)

theorem State.readTile_keeps {s₀ s : State} (h : Keeps s₀ s) (course : Nat) (b : Batten) (t source rid : Nat) : Keeps s₀ (State.readTile s course b t source rid).1 := by
  unfold State.readTile
  try dsimp only
  repeat' (first
    | (with_reducible first | assumption | apply State.readCoded_keeps | apply State.readPhioz_keeps | apply State.readPlain_keeps | apply State.badTileSlots_keeps | apply Keeps.fold)
    | split | (intro _ _ _; try dsimp only))

theorem State.countEncode_keeps {s₀ s : State} (h : Keeps s₀ s) (t : List Byte) : Keeps s₀ (State.countEncode s t) := by
  unfold State.countEncode
  try dsimp only
  repeat' first | (with_reducible first | assumption | apply State.bump_keeps | apply Keeps.onTile) | split

theorem State.copyTile_keeps {s₀ s : State} (h : Keeps s₀ s) (course : Nat) (b : Batten) (t source : Nat) : Keeps s₀ (State.copyTile s course b t source).1 := by
  unfold State.copyTile
  try dsimp only
  repeat' (first
    | (with_reducible first | assumption | apply State.encryptAll_keeps | apply State.poisonLines_keeps | apply State.badTileSlots_keeps | apply State.readSlots_keeps | apply Keeps.fold)
    | split | (intro _ _ _; try dsimp only))

theorem State.copyTiles_keeps {s₀ s : State} (h : Keeps s₀ s) (course : Nat) (b : Batten) (source : Nat) (l : List Nat) : Keeps s₀ (State.copyTiles s course b source l).1 := by
  induction l generalizing s course b source with
  | nil =>
    unfold State.copyTiles
    try dsimp only
    repeat' first | (with_reducible first | assumption | apply State.copyTile_keeps) | split
  | cons a l ih =>
    unfold State.copyTiles
    try dsimp only
    repeat' first | (with_reducible first | assumption | apply ih | apply State.copyTile_keeps) | split

theorem State.regenOverflow_keeps {s₀ s : State} (h : Keeps s₀ s) (course : Nat) (b : Batten) (gen : Bool) (source : Nat) (l : List Nat) : Keeps s₀ (State.regenOverflow s course b gen source l).1 := by
  induction l generalizing s course b gen source with
  | nil =>
    unfold State.regenOverflow
    try dsimp only
    repeat' (first
      | (with_reducible first | assumption | apply State.alloc?_keeps | apply State.readPhioz_keeps | apply State.writeRun_keeps | apply State.encryptAll_keeps | apply State.poisonLines_keeps)
      | split)
  | cons a l ih =>
    unfold State.regenOverflow
    try dsimp only
    repeat' (first
      | (with_reducible first | assumption | apply ih | apply State.alloc?_keeps | apply State.readPhioz_keeps | apply State.writeRun_keeps | apply State.encryptAll_keeps | apply State.poisonLines_keeps)
      | split)

theorem State.reencryptTo_keeps {s₀ s : State} (h2 : Keeps s₀ s) (course : Nat) (b : Batten) (gen early : Bool) (old : List (Nat × Run)) (r : Run)
    (os : List (Nat × Nat × List Byte)) : Keeps s₀ (s.reencryptTo course b gen early old r os).1 := by
  unfold State.reencryptTo
  have h3 := State.copyTiles_keeps h2 course b 10 allTiles
  generalize s.copyTiles course b 10 allTiles = p at h3 ⊢
  obtain ⟨s3, tiles⟩ := p
  generalize s3.encrypt = f
  generalize s3.regen = g
  dsimp only
  apply Keeps.fold
  · apply State.release_keeps
    apply State.commit_keeps
    apply State.writeRun_keeps
    exact State.countWrites_keeps h3 _ _ _
  · intro s a h
    exact State.release_keeps h _

theorem State.reencrypt_keeps {s₀ s : State} (h : Keeps s₀ s) (course : Nat) (b : Batten) (gen early : Bool) :
    Keeps s₀ (s.reencrypt course b gen early).1 := by
  unfold State.reencrypt
  have h1 := State.alloc?_keeps h b.len.toNat b.strong false
  generalize s.overflowRuns course b = old
  generalize s.alloc? b.len.toNat b.strong false = p at h1 ⊢
  obtain ⟨s1, o⟩ := p
  cases o with
  | none => exact h1
  | some r =>
    dsimp only
    split
    · have h2 := State.regenOverflow_keeps h1 course b gen 10 allTiles
      generalize s1.regenOverflow course b gen 10 allTiles = p at h2 ⊢
      obtain ⟨s2, o2⟩ := p
      cases o2 with
      | none => exact State.unalloc_keeps h2 _
      | some os => exact State.reencryptTo_keeps h2 _ _ _ _ _ _ _
    · exact State.reencryptTo_keeps h1 _ _ _ _ _ _ _

theorem State.earlyRekey_keeps {s₀ s : State} (h : Keeps s₀ s) (course : Nat) : Keeps s₀ (State.earlyRekey s course).1 := by
  unfold State.earlyRekey
  try dsimp only
  repeat' first | (with_reducible first | assumption | apply State.reencrypt_keeps | apply Keeps.onFlash) | split

theorem State.abandonMove_keeps {s₀ s : State} (h : Keeps s₀ s) (course : Nat) : Keeps s₀ (State.abandonMove s course) := by
  unfold State.abandonMove
  try dsimp only
  repeat' first | (with_reducible first | assumption | apply State.commit_keeps | apply Keeps.onXlat) | split

theorem State.storeInPlace_keeps {s₀ s : State} (h : Keeps s₀ s) (course : Nat) (b : Batten) (t : Nat) (slots : List (List Byte)) (rid : Nat) : Keeps s₀ (State.storeInPlace s course b t slots rid) := by
  unfold State.storeInPlace
  try dsimp only
  repeat' (first
    | (with_reducible first | assumption | apply State.touchBundle_keeps | apply State.writeSlots_keeps | apply State.encryptAll_keeps)
    | split)

theorem State.repack_keeps {s₀ s : State} (h : Keeps s₀ s) (course : Nat) (b : Batten) (t : Nat) (slots : List (List Byte)) : Keeps s₀ (State.repack s course b t slots).1 := by
  unfold State.repack
  try dsimp only
  repeat' (first
    | (with_reducible first | assumption | apply State.alloc?_keeps | apply State.release_keeps | apply State.bump_keeps | apply State.commit_keeps | apply State.writeRun_keeps | apply State.encryptAll_keeps | apply State.copyTiles_keeps | apply Keeps.onXlat)
    | split)

theorem State.storePhiozPut_keeps {s₀ s : State} (h : Keeps s₀ s) (ctx : Nat) (gen : Bool) (tier : Tier) (course : Nat) (l : List (Nat × List Byte)) (o : Run)
    (g : List (List Byte) → List (Nat × List Byte)) (rid : Nat) :
    Keeps s₀ ((s.encryptAll ctx gen tier course l).1.writeSlots o (g (s.encryptAll ctx gen tier course l).2) rid []) :=
  State.writeSlots_keeps (State.encryptAll_keeps h _ _ _ _ _) _ _ _ _

theorem State.storePhiozForm_keeps {s₀ s : State} (h : Keeps s₀ s) (course : Nat) (b : Batten) (t : Nat) (new : List Byte) (rid : Nat) (home : Option (List Byte)) :
    Keeps s₀ (s.storePhiozForm course b t new rid home).1 := by
  unfold State.storePhiozForm
  extract_lets old
  clear_value old
  cases home with
  | some form =>
    cases old with
    | some o => dsimp only; exact Keeps.onTile (State.release_keeps (State.commit_keeps (State.storeInPlace_keeps h _ _ _ _ _) _ _) _) _
    | none => dsimp only; exact State.commit_keeps (State.storeInPlace_keeps h _ _ _ _ _) _ _
  | none =>
    cases old with
    | some o =>
      dsimp only
      generalize slotsOf (TileCode.phiozPointer _ new) = w
      generalize List.map (fun x => (64 + 4 * t + x.2, x.1)) (rawSlots new).zipIdx = w2
      with_reducible apply State.storeInPlace_keeps
      with_reducible apply State.writeSlots_keeps
      with_reducible apply State.encryptAll_keeps
      exact h
    | none =>
      generalize TileCode.phiozPointer = w
      generalize List.map (fun x => (64 + 4 * t + x.2, x.1)) (rawSlots new).zipIdx = w2
      have h1 := State.alloc?_keeps h 4 b.strong false
      generalize s.alloc? 4 b.strong false = p at h1 ⊢
      obtain ⟨s1, o⟩ := p
      cases o with
      | none => exact h1
      | some o =>
        dsimp only
        split
        · exact State.unalloc_keeps h1 _
        · dsimp only
          with_reducible apply Keeps.onTile
          with_reducible apply State.commit_keeps
          with_reducible apply State.storeInPlace_keeps
          with_reducible apply State.writeSlots_keeps
          with_reducible apply State.encryptAll_keeps
          exact h1

theorem State.storePhioz_keeps {s₀ s : State} (h : Keeps s₀ s) (course : Nat) (b : Batten) (t : Nat) (new : List Byte) (rid : Nat) :
    Keeps s₀ (s.storePhioz course b t new rid).1 := by
  rw [State.storePhioz]
  exact State.storePhiozForm_keeps h _ _ _ _ _ _

theorem State.storeTile_keeps {s₀ s : State} (h : Keeps s₀ s) (course : Nat) (b : Batten) (t : Nat) (new : List Byte) (rid : Nat) : Keeps s₀ (State.storeTile s course b t new rid).1 := by
  unfold State.storeTile
  try dsimp only
  repeat' (first
    | (with_reducible first | assumption | apply State.repack_keeps | apply State.countEncode_keeps | apply State.storeInPlace_keeps | apply State.storePhioz_keeps)
    | split)

theorem State.writeTiles_keeps {s₀ s : State} (h : Keeps s₀ s) (course ctx : Nat) (gen : Bool) (tier : Tier) (r : Run) (tiles : List (Nat × List (List Byte))) : Keeps s₀ (State.writeTiles s course ctx gen tier r tiles) := by
  unfold State.writeTiles
  try dsimp only
  repeat' first | (with_reducible first | assumption | apply State.writeRun_keeps | apply State.encryptAll_keeps) | split

theorem State.countEncodes_keeps {s₀ s : State} (h : Keeps s₀ s) (tiles : List (List Byte)) : Keeps s₀ (State.countEncodes s tiles) := by
  unfold State.countEncodes
  try dsimp only
  repeat' first | (with_reducible first | assumption | apply State.countEncode_keeps | apply Keeps.fold) | (intro _ _ _; try dsimp only)

theorem State.formPhioz_keeps {s₀ s : State} (h : Keeps s₀ s) (course ctx : Nat) (gen strong : Bool) (t : Nat) (x : List Byte) (home : Option (List Byte)) :
    Keeps s₀ (s.formPhioz course ctx gen strong t x home).1 := by
  unfold State.formPhioz
  cases home with
  | some f => exact h
  | none =>
    have h1 := State.alloc?_keeps h 4 strong true
    dsimp only
    generalize s.alloc? 4 strong true = p at h1 ⊢
    obtain ⟨s1, o⟩ := p
    cases o with
    | some o =>
      dsimp only
      exact Keeps.onTile (State.writeRun_keeps (State.encryptAll_keeps h1 _ _ _ _ _) _ _) _
    | none =>
      cases strong with
      | true => exact h1
      | false =>
        have h2 := State.alloc?_keeps h1 4 false false
        simp only [Bool.false_eq_true, if_false]
        generalize s1.alloc? 4 false false = p at h2 ⊢
        obtain ⟨s2, o2⟩ := p
        cases o2 with
        | none => exact h2
        | some o => dsimp only; exact Keeps.onTile (State.writeRun_keeps (State.encryptAll_keeps h2 _ _ _ _ _) _ _) _

theorem formNext_keeps {s₀ : State} (course ctx : Nat) (gen strong : Bool) (acc : State × Option (List (Nat × List (List Byte)))) (x : (List Byte × Nat) × Option (List Byte))
    (h : Keeps s₀ acc.1) : Keeps s₀ (formNext course ctx gen strong acc x).1 := by
  unfold formNext
  split
  · exact h
  · exact State.formPhioz_keeps h _ _ _ _ _ _ _

theorem State.writePhioz_keeps {s₀ s : State} (h : Keeps s₀ s) (course ctx : Nat) (gen strong : Bool) (tiles : List (List Byte)) :
    Keeps s₀ (s.writePhioz course ctx gen strong tiles).1 := by
  unfold State.writePhioz
  have h1 := State.alloc?_keeps h 32 strong false
  generalize s.alloc? 32 strong false = p at h1 ⊢
  obtain ⟨s1, o⟩ := p
  cases o with
  | none => exact h1
  | some r =>
    have h2 : Keeps s₀ ((tiles.zipIdx.map fun x => (x, TileCode.phiozHome x.1)).foldl (formNext course ctx gen r.strong) (s1, some [])).1 :=
      Keeps.foldl _ h1 (fun a x h => formNext_keeps _ _ _ _ a x h)
    change Keeps s₀ (Prod.fst (match (tiles.zipIdx.map fun x => (x, TileCode.phiozHome x.1)).foldl (formNext course ctx gen r.strong) (s1, some []) with | (s, l) => _))
    generalize (tiles.zipIdx.map fun x => (x, TileCode.phiozHome x.1)).foldl (formNext course ctx gen r.strong) (s1, some []) = p at h2 ⊢
    obtain ⟨s2, o2⟩ := p
    cases o2 with
    | none => exact State.unalloc_keeps h2 _
    | some l => exact State.writeTiles_keeps h2 _ _ _ _ _ _

theorem State.freeCourse_keeps {s₀ s : State} (h : Keeps s₀ s) (course : Nat) : Keeps s₀ (State.freeCourse s course) := by
  unfold State.freeCourse
  try dsimp only
  repeat' (first
    | (with_reducible first | assumption | apply State.release_keeps | apply State.invalidateCourse_keeps | apply State.commit_keeps | apply Keeps.fold | apply Keeps.onTile)
    | split | (intro _ _ _; try dsimp only))

theorem State.onGather_keeps {s₀ s : State} (h : Keeps s₀ s) (n : Nat) (f : Gather → Gather) : Keeps s₀ (State.onGather s n f) := by
  unfold State.onGather
  try dsimp only
  repeat' first | (with_reducible first | assumption | apply Keeps.onTile) | split

theorem State.madeGood_keeps {s₀ s : State} (h : Keeps s₀ s) (course t l rid : Nat) : Keeps s₀ (State.madeGood s course t l rid) := by
  unfold State.madeGood
  try dsimp only
  repeat' first | (with_reducible first | assumption | apply State.raise_keeps)

theorem State.notStored_keeps {s₀ s : State} (h : Keeps s₀ s) (course t l n rid : Nat) : Keeps s₀ (State.notStored s course t l n rid) := by
  unfold State.notStored
  try dsimp only
  repeat' first | (with_reducible first | assumption | apply State.raise_keeps | apply Keeps.onTile)

theorem State.settleLines_keeps {s₀ s : State} (h : Keeps s₀ s) (g : Gather) (bad : Nat) : Keeps s₀ (State.settleLines s g bad).1 := by
  unfold State.settleLines
  try dsimp only
  repeat' (first
    | (with_reducible first | assumption | apply State.notStored_keeps | apply State.madeGood_keeps | apply Keeps.foldl) | split
    | (intro _ _ _; try dsimp only))

theorem State.closeGather_keeps {s₀ s : State} (h : Keeps s₀ s) (n : Nat) : Keeps s₀ (State.closeGather s n) := by
  unfold State.closeGather
  try dsimp only
  repeat' (first
    | (with_reducible first | assumption | apply State.onGather_keeps | apply State.unplaced_keeps | apply State.cacheTile_keeps | apply State.syncPoison_keeps | apply State.setTilePoison_keeps | apply State.cost_keeps | apply State.bump_keeps | apply State.answerAll_keeps | apply State.storeTile_keeps | apply State.settleLines_keeps | apply State.cachedTile_keeps | apply State.earlyRekey_keeps | apply State.abandonMove_keeps | apply State.readTile_keeps | apply Keeps.onTile)
    | (with_reducible refine Keeps.of_pair' (by assumption) ?_) | split)

theorem State.closeGathers_keeps {s₀ s : State} (h : Keeps s₀ s) (p : Gather → Bool) : Keeps s₀ (State.closeGathers s p) := by
  unfold State.closeGathers
  try dsimp only
  repeat' first | (with_reducible first | assumption | apply State.closeGather_keeps | apply Keeps.fold) | (intro _ _ _; try dsimp only)

theorem State.closeCourse_keeps {s₀ s : State} (h : Keeps s₀ s) (course : Nat) : Keeps s₀ (State.closeCourse s course) := by
  unfold State.closeCourse
  try dsimp only
  repeat' first | (with_reducible first | assumption | apply State.closeGathers_keeps)

theorem State.closeBlock_keeps {s₀ s : State} (h : Keeps s₀ s) (block : Nat) : Keeps s₀ (State.closeBlock s block) := by
  unfold State.closeBlock
  try dsimp only
  repeat' first | (with_reducible first | assumption | apply State.closeGathers_keeps)

end Sys2Proof.Machine
end

