-- ==== Sys2Proof/Laws/KeepsRequests.lean ====
section
/-! SUPPORT. What every command keeps: regulation, requests, thatching and capacity. -/

namespace Sys2Proof.Machine

set_option Elab.async false
set_option linter.all false

theorem State.onQueue_keeps {s₀ s : State} (h : Keeps s₀ s) (n : Nat) (f : Queue → Queue) : Keeps s₀ (State.onQueue s n f) := by
  unfold State.onQueue
  try dsimp only
  repeat' first | (with_reducible first | assumption | apply Keeps.onReg)

theorem State.onUsed_keeps {s₀ s : State} (h : Keeps s₀ s) (src : Nat) (f : Nat → Nat) : Keeps s₀ (State.onUsed s src f) := by
  unfold State.onUsed
  try dsimp only
  repeat' first | (with_reducible first | assumption | apply Keeps.onReg) | split

theorem State.setWithheld_keeps {s₀ s : State} (h : Keeps s₀ s) (src : Nat) (v : Option Nat) : Keeps s₀ (State.setWithheld s src v) := by
  unfold State.setWithheld
  try dsimp only
  repeat' first | (with_reducible first | assumption | apply Keeps.onReg) | split

theorem State.checkCredits_keeps {s₀ s : State} (h : Keeps s₀ s) (src : Nat) : Keeps s₀ (State.checkCredits s src) := by
  unfold State.checkCredits
  try dsimp only
  repeat' first | (with_reducible first | assumption | apply State.setWithheld_keeps | apply State.raiseLimited_keeps) | split

theorem State.takeEntry_keeps {s₀ s : State} (h : Keeps s₀ s) (src entry : Nat) : Keeps s₀ (State.takeEntry s src entry) := by
  unfold State.takeEntry
  try dsimp only
  repeat' first | (with_reducible first | assumption | apply State.checkCredits_keeps | apply State.onUsed_keeps | apply Keeps.onReg)

theorem State.freeStore_keeps {s₀ s : State} (h : Keeps s₀ s) (src entry : Nat) : Keeps s₀ (State.freeStore s src entry) := by
  unfold State.freeStore
  try dsimp only
  repeat' first | (with_reducible first | assumption | apply State.checkCredits_keeps | apply State.onUsed_keeps | apply Keeps.onReg)

theorem State.police_keeps {s₀ s : State} (h : Keeps s₀ s) (qn cls : Nat) : Keeps s₀ (State.police s qn cls).1 := by
  unfold State.police
  try dsimp only
  repeat' first | (with_reducible first | assumption | apply State.onClass_keeps | apply State.onQueue_keeps) | split

theorem State.activate_keeps {s₀ s : State} (h : Keeps s₀ s) (qn : Nat) : Keeps s₀ (State.activate s qn) := by
  unfold State.activate
  try dsimp only
  repeat' first | (with_reducible first | assumption | apply Keeps.onReg) | split

theorem State.enqueue_keeps {s₀ s : State} (h : Keeps s₀ s) (r : Request) : Keeps s₀ (State.enqueue s r) := by
  unfold State.enqueue
  try dsimp only
  repeat' (first
    | (with_reducible first | assumption | apply State.activate_keeps | apply State.onQueue_keeps | apply State.takeEntry_keeps | apply State.police_keeps | apply Keeps.onReg)
    | split)

theorem State.takeHead_keeps {s₀ s : State} (h : Keeps s₀ s) (qn : Nat) (strict out : Bool) (r : Request) : Keeps s₀ (State.takeHead s qn strict out r) := by
  unfold State.takeHead
  try dsimp only
  repeat' (first
    | (with_reducible first | assumption | apply State.bump_keeps | apply State.freeStore_keeps | apply State.activate_keeps | apply State.onClass_keeps | apply State.onQueue_keeps | apply Keeps.onReg)
    | split)

theorem State.waitFor_keeps {s₀ s : State} (h : Keeps s₀ s) (r : Request) (why : WaitReason) : Keeps s₀ (State.waitFor s r why) := by
  unfold State.waitFor
  try dsimp only
  repeat' first | (with_reducible first | assumption | apply Keeps.onReg)

theorem State.addHeat_keeps {s₀ s : State} (h : Keeps s₀ s) (course : Nat) : Keeps s₀ (State.addHeat s course) := by
  unfold State.addHeat
  try dsimp only
  repeat' first | (with_reducible first | assumption | apply State.commitHeat_keeps) | split

theorem State.heatAndClass_keeps {s₀ s : State} (h : Keeps s₀ s) (course : Nat) (cls : BitVec 6) : Keeps s₀ (State.heatAndClass s course cls) := by
  unfold State.heatAndClass
  try dsimp only
  repeat' first | (with_reducible first | assumption | apply State.commitHeat_keeps | apply State.addHeat_keeps)

theorem State.wrongContext_keeps {s₀ s : State} (h : Keeps s₀ s) (code : Nat) (r : Request) (key cause : Nat) : Keeps s₀ (State.wrongContext s code r key cause) := by
  unfold State.wrongContext
  try dsimp only
  repeat' first | (with_reducible first | assumption | apply State.raiseLimited_keeps)

theorem State.refuseRead_keeps {s₀ s : State} (h : Keeps s₀ s) (r : Request) (key cause : Nat) : Keeps s₀ (State.refuseRead s r key cause) := by
  unfold State.refuseRead
  try dsimp only
  repeat' first | (with_reducible first | assumption | apply State.answer_keeps | apply State.wrongContext_keeps | apply Keeps.onFlash)

theorem State.discardWrite_keeps {s₀ s : State} (h : Keeps s₀ s) (r : Request) (key cause : Nat) : Keeps s₀ (State.discardWrite s r key cause) := by
  unfold State.discardWrite
  try dsimp only
  repeat' first | (with_reducible first | assumption | apply State.complete_keeps | apply State.wrongContext_keeps | apply Keeps.onFlash)

theorem State.noKeyWrite_keeps {s₀ s : State} (h : Keeps s₀ s) (r : Request) : Keeps s₀ (State.noKeyWrite s r) := by
  unfold State.noKeyWrite
  try dsimp only
  repeat' first | (with_reducible first | assumption | apply State.complete_keeps | apply State.raise_keeps | apply Keeps.onFlash)

theorem State.onFetch_keeps {s₀ s : State} (h : Keeps s₀ s) (n : Nat) (f : Fetch → Fetch) : Keeps s₀ (State.onFetch s n f) := by
  unfold State.onFetch
  try dsimp only
  repeat' first | (with_reducible first | assumption | apply Keeps.onDram) | (intro _; rfl) | split | (intro _; dsimp only; split <;> rfl)

theorem State.setSlot_keeps {s₀ s : State} (h : Keeps s₀ s) (n i : Nat) (x : SlotResult) : Keeps s₀ (State.setSlot s n i x) := by
  unfold State.setSlot
  try dsimp only
  repeat' first | (with_reducible first | assumption | apply State.onFetch_keeps) | split

theorem State.enterSlot_keeps {s₀ s : State} (h : Keeps s₀ s) (b : Batten) (n i slot : Nat) : Keeps s₀ (State.enterSlot s b n i slot) := by
  unfold State.enterSlot
  try dsimp only
  repeat' (first
    | (with_reducible first | assumption | apply State.enterRead_keeps | apply State.setSlot_keeps | apply State.onChannel_keeps) | split)

theorem State.dropTracker_keeps {s₀ s : State} (h : Keeps s₀ s) (t : Option Nat) : Keeps s₀ (State.dropTracker s t) := by
  unfold State.dropTracker
  try dsimp only
  repeat' first | (with_reducible first | assumption | apply State.closeTracker_keeps) | split

theorem State.endFetch_keeps {s₀ s : State} (h : Keeps s₀ s) (n : Nat) (f : Fetch) (tile : List Byte) (bad fill : Nat) : Keeps s₀ (State.endFetch s n f tile bad fill) := by
  unfold State.endFetch
  try dsimp only
  repeat' (first
    | (with_reducible first | assumption | apply State.dropTracker_keeps | apply State.install_keeps | apply State.answerAll_keeps | apply Keeps.onDram)
    | (intro _; rfl) | split | (intro _; dsimp only; split <;> rfl))

theorem State.listFetched_keeps {s₀ s : State} (h : Keeps s₀ s) (f : Fetch) (mask : Nat) : Keeps s₀ (State.listFetched s f mask) := by
  unfold State.listFetched
  try dsimp only
  repeat' first | (with_reducible first | assumption | apply State.syncPoison_keeps | apply State.poisonLines_keeps)

theorem State.loseFetch_keeps {s₀ s : State} (h : Keeps s₀ s) (n : Nat) (f : Fetch) (mask rid : Nat) (slots : List Nat) : Keeps s₀ (State.loseFetch s n f mask rid slots) := by
  unfold State.loseFetch
  try dsimp only
  repeat' (first
    | (with_reducible first | assumption | apply State.endFetch_keeps | apply State.fault_keeps | apply State.listFetched_keeps | apply State.badTileSlots_keeps | apply Keeps.fold | apply Keeps.onSpare)
    | split | (intro _ _ _; try dsimp only))

theorem State.finishFetch_keeps {s₀ s : State} (h : Keeps s₀ s) (n : Nat) (f : Fetch) : Keeps s₀ (State.finishFetch s n f) := by
  unfold State.finishFetch
  try dsimp only
  repeat' (first
    | (with_reducible first | assumption | apply State.loseFetch_keeps | apply State.endFetch_keeps | apply State.countDecode_keeps | apply State.fault_keeps | apply State.listFetched_keeps | apply State.tileFailed_keeps | apply State.onFetch_keeps | apply State.enterSlot_keeps | apply Keeps.onFlash | apply Keeps.fold | apply Keeps.onSpare)
    | split | (intro _ _ _; try dsimp only))

theorem State.settleFetch_keeps {s₀ s : State} (h : Keeps s₀ s) (n : Nat) : Keeps s₀ (State.settleFetch s n) := by
  unfold State.settleFetch
  try dsimp only
  repeat' first | (with_reducible first | assumption | apply State.finishFetch_keeps) | split

theorem State.startFetch_keeps {s₀ s : State} (h : Keeps s₀ s) (r : Request) (b : Batten) (tracker : Option Nat) : Keeps s₀ (State.startFetch s r b tracker) := by
  unfold State.startFetch
  try dsimp only
  repeat' (first
    | (with_reducible first | assumption | apply State.settleFetch_keeps | apply State.enterSlot_keeps | apply Keeps.fold | apply Keeps.onDram)
    | (intro _; rfl) | split | (intro _ _ _; try dsimp only) | (intro _; dsimp only; split <;> rfl))

theorem State.joinPromotion_keeps {s₀ s : State} (h : Keeps s₀ s) (r : Request) : Keeps s₀ (State.joinPromotion s r) := by
  unfold State.joinPromotion
  try dsimp only
  repeat' first | (with_reducible first | assumption | apply Keeps.onPlace)

theorem State.pauseJob_keeps {s₀ s : State} (h : Keeps s₀ s) (e : Nat) : Keeps s₀ (State.pauseJob s e) := by
  unfold State.pauseJob
  try dsimp only
  repeat' first | (with_reducible first | assumption | apply Keeps.onPlace) | split

theorem State.takeEngine_keeps {s₀ s : State} (h : Keeps s₀ s) : Keeps s₀ (State.takeEngine s).1 := by
  unfold State.takeEngine
  try dsimp only
  repeat' first | (with_reducible first | assumption | apply State.pauseJob_keeps) | split

theorem State.promote_keeps {s₀ s : State} (h : Keeps s₀ s) (course : Nat) (heat : Bool) (waiting : List Request) : Keeps s₀ (State.promote s course heat waiting) := by
  unfold State.promote
  try dsimp only
  repeat' (first
    | (with_reducible first | assumption | apply State.takeEngine_keeps | apply State.bump_keeps | apply State.cost_keeps | apply State.lockBatten_keeps | apply State.loadBatten_keeps | apply Keeps.onPlace | apply Keeps.onReg | apply Keeps.fold)
    | split | (intro _ _ _; try dsimp only))

theorem State.costRead_keeps {s₀ s : State} (h : Keeps s₀ s) (b : Batten) (t : Nat) : Keeps s₀ (State.costRead s b t) := by
  unfold State.costRead
  try dsimp only
  repeat' first | (with_reducible first | assumption | apply State.cost_keeps) | split

theorem State.missedRead_keeps {s₀ s : State} (h : Keeps s₀ s) (r : Request) (b : Batten) (way : Option Nat) : Keeps s₀ (State.missedRead s r b way) := by
  unfold State.missedRead
  try dsimp only
  repeat' (first
    | (with_reducible first | assumption | apply State.onFetch_keeps | apply State.startFetch_keeps | apply State.onTracker_keeps | apply State.openFill_keeps | apply State.closeTracker_keeps | apply State.install_keeps | apply State.answer_keeps | apply Keeps.onCache)
    | split)

theorem State.permittedRead_keeps {s₀ s : State} (h : Keeps s₀ s) (r : Request) (b : Batten) : Keeps s₀ (State.permittedRead s r b) := by
  unfold State.permittedRead
  try dsimp only
  repeat' (first
    | (with_reducible first | assumption | apply State.closeGather_keeps | apply State.onGather_keeps | apply State.addHeat_keeps | apply State.answer_keeps | apply State.lookup_keeps | apply State.costRead_keeps | apply State.missedRead_keeps)
    | (with_reducible refine Keeps.of_pair' (by assumption) ?_) | split)

theorem State.fixHome_keeps {s₀ s : State} (h : Keeps s₀ s) : Keeps s₀ (State.fixHome s) := by
  unfold State.fixHome
  try dsimp only
  repeat' first | (with_reducible first | assumption | apply Keeps.onXlat) | split

theorem State.settleWrite_keeps {s₀ s : State} (h : Keeps s₀ s) (r : Request) : Keeps s₀ (State.settleWrite s r).1 := by
  unfold State.settleWrite
  try dsimp only
  repeat' (first
    | (with_reducible first | assumption | apply State.notStored_keeps | apply State.madeGood_keeps | apply State.setTilePoison_keeps)
    | split)

theorem State.openGather_keeps {s₀ s : State} (h : Keeps s₀ s) (course t : Nat) (ld : LdId) : Keeps s₀ (State.openGather s course t ld).1 := by
  unfold State.openGather
  try dsimp only
  repeat' first | (with_reducible first | assumption | apply State.closeGather_keeps | apply Keeps.onTile) | split

theorem State.gatherWrite_keeps {s₀ s : State} (h : Keeps s₀ s) (r : Request) : Keeps s₀ (State.gatherWrite s r).1 := by
  unfold State.gatherWrite
  try dsimp only
  repeat' (first
    | (with_reducible first | assumption | apply State.openGather_keeps | apply State.completeHost_keeps | apply State.onGather_keeps | apply State.closeGather_keeps)
    | split)

theorem State.rawWrite_keeps {s₀ s : State} (h : Keeps s₀ s) (r : Request) : Keeps s₀ (State.rawWrite s r) := by
  unfold State.rawWrite
  try dsimp only
  repeat' (first
    | (with_reducible first | assumption | apply State.waitFor_keeps | apply State.unplaced_keeps | apply State.touchBundle_keeps | apply State.writeSlots_keeps | apply State.encryptAll_keeps | apply State.readPlain_keeps | apply State.cost_keeps | apply State.heatAndClass_keeps | apply State.earlyRekey_keeps | apply State.abandonMove_keeps | apply State.completeHost_keeps | apply State.notStored_keeps | apply State.syncPoison_keeps | apply State.poisonLines_keeps | apply State.badTileSlots_keeps | apply State.madeGood_keeps | apply State.setTilePoison_keeps)
    | split)

theorem State.claim_keeps {s₀ s : State} (h : Keeps s₀ s) (r : Request) : Keeps s₀ (State.claim s r) := by
  unfold State.claim
  try dsimp only
  repeat' (first
    | (with_reducible first | assumption | apply State.waitFor_keeps | apply State.gatherWrite_keeps | apply State.addHeat_keeps | apply State.traceTier_keeps | apply State.ownCount_keeps | apply State.commit_keeps | apply State.fixHome_keeps | apply State.unplaced_keeps | apply State.completeHost_keeps | apply State.syncPoison_keeps | apply State.cost_keeps | apply State.writeTiles_keeps | apply State.alloc?_keeps | apply State.settleWrite_keeps | apply State.countEncodes_keeps | apply State.writePhioz_keeps | apply State.freeCourse_keeps)
    | split)

theorem State.permittedWrite_keeps {s₀ s : State} (h : Keeps s₀ s) (r : Request) (b : Batten) : Keeps s₀ (State.permittedWrite s r b) := by
  unfold State.permittedWrite
  try dsimp only
  repeat' (first
    | (with_reducible first | assumption | apply State.waitFor_keeps | apply State.gatherWrite_keeps | apply State.heatAndClass_keeps | apply State.rawWrite_keeps)
    | split)

theorem State.listWritten_keeps {s₀ s : State} (h : Keeps s₀ s) (r : Request) : Keeps s₀ (State.listWritten s r) := by
  unfold State.listWritten
  try dsimp only
  repeat' (first
    | (with_reducible first | assumption | apply State.syncPoison_keeps | apply State.poisonLines_keeps | apply State.onGather_keeps | apply State.closeGather_keeps)
    | split)

theorem State.serveCourse_keeps {s₀ s : State} (h : Keeps s₀ s) (r : Request) (b : Batten) : Keeps s₀ (State.serveCourse s r b) := by
  unfold State.serveCourse
  try dsimp only
  repeat' (first
    | (with_reducible first | assumption | apply State.listWritten_keeps | apply State.permittedWrite_keeps | apply State.permittedRead_keeps | apply State.promote_keeps | apply State.noKeyWrite_keeps | apply State.answer_keeps | apply State.raise_keeps | apply State.discardWrite_keeps | apply State.refuseRead_keeps | apply State.claim_keeps | apply State.waitFor_keeps)
    | split)

theorem State.serveLocal_keeps {s₀ s : State} (h : Keeps s₀ s) (r : Request) : Keeps s₀ (State.serveLocal s r) := by
  unfold State.serveLocal
  try dsimp only
  repeat' (first
    | (with_reducible first | assumption | apply State.serveCourse_keeps | apply State.loadBatten_keeps | apply State.touchEngine_keeps | apply State.joinPromotion_keeps | apply State.waitFor_keeps | apply State.complete_keeps | apply State.answer_keeps)
    | split)

theorem State.remoteLost_keeps {s₀ s : State} (h : Keeps s₀ s) (d : Nat) (r : Request) : Keeps s₀ (State.remoteLost s d r) := by
  unfold State.remoteLost
  try dsimp only
  repeat' first | (with_reducible first | assumption | apply State.raise_keeps | apply State.onPeer_keeps)

theorem State.sendRemote_keeps {s₀ s : State} (h : Keeps s₀ s) (r : Request) (d course : Nat) : Keeps s₀ (State.sendRemote s r d course) := by
  unfold State.sendRemote
  try dsimp only
  repeat' (first
    | (with_reducible first | assumption | apply State.enqueueSend_keeps | apply State.complete_keeps | apply State.remoteLost_keeps | apply State.answer_keeps)
    | split)

theorem State.serveCascade_keeps {s₀ s : State} (h : Keeps s₀ s) (r : Request) : Keeps s₀ (State.serveCascade s r) := by
  unfold State.serveCascade
  try dsimp only
  repeat' (first
    | (with_reducible first | assumption | apply State.complete_keeps | apply State.raise_keeps | apply State.answer_keeps | apply State.sendRemote_keeps | apply State.discardWrite_keeps | apply State.refuseRead_keeps | apply State.waitFor_keeps | apply State.serveLocal_keeps)
    | split)

theorem State.serve_keeps {s₀ s : State} (h : Keeps s₀ s) (r : Request) : Keeps s₀ (State.serve s r) := by
  unfold State.serve
  try dsimp only
  repeat' (first
    | (with_reducible first | assumption | apply State.waitFor_keeps | apply State.serveLocal_keeps | apply State.serveCascade_keeps)
    | split)

theorem State.retry_keeps {s₀ s : State} (h : Keeps s₀ s) (p : WaitReason → Bool) : Keeps s₀ (State.retry s p) := by
  unfold State.retry
  try dsimp only
  repeat' (first
    | (with_reducible first | assumption | apply State.serve_keeps | apply Keeps.fold | apply Keeps.onReg) | (intro _ _ _; try dsimp only))

theorem State.retryGathers_keeps {s₀ s : State} (h : Keeps s₀ s) : Keeps s₀ (State.retryGathers s) := by
  unfold State.retryGathers
  try dsimp only
  repeat' first | (with_reducible first | assumption | apply State.closeGathers_keeps)

theorem State.accept_keeps {s₀ s : State} (h : Keeps s₀ s) (m : MemReq) (kind : ReqKind) (data : List Byte) (enables : BitVec 64) : Keeps s₀ (State.accept s m kind data enables) := by
  unfold State.accept
  try dsimp only
  repeat' (first
    | (with_reducible first | assumption | apply State.enqueue_keeps | apply State.countBytes_keeps | apply State.wakeDrowse_keeps | apply State.onLd_keeps | apply Keeps.onEaves | apply Keeps.emit)
    | (intro _; rfl) | split | (intro _; dsimp only; split <;> rfl))

theorem State.issue_keeps {s₀ s : State} (h : Keeps s₀ s) : Keeps s₀ (State.issue s) := by
  unfold State.issue
  try dsimp only
  repeat' (first
    | (with_reducible first | assumption | apply State.serve_keeps | apply State.takeHead_keeps | apply State.landed_keeps | apply Keeps.onReg | apply Keeps.emit)
    | split)

theorem State.onJob_keeps {s₀ s : State} (h : Keeps s₀ s) (n : Nat) (f : Job → Job) : Keeps s₀ (State.onJob s n f) := by
  unfold State.onJob
  try dsimp only
  repeat' first | (with_reducible first | assumption | apply Keeps.onPlace)

theorem State.setEngine_keeps {s₀ s : State} (h : Keeps s₀ s) (e : Nat) (w : EngineWork) : Keeps s₀ (State.setEngine s e w) := by
  unfold State.setEngine
  try dsimp only
  repeat' first | (with_reducible first | assumption | apply Keeps.onPlace)

theorem State.freeEngine_keeps {s₀ s : State} (h : Keeps s₀ s) (e : Nat) : Keeps s₀ (State.freeEngine s e) := by
  unfold State.freeEngine
  try dsimp only
  repeat' first | (with_reducible first | assumption | apply State.setEngine_keeps | apply Keeps.onPlace) | split

theorem State.stopJob_keeps {s₀ s : State} (h : Keeps s₀ s) (j reason : Nat) : Keeps s₀ (State.stopJob s j reason) := by
  unfold State.stopJob
  try dsimp only
  repeat' (first
    | (with_reducible first | assumption | apply State.raise_keeps | apply State.onJob_keeps | apply State.freeEngine_keeps | apply Keeps.onPlace)
    | split)

theorem State.advanceJob_keeps {s₀ s : State} (h : Keeps s₀ s) (j : Nat) : Keeps s₀ (State.advanceJob s j) := by
  unfold State.advanceJob
  try dsimp only
  repeat' first | (with_reducible first | assumption | apply State.onJob_keeps | apply State.stopJob_keeps) | split

theorem State.leaveBundle_keeps {s₀ s : State} (h : Keeps s₀ s) (j : Nat) (failed : Bool) : Keeps s₀ (State.leaveBundle s j failed) := by
  unfold State.leaveBundle
  try dsimp only
  repeat' first | (with_reducible first | assumption | apply State.advanceJob_keeps | apply State.onJob_keeps | apply Keeps.onPlace) | split

theorem State.stageTiles_keeps {s₀ s : State} (h : Keeps s₀ s) (e j first cap : Nat) (kept : List (List Byte)) (l : List Nat) (y : Staging) : Keeps s₀ (State.stageTiles s e j first cap kept l y) := by
  induction l generalizing s e j first cap kept y with
  | nil =>
    unfold State.stageTiles
    try dsimp only
    repeat' (first
      | (with_reducible first | assumption | apply State.setEngine_keeps | apply State.onJob_keeps | apply State.stopJob_keeps | apply State.leaveBundle_keeps | apply State.syncPoison_keeps | apply State.poisonLines_keeps | apply State.readTile_keeps)
      | split)
  | cons a l ih =>
    unfold State.stageTiles
    try dsimp only
    repeat' (first
      | (with_reducible first | assumption | apply ih | apply State.setEngine_keeps | apply State.onJob_keeps | apply State.stopJob_keeps | apply State.leaveBundle_keeps | apply State.syncPoison_keeps | apply State.poisonLines_keeps | apply State.readTile_keeps)
      | split)

theorem State.takeBundle_keeps {s₀ s : State} (h : Keeps s₀ s) (e : Nat) : Keeps s₀ (s.takeBundle e) := by
  unfold State.takeBundle
  split
  · dsimp only
    rename_i j _ _
    have h1 : Keeps s₀ ((s.onPlace fun p => { p with pausedJobs := p.pausedJobs.filter (· != j), nextJob := j }).onJob j fun x => { x with st := .running }) :=
      State.onJob_keeps (h.onPlace _) _ _
    generalize ((s.onPlace fun p => { p with pausedJobs := p.pausedJobs.filter (· != j), nextJob := j }).onJob j fun x => { x with st := .running }) = s1 at h1 ⊢
    split
    · exact State.leaveBundle_keeps h1 _ _
    · split
      · exact State.leaveBundle_keeps h1 _ _
      · split
        · exact h1
        · exact State.stageTiles_keeps (State.onJob_keeps h1 _ _) _ _ _ _ _ _ _
  · exact h

theorem State.commitBundle_keeps {s₀ s : State} (h : Keeps s₀ s) (e : Nat) : Keeps s₀ (State.commitBundle s e) := by
  unfold State.commitBundle
  try dsimp only
  repeat' (first
    | (with_reducible first | assumption | apply State.stopJob_keeps | apply State.unplaced_keeps | apply State.advanceJob_keeps | apply State.onJob_keeps | apply State.bump_keeps | apply State.freeEngine_keeps | apply State.writeRun_keeps | apply State.encryptAll_keeps | apply State.alloc?_keeps | apply State.traceTier_keeps | apply State.commit_keeps | apply State.invalidateCourse_keeps | apply State.release_keeps | apply State.leaveBundle_keeps | apply Keeps.onPlace | apply Keeps.fold | apply Keeps.onTile)
    | split | (intro _ _ _; try dsimp only))

theorem State.serveDecoded_keeps {s₀ s : State} (h : Keeps s₀ s) (plain : Nat → Option (List Byte)) (r : Request) : Keeps s₀ (State.serveDecoded s plain r) := by
  unfold State.serveDecoded
  try dsimp only
  repeat' (first
    | (with_reducible first | assumption | apply State.serve_keeps | apply State.answer_keeps | apply State.closeTracker_keeps | apply State.install_keeps | apply State.openFill_keeps | apply State.tagMiss_keeps | apply State.addHeat_keeps)
    | split)

theorem State.serveUnplaced_keeps {s₀ s : State} (h : Keeps s₀ s) (plain : Nat → Option (List Byte)) (r : Request) : Keeps s₀ (State.serveUnplaced s plain r) := by
  unfold State.serveUnplaced
  try dsimp only
  repeat' (first
    | (with_reducible first | assumption | apply State.answer_keeps | apply State.addHeat_keeps | apply State.waitFor_keeps | apply State.serve_keeps)
    | split)

theorem State.allocAll_keeps {s₀ s : State} (h : Keeps s₀ s)  (l : List (Nat × Nat)) : Keeps s₀ (State.allocAll s l).1 := by
  induction l generalizing s with
  | nil =>
    unfold State.allocAll
    try dsimp only
    repeat' first | (with_reducible first | assumption | apply State.alloc?_keeps | apply State.unalloc_keeps) | split
  | cons a l ih =>
    unfold State.allocAll
    try dsimp only
    repeat' first | (with_reducible first | assumption | apply ih | apply State.alloc?_keeps | apply State.unalloc_keeps) | split

theorem State.decodeThatched_keeps {s₀ s : State} (h : Keeps s₀ s) (first : Nat) (b : Batten) (rid : Nat) (source : Nat := 4) : Keeps s₀ (State.decodeThatched s first b rid source).1 := by
  unfold State.decodeThatched
  try dsimp only
  repeat' (first
    | (with_reducible first | assumption | apply State.readRun_keeps | apply State.badSlot_keeps | apply Keeps.fold | apply Keeps.onFlash)
    | split | (intro _ _ _; try dsimp only))

theorem State.loseAtPromotion_keeps {s₀ s : State} (h : Keeps s₀ s) (c cause : Nat) : Keeps s₀ (State.loseAtPromotion s c cause) := by
  unfold State.loseAtPromotion
  try dsimp only
  repeat' (first
    | (with_reducible first | assumption | apply State.raise_keeps | apply State.lostEvent_keeps | apply State.loseCourse_keeps | apply Keeps.onPlace))

theorem State.finishPromotion_keeps {s₀ s : State} (h : Keeps s₀ s) (bundle touched : Nat) (heat : Bool) (waiting : List Request) : Keeps s₀ (State.finishPromotion s bundle touched heat waiting) := by
  unfold State.finishPromotion
  try dsimp only
  repeat' (first
    | (with_reducible first | assumption | apply State.lockBatten_keeps | apply State.serve_keeps | apply State.unplaced_keeps | apply State.decodeThatched_keeps | apply State.serveUnplaced_keeps | apply State.release_keeps | apply State.allocAll_keeps | apply State.traceTier_keeps | apply State.commit_keeps | apply State.writeTiles_keeps | apply State.countEncodes_keeps | apply State.loseAtPromotion_keeps | apply State.serveDecoded_keeps | apply Keeps.fold)
    | split | (intro _ _ _; try dsimp only))

theorem State.commitPromotion_keeps {s₀ s : State} (h : Keeps s₀ s) (e : Nat) : Keeps s₀ (State.commitPromotion s e) := by
  unfold State.commitPromotion
  try dsimp only
  repeat' first | (with_reducible first | assumption | apply State.finishPromotion_keeps | apply State.freeEngine_keeps) | split

theorem State.finishPromotions_keeps {s₀ s : State} (h : Keeps s₀ s) (p : Nat → Bool) : Keeps s₀ (State.finishPromotions s p) := by
  unfold State.finishPromotions
  try dsimp only
  repeat' (first
    | (with_reducible first | assumption | apply State.commitPromotion_keeps | apply State.finishPromotion_keeps | apply Keeps.fold | apply Keeps.onPlace)
    | split | (intro _ _ _; try dsimp only))

theorem State.promoteNow_keeps {s₀ s : State} (h : Keeps s₀ s) (bundle : Nat) (touched : Nat) (heat : Bool) : Keeps s₀ (State.promoteNow s bundle touched heat) := by
  unfold State.promoteNow
  try dsimp only
  repeat' (first
    | (with_reducible first | assumption | apply State.finishPromotion_keeps | apply State.bump_keeps | apply State.cost_keeps | apply State.lockBatten_keeps | apply State.loadBatten_keeps | apply State.finishPromotions_keeps | apply Keeps.onPlace | apply Keeps.onReg | apply Keeps.fold)
    | split | (intro _ _ _; try dsimp only))

theorem State.readCourse_keeps {s₀ s : State} (h : Keeps s₀ s) (course : Nat) (b : Batten) (source : Nat) (l : List Nat) : Keeps s₀ (State.readCourse s course b source l).1 := by
  induction l generalizing s course b source with
  | nil =>
    unfold State.readCourse
    try dsimp only
    repeat' (first
      | (with_reducible first | assumption | apply State.syncPoison_keeps | apply State.poisonLines_keeps | apply State.readTile_keeps)
      | split)
  | cons a l ih =>
    unfold State.readCourse
    try dsimp only
    repeat' (first
      | (with_reducible first | assumption | apply ih | apply State.syncPoison_keeps | apply State.poisonLines_keeps | apply State.readTile_keeps)
      | split)

theorem State.dropRecode_keeps {s₀ s : State} (h : Keeps s₀ s) (course : Nat) : Keeps s₀ (State.dropRecode s course) := by
  unfold State.dropRecode
  try dsimp only
  repeat' first | (with_reducible first | assumption | apply State.unplaced_keeps)

theorem State.commitRecode_keeps {s₀ s : State} (h : Keeps s₀ s) (course : Nat) (old nb : Batten) (oldRuns : List Run) (sub : Nat) : Keeps s₀ (State.commitRecode s course old nb oldRuns sub) := by
  unfold State.commitRecode
  try dsimp only
  repeat' (first
    | (with_reducible first | assumption | apply State.traceTier_keeps | apply State.commit_keeps | apply State.release_keeps | apply Keeps.fold | apply Keeps.onTile)
    | split | (intro _ _ _; try dsimp only))

theorem State.recodeTier_keeps {s₀ s : State} (h : Keeps s₀ s) (course : Nat) (b : Batten) (toRaw : Bool) : Keeps s₀ (State.recodeTier s course b toRaw) := by
  unfold State.recodeTier
  try dsimp only
  repeat' (first
    | (with_reducible first | assumption | apply State.dropRecode_keeps | apply State.readCourse_keeps | apply State.commitRecode_keeps | apply State.writeTiles_keeps | apply State.countEncodes_keeps | apply State.alloc?_keeps | apply State.writePhioz_keeps | apply Keeps.onTile)
    | split)

theorem State.recodeFrom_keeps {s₀ s : State} (h : Keeps s₀ s) (course : Nat) (b : Batten) (strong : Bool) (old : List Run) (tiles : List (List Byte)) (g : Bool × Bool) :
    Keeps s₀ (s.recodeFrom course b strong old tiles g) := by
  unfold State.recodeFrom
  split
  · have h2 := State.writePhioz_keeps h course b.ctx.toNat g.1 strong tiles
    generalize s.writePhioz course b.ctx.toNat g.1 strong tiles = p at h2 ⊢
    obtain ⟨s2, o⟩ := p
    cases o with
    | none => exact State.dropRecode_keeps h _
    | some o => exact State.commitRecode_keeps h2 _ _ _ _ _
  · extract_lets layout
    clear_value layout
    have h2 := State.alloc?_keeps h (layoutLen layout) strong false
    generalize s.alloc? (layoutLen layout) strong false = p at h2 ⊢
    obtain ⟨s2, o⟩ := p
    cases o with
    | none => exact State.dropRecode_keeps h _
    | some o => exact State.commitRecode_keeps (State.writeTiles_keeps h2 _ _ _ _ _ _) _ _ _ _ _

theorem State.recodeCopy_keeps {s₀ s : State} (h : Keeps s₀ s) (course : Nat) (b : Batten) (strong : Bool) : Keeps s₀ (s.recodeCopy course b strong) := by
  unfold State.recodeCopy
  have h2 := State.alloc?_keeps h b.len.toNat strong false
  generalize s.alloc? b.len.toNat strong false = p at h2 ⊢
  obtain ⟨s2, o⟩ := p
  cases o with
  | none => exact State.dropRecode_keeps h _
  | some o =>
    dsimp only
    split
    · exact State.dropRecode_keeps (State.unalloc_keeps h2 _) _
    · have h3 := State.copyTiles_keeps h2 course b 9 allTiles
      generalize s2.copyTiles course b 9 allTiles = p at h3 ⊢
      obtain ⟨s3, tiles⟩ := p
      exact State.commitRecode_keeps (State.writeRun_keeps h3 _ _) _ _ _ _ _

theorem State.recodeCode_keeps {s₀ s : State} (h : Keeps s₀ s) (course : Nat) (b : Batten) : Keeps s₀ (s.recodeCode course b) := by
  unfold State.recodeCode
  extract_lets strong x
  split
  · exact h
  · split
    · exact State.recodeFrom_keeps (State.readCourse_keeps h course b 9 allTiles) _ _ _ _ _ _
    · exact State.recodeCopy_keeps h _ _ _

theorem State.recodeCourse_keeps {s₀ s : State} (h : Keeps s₀ s) (course : Nat) : Keeps s₀ (State.recodeCourse s course) := by
  unfold State.recodeCourse
  try dsimp only
  repeat' (first
    | (with_reducible first | assumption | apply State.recodeTier_keeps | apply State.recodeCode_keeps | apply Keeps.onPlace) | split)

theorem State.dropGather_keeps {s₀ s : State} (h : Keeps s₀ s) (n : Nat) : Keeps s₀ (State.dropGather s n) := by
  unfold State.dropGather
  try dsimp only
  repeat' (first
    | (with_reducible first | assumption | apply State.answerAll_keeps | apply State.readTile_keeps | apply Keeps.onTile) | split)

theorem State.settleBlock_keeps {s₀ s : State} (h : Keeps s₀ s) (block : Nat) : Keeps s₀ (State.settleBlock s block) := by
  unfold State.settleBlock
  try dsimp only
  repeat' (first
    | (with_reducible first | assumption | apply State.closeBlock_keeps | apply State.finishPromotions_keeps | apply State.serve_keeps | apply State.dropGather_keeps | apply Keeps.fold | apply Keeps.onReg)
    | split | (intro _ _ _; try dsimp only))

theorem State.clearBlock_keeps {s₀ s : State} (h : Keeps s₀ s) (block : Nat) (bound : Bool) : Keeps s₀ (State.clearBlock s block bound) := by
  unfold State.clearBlock
  try dsimp only
  repeat' first | (with_reducible first | assumption | apply State.makeAbsent_keeps | apply State.settleBlock_keeps)

theorem State.sanitizeLd_keeps {s₀ s : State} (h : Keeps s₀ s) (l : LdId) : Keeps s₀ (State.sanitizeLd s l) := by
  unfold State.sanitizeLd
  try dsimp only
  repeat' first | (with_reducible first | assumption | apply State.clearBlock_keeps | apply Keeps.fold) | (intro _ _ _; try dsimp only)

theorem State.startFill_keeps {s₀ s : State} (h : Keeps s₀ s) (b : Nat) : Keeps s₀ (State.startFill s b) := by
  unfold State.startFill
  try dsimp only
  repeat' (first
    | (with_reducible first | assumption | apply State.unplaced_keeps | apply State.onDir_keeps | apply State.allocTable_keeps | apply Keeps.onXlat)
    | split)

theorem State.offerBlock_keeps {s₀ s : State} (h : Keeps s₀ s) (b : Nat) (l : LdId) (ext region : Nat) : Keeps s₀ (State.offerBlock s b l ext region) := by
  unfold State.offerBlock
  try dsimp only
  repeat' first | (with_reducible first | assumption | apply State.startFill_keeps | apply Keeps.onCap) | split

theorem State.offerMore_keeps {s₀ s : State} (h : Keeps s₀ s)  (l : Nat) : Keeps s₀ (State.offerMore s l) := by
  induction l generalizing s with
  | zero =>
    unfold State.offerMore
    try dsimp only
    repeat' first | (with_reducible first | assumption | apply State.offerBlock_keeps) | split
  | succ n ih =>
    unfold State.offerMore
    try dsimp only
    repeat' first | (with_reducible first | assumption | apply ih | apply State.offerBlock_keeps) | split

theorem State.announceOffers_keeps {s₀ s : State} (h : Keeps s₀ s) : Keeps s₀ (State.announceOffers s) := by
  unfold State.announceOffers
  try dsimp only
  repeat' (first
    | (with_reducible first | assumption | apply State.logTo_keeps | apply State.raise_keeps | apply Keeps.fold | apply Keeps.onCap)
    | split | (intro _ _ _; try dsimp only))

theorem State.offerCapacity_keeps {s₀ s : State} (h : Keeps s₀ s) : Keeps s₀ (State.offerCapacity s) := by
  unfold State.offerCapacity
  try dsimp only
  repeat' first | (with_reducible first | assumption | apply State.announceOffers_keeps | apply State.offerMore_keeps | apply Keeps.onCap)

theorem State.bindBlock_keeps {s₀ s : State} (h : Keeps s₀ s) (b : Nat) (l : LdId) (ext : Nat) : Keeps s₀ (State.bindBlock s b l ext) := by
  unfold State.bindBlock
  try dsimp only
  repeat' first | (with_reducible first | assumption | apply State.onDir_keeps) | split

theorem State.milestone_keeps {s₀ s : State} (h : Keeps s₀ s) (n : Nat) : Keeps s₀ (State.milestone s n) := by
  unfold State.milestone
  try dsimp only
  repeat' first | (with_reducible first | assumption | apply State.raiseAll_keeps)

theorem State.bindStatic_keeps {s₀ s : State} (h : Keeps s₀ s) : Keeps s₀ (State.bindStatic s) := by
  unfold State.bindStatic
  try dsimp only
  repeat' (first
    | (with_reducible first | assumption | apply State.milestone_keeps | apply State.setReady_keeps | apply State.bindBlock_keeps | apply Keeps.onBoot | apply Keeps.fold | apply Keeps.onCap)
    | split | (intro _ _ _; try dsimp only))

theorem State.fillDone_keeps {s₀ s : State} (h : Keeps s₀ s) (b : Nat) : Keeps s₀ (State.fillDone s b) := by
  unfold State.fillDone
  try dsimp only
  repeat' (first
    | (with_reducible first | assumption | apply State.announceOffers_keeps | apply State.bindStatic_keeps | apply State.onDir_keeps | apply Keeps.onXlat)
    | split)

theorem State.retryFills_keeps {s₀ s : State} (h : Keeps s₀ s) : Keeps s₀ (State.retryFills s) := by
  unfold State.retryFills
  try dsimp only
  repeat' (first
    | (with_reducible first | assumption | apply State.startFill_keeps | apply Keeps.fold) | split | (intro _ _ _; try dsimp only))

theorem State.stopJobsOf_keeps {s₀ s : State} (h : Keeps s₀ s) (l : LdId) (reason : Nat) : Keeps s₀ (State.stopJobsOf s l reason).1 := by
  unfold State.stopJobsOf
  try dsimp only
  repeat' first | (with_reducible first | assumption | apply State.stopJob_keeps | apply Keeps.fold) | split | (intro _ _ _; try dsimp only)

theorem State.discardQueued_keeps {s₀ s : State} (h : Keeps s₀ s) (l : LdId) : Keeps s₀ (State.discardQueued s l).1 := by
  unfold State.discardQueued
  try dsimp only
  repeat' (first
    | (with_reducible first | assumption | apply State.onQueue_keeps | apply State.freeStore_keeps | apply Keeps.fold) | split
    | (intro _ _ _; try dsimp only))

theorem State.stopWalksOf_keeps {s₀ s : State} (h : Keeps s₀ s) (l : LdId) : Keeps s₀ (State.stopWalksOf s l) := by
  unfold State.stopWalksOf
  try dsimp only
  repeat' (first
    | (with_reducible first | assumption | apply State.askAbort_keeps | apply Keeps.fold) | split | (intro _ _ _; try dsimp only))

theorem State.disableLd_keeps {s₀ s : State} (h : Keeps s₀ s) (l : LdId) (memClear : Bool) : Keeps s₀ (State.disableLd s l memClear) := by
  unfold State.disableLd
  try dsimp only
  repeat' (first
    | (with_reducible first | assumption | apply State.onLd_keeps | apply State.stopJobsOf_keeps | apply State.stopWalksOf_keeps | apply State.closeGathers_keeps | apply State.discardQueued_keeps | apply State.sanitizeLd_keeps | apply Keeps.onReg)
    | split)

end Sys2Proof.Machine
end

