-- ==== Sys2Proof/Laws/KeepsHost.lean ====
section
/-! SUPPORT. What every command keeps: the host links and mailboxes, re-encryption, translation, tiles, placement and flashing. -/

namespace Sys2Proof.Machine

set_option Elab.async false
set_option linter.all false

theorem done_keeps (s : State) : ∃ t, done s = .next t ∧ Keeps s t := by
  have h := Keeps.refl s
  unfold done
  try dsimp only
  repeat' first | refine ⟨_, rfl, ?_⟩ | with_reducible assumption

theorem State.afterExit_keeps {s₀ s : State} (h : Keeps s₀ s) (i : Instr) {f : State → State} (hf : Keeps s₀ (f s)) : Keeps s₀ (s.afterExit i f) := by
  unfold State.afterExit
  split
  · exact h.onEaves (fun _ => rfl) (fun _ => rfl)
  · exact hf

theorem State.linkBit_keeps {s₀ s : State} (h : Keeps s₀ s) (p : HostPort) (v : Bool) : Keeps s₀ (State.linkBit s p v) := by
  unfold State.linkBit
  try dsimp only
  repeat' first | (with_reducible first | assumption | apply State.setReady_keeps) | split

theorem State.dropLink_keeps {s₀ s : State} (h : Keeps s₀ s) (p : HostPort) : Keeps s₀ (State.dropLink s p) := by
  unfold State.dropLink
  try dsimp only
  repeat' first | (with_reducible first | assumption | apply State.linkBit_keeps | apply State.onPort_keeps)

theorem State.stopIde_keeps {s₀ s : State} (h : Keeps s₀ s) (p : HostPort) : Keeps s₀ (State.stopIde s p) := by
  unfold State.stopIde
  try dsimp only
  repeat' first | (with_reducible first | assumption | apply Keeps.onFlash) | split

theorem execMemrd_keeps (r : MemReq) (s : State) : ∃ t, execMemrd r s = .next t ∧ Keeps s t := by
  have h := Keeps.refl s
  unfold execMemrd
  try dsimp only
  repeat' first | refine ⟨_, rfl, ?_⟩ | (with_reducible first | assumption | apply State.afterExit_keeps | apply State.accept_keeps)

theorem execMemrddata_keeps (r : MemReq) (s : State) : ∃ t, execMemrddata r s = .next t ∧ Keeps s t := by
  have h := Keeps.refl s
  unfold execMemrddata
  try dsimp only
  repeat' first | refine ⟨_, rfl, ?_⟩ | (with_reducible first | assumption | apply State.afterExit_keeps | apply State.accept_keeps)

theorem execMemwr_keeps (r : MemReq) (data : List Byte) (s : State) : ∃ t, execMemwr r data s = .next t ∧ Keeps s t := by
  have h := Keeps.refl s
  unfold execMemwr
  try dsimp only
  repeat' first | refine ⟨_, rfl, ?_⟩ | (with_reducible first | assumption | apply State.afterExit_keeps | apply State.accept_keeps)

theorem execMemwrptl_keeps (r : MemReq) (data : List Byte) (enables : BitVec 64) (s : State) : ∃ t, execMemwrptl r data enables s = .next t ∧ Keeps s t := by
  have h := Keeps.refl s
  unfold execMemwrptl
  try dsimp only
  repeat' first | refine ⟨_, rfl, ?_⟩ | (with_reducible first | assumption | apply State.afterExit_keeps | apply State.accept_keeps) | split

theorem execMemspecrd_keeps (_r : MemReq) (s : State) : ∃ t, execMemspecrd _r s = .next t ∧ Keeps s t := by
  have h := Keeps.refl s
  unfold execMemspecrd
  try dsimp only
  repeat' first | refine ⟨_, rfl, ?_⟩ | with_reducible assumption

theorem execUnsupportedM2sOpcode_keeps (port : HostPort) (_opcode : BitVec 4) (s : State) : ∃ t, execUnsupportedM2sOpcode port _opcode s = .next t ∧ Keeps s t := by
  have h := Keeps.refl s
  unfold execUnsupportedM2sOpcode
  try dsimp only
  repeat' first | refine ⟨_, rfl, ?_⟩ | (with_reducible first | assumption | apply Keeps.emit | apply Keeps.onHost) | split

theorem execRequestIssue_keeps (s : State) : ∃ t, execRequestIssue s = .next t ∧ Keeps s t := by
  have h := Keeps.refl s
  unfold execRequestIssue
  try dsimp only
  repeat' first | refine ⟨_, rfl, ?_⟩ | (with_reducible first | assumption | apply State.issue_keeps)

theorem execPerstAssert_keeps (port : HostPort) (s : State) : ∃ t, execPerstAssert port s = .next t ∧ Keeps s t := by
  have h := Keeps.refl s
  unfold execPerstAssert
  try dsimp only
  repeat' (first
    | refine ⟨_, rfl, ?_⟩
    | (with_reducible first | assumption | apply State.dropLink_keeps | apply State.onPort_keeps | apply State.stopIde_keeps | apply State.wakeWatch_keeps | apply State.disableLd_keeps | apply Keeps.fold | apply Keeps.onConn)
    | split | (intro _ _ _; try dsimp only))

theorem State.sampleX16_keeps {s₀ s : State} (h : Keeps s₀ s) : Keeps s₀ (State.sampleX16 s) := by
  unfold State.sampleX16
  try dsimp only
  repeat' first | (with_reducible first | assumption | apply State.dropLink_keeps | apply Keeps.onHost | apply Keeps.onConn) | split

theorem execPerstRelease_keeps (port : HostPort) (refclk : Bool) (s : State) : ∃ t, execPerstRelease port refclk s = .next t ∧ Keeps s t := by
  have h := Keeps.refl s
  unfold execPerstRelease
  try dsimp only
  repeat' (first
    | refine ⟨_, rfl, ?_⟩
    | (with_reducible first | assumption | apply State.onPort_keeps | apply State.wakeWatch_keeps | apply State.sampleX16_keeps | apply Keeps.onConn)
    | split)

theorem execHostLinkUp_keeps (port : HostPort) (rate : LinkRate) (s : State) : ∃ t, execHostLinkUp port rate s = .next t ∧ Keeps s t := by
  have h := Keeps.refl s
  unfold execHostLinkUp
  try dsimp only
  repeat' first | refine ⟨_, rfl, ?_⟩ | (with_reducible first | assumption | apply State.linkBit_keeps | apply State.onPort_keeps) | split

theorem execLinkL1Entry_keeps (port : HostPort) (s : State) : ∃ t, execLinkL1Entry port s = .next t ∧ Keeps s t := by
  have h := Keeps.refl s
  unfold execLinkL1Entry
  try dsimp only
  repeat' first | refine ⟨_, rfl, ?_⟩ | (with_reducible first | assumption | apply State.onPort_keeps) | split

theorem execLinkL2Entry_keeps (port : HostPort) (s : State) : ∃ t, execLinkL2Entry port s = .next t ∧ Keeps s t := by
  have h := Keeps.refl s
  unfold execLinkL2Entry
  try dsimp only
  repeat' first | refine ⟨_, rfl, ?_⟩ | (with_reducible first | assumption | apply State.onPort_keeps | apply State.stopIde_keeps) | split

theorem execLinkElectricalIdleExit_keeps (port : HostPort) (s : State) : ∃ t, execLinkElectricalIdleExit port s = .next t ∧ Keeps s t := by
  have h := Keeps.refl s
  unfold execLinkElectricalIdleExit
  try dsimp only
  repeat' first | refine ⟨_, rfl, ?_⟩ | (with_reducible first | assumption | apply State.wakeWatch_keeps) | split

theorem execHostLinkDown_keeps (port : HostPort) (s : State) : ∃ t, execHostLinkDown port s = .next t ∧ Keeps s t := by
  have h := Keeps.refl s
  unfold execHostLinkDown
  try dsimp only
  repeat' first | refine ⟨_, rfl, ?_⟩ | (with_reducible first | assumption | apply State.dropLink_keeps)

theorem execLinkL1Exit_keeps (port : HostPort) (s : State) : ∃ t, execLinkL1Exit port s = .next t ∧ Keeps s t := by
  have h := Keeps.refl s
  unfold execLinkL1Exit
  try dsimp only
  repeat' first | refine ⟨_, rfl, ?_⟩ | (with_reducible first | assumption | apply State.onPort_keeps)

theorem execBlockFillComplete_keeps (block : BitVec 14) (s : State) : ∃ t, execBlockFillComplete block s = .next t ∧ Keeps s t := by
  have h := Keeps.refl s
  unfold execBlockFillComplete
  try dsimp only
  repeat' first | refine ⟨_, rfl, ?_⟩ | (with_reducible first | assumption | apply State.fillDone_keeps)

theorem State.dcCommand_keeps {s₀ s : State} (h : Keeps s₀ s) (i : Instr) (l : LdId) (op : Nat) {f : State → State × ReturnCode} (hf : ∀ s, Keeps s₀ s → Keeps s₀ (f s).1) : Keeps s₀ (s.dcCommand i l op f) :=
  State.command_keeps h _ _ _ hf

theorem State.acceptOffers_keeps {s₀ s : State} (h : Keeps s₀ s) (l : LdId) (exts : List Nat) : Keeps s₀ (State.acceptOffers s l exts).1 := by
  unfold State.acceptOffers
  try dsimp only
  repeat' (first
    | (with_reducible first | assumption | apply State.bindBlock_keeps | apply Keeps.onCasc | apply Keeps.fold | apply Keeps.onCap)
    | split | (intro _ _ _; try dsimp only))

theorem execAddDcResponse_keeps (ld : LdId) (accepted : List Extent) (s : State) : ∃ t, execAddDcResponse ld accepted s = .next t ∧ Keeps s t := by
  have h := Keeps.refl s
  unfold execAddDcResponse
  try dsimp only
  repeat' (first
    | refine ⟨_, rfl, ?_⟩ | (with_reducible first | assumption | apply State.dcCommand_keeps | apply State.acceptOffers_keeps) | split
    | (intro _ _; try dsimp only))

theorem State.metRelease_keeps {s₀ s : State} (h : Keeps s₀ s) (l : LdId) (ext : Nat) : Keeps s₀ (State.metRelease s l ext) := by
  unfold State.metRelease
  try dsimp only
  repeat' first | (with_reducible first | assumption | apply Keeps.onCap)

theorem State.releaseBlock_keeps {s₀ s : State} (h : Keeps s₀ s) (b : Nat) : Keeps s₀ (State.releaseBlock s b) := by
  unfold State.releaseBlock
  try dsimp only
  repeat' first | (with_reducible first | assumption | apply State.onDir_keeps | apply State.clearBlock_keeps) | split

theorem State.releaseExts_keeps {s₀ s : State} (h : Keeps s₀ s) (l : LdId) (exts : List Nat) : Keeps s₀ (State.releaseExts s l exts).1 := by
  unfold State.releaseExts
  try dsimp only
  repeat' (first
    | (with_reducible first | assumption | apply State.metRelease_keeps | apply State.releaseBlock_keeps | apply Keeps.onCasc | apply Keeps.fold)
    | split | (intro _ _ _; try dsimp only))

theorem execReleaseDcCapacity_keeps (ld : LdId) (released : List Extent) (s : State) : ∃ t, execReleaseDcCapacity ld released s = .next t ∧ Keeps s t := by
  have h := Keeps.refl s
  unfold execReleaseDcCapacity
  try dsimp only
  repeat' (first
    | refine ⟨_, rfl, ?_⟩ | (with_reducible first | assumption | apply State.dcCommand_keeps | apply State.releaseExts_keeps) | split
    | (intro _ _; try dsimp only))

theorem execFmInitiateDcAdd_keeps (ld : LdId) (region : BitVec 3) (extent : Extent) (s : State) : ∃ t, execFmInitiateDcAdd ld region extent s = .next t ∧ Keeps s t := by
  have h := Keeps.refl s
  unfold execFmInitiateDcAdd
  try dsimp only
  repeat' (first
    | refine ⟨_, rfl, ?_⟩
    | (with_reducible first | assumption | apply State.command_keeps | apply refuse_keeps | apply State.announceOffers_keeps | apply State.offerBlock_keeps | apply Keeps.fold)
    | split | (intro _ _ _; try dsimp only) | (intro _ _; try dsimp only))

theorem execFmInitiateDcRelease_keeps (ld : LdId) (extent : Extent) (s : State) : ∃ t, execFmInitiateDcRelease ld extent s = .next t ∧ Keeps s t := by
  have h := Keeps.refl s
  unfold execFmInitiateDcRelease
  try dsimp only
  repeat' (first
    | refine ⟨_, rfl, ?_⟩
    | (with_reducible first | assumption | apply State.command_keeps | apply refuse_keeps | apply State.raise_keeps | apply State.logTo_keeps)
    | split | (intro _ _; try dsimp only))

theorem execReleaseWaitExpiry_keeps (s : State) : ∃ t, execReleaseWaitExpiry s = .next t ∧ Keeps s t := by
  have h := Keeps.refl s
  unfold execReleaseWaitExpiry
  try dsimp only
  repeat' (first
    | refine ⟨_, rfl, ?_⟩ | (with_reducible first | assumption | apply State.raise_keeps | apply State.stageUp_keeps | apply Keeps.onCap)
    | split)

theorem execWriteThrottleStep_keeps (s : State) : ∃ t, execWriteThrottleStep s = .next t ∧ Keeps s t := by
  have h := Keeps.refl s
  unfold execWriteThrottleStep
  try dsimp only
  repeat' first | refine ⟨_, rfl, ?_⟩ | (with_reducible first | assumption | apply State.setThrottle_keeps | apply Keeps.onPlace) | split

theorem State.sanitizeCommand_keeps {s₀ s : State} (h : Keeps s₀ s) (p : Path) (op : Nat) : Keeps s₀ (State.sanitizeCommand s p op).1 := by
  unfold State.sanitizeCommand
  try dsimp only
  repeat' first | (with_reducible first | assumption | apply State.finishBackground_keeps | apply State.sanitizeLd_keeps) | split

theorem execSanitize_keeps (p : Path) (s : State) : ∃ t, execSanitize p s = .next t ∧ Keeps s t := by
  have h := Keeps.refl s
  unfold execSanitize
  try dsimp only
  repeat' (first
    | refine ⟨_, rfl, ?_⟩ | (with_reducible first | assumption | apply State.background_keeps | apply State.sanitizeCommand_keeps)
    | (intro _ _; try dsimp only))

theorem execSecureErase_keeps (p : Path) (s : State) : ∃ t, execSecureErase p s = .next t ∧ Keeps s t := by
  have h := Keeps.refl s
  unfold execSecureErase
  try dsimp only
  repeat' (first
    | refine ⟨_, rfl, ?_⟩ | (with_reducible first | assumption | apply State.background_keeps | apply State.sanitizeCommand_keeps)
    | (intro _ _; try dsimp only))

theorem execLdReset_keeps (ld : LdId) (s : State) : ∃ t, execLdReset ld s = .next t ∧ Keeps s t := by
  have h := Keeps.refl s
  unfold execLdReset
  try dsimp only
  repeat' first | refine ⟨_, rfl, ?_⟩ | (with_reducible first | assumption | apply State.disableLd_keeps) | split

theorem execCxlReset_keeps (ld : LdId) (memClear : Bool) (s : State) : ∃ t, execCxlReset ld memClear s = .next t ∧ Keeps s t := by
  have h := Keeps.refl s
  unfold execCxlReset
  try dsimp only
  repeat' first | refine ⟨_, rfl, ?_⟩ | (with_reducible first | assumption | apply State.disableLd_keeps) | split

theorem execFmUnbindLd_keeps (ld : LdId) (s : State) : ∃ t, execFmUnbindLd ld s = .next t ∧ Keeps s t := by
  have h := Keeps.refl s
  unfold execFmUnbindLd
  try dsimp only
  repeat' first | refine ⟨_, rfl, ?_⟩ | (with_reducible first | assumption | apply State.disableLd_keeps) | split

theorem execLdDrainComplete_keeps (ld : LdId) (s : State) : ∃ t, execLdDrainComplete ld s = .next t ∧ Keeps s t := by
  have h := Keeps.refl s
  unfold execLdDrainComplete
  try dsimp only
  repeat' first | refine ⟨_, rfl, ?_⟩ | (with_reducible first | assumption | apply State.raise_keeps | apply State.onLd_keeps) | split

theorem execInjectPoison_keeps (p : Path) (dpa : BitVec 64) (s : State) : ∃ t, execInjectPoison p dpa s = .next t ∧ Keeps s t := by
  have h := Keeps.refl s
  unfold execInjectPoison
  try dsimp only
  repeat' (first
    | refine ⟨_, rfl, ?_⟩
    | (with_reducible first | assumption | apply State.command_keeps | apply refuse_keeps | apply State.syncPoison_keeps | apply State.invalidateLine_keeps | apply State.enlist_keeps | apply State.loadBatten_keeps)
    | split | (intro _ _; try dsimp only))

theorem execClearPoison_keeps (p : Path) (dpa : BitVec 64) (data : List Byte) (s : State) : ∃ t, execClearPoison p dpa data s = .next t ∧ Keeps s t := by
  have h := Keeps.refl s
  unfold execClearPoison
  try dsimp only
  repeat' (first
    | refine ⟨_, rfl, ?_⟩
    | (with_reducible first | assumption | apply State.command_keeps | apply refuse_keeps | apply State.closeGathers_keeps | apply State.serve_keeps | apply State.loadBatten_keeps | apply State.promoteNow_keeps | apply Keeps.onReg)
    | split | (intro _ _; try dsimp only))

theorem execGetPoisonList_keeps (p : Path) (dpa : BitVec 64) (length : BitVec 64) (s : State) : ∃ t, execGetPoisonList p dpa length s = .next t ∧ Keeps s t := by
  have h := Keeps.refl s
  unfold execGetPoisonList
  try dsimp only
  repeat' (first
    | refine ⟨_, rfl, ?_⟩ | (with_reducible first | assumption | apply State.command_keeps) | split | (intro _ _; try dsimp only))

theorem execGetCapacityStatus_keeps (p : Path) (s : State) : ∃ t, execGetCapacityStatus p s = .next t ∧ Keeps s t := by
  have h := Keeps.refl s
  unfold execGetCapacityStatus
  try dsimp only
  repeat' (first
    | refine ⟨_, rfl, ?_⟩ | (with_reducible first | assumption | apply State.command_keeps) | split | (intro _ _; try dsimp only))

theorem execSetOvercommitRatio_keeps (p : Path) (ratio : BitVec 16) (s : State) : ∃ t, execSetOvercommitRatio p ratio s = .next t ∧ Keeps s t := by
  have h := Keeps.refl s
  unfold execSetOvercommitRatio
  try dsimp only
  repeat' (first
    | refine ⟨_, rfl, ?_⟩
    | (with_reducible first | assumption | apply State.privileged_keeps | apply State.offerCapacity_keeps | apply State.requestRelease_keeps | apply refuse_keeps | apply Keeps.onCap)
    | split | (intro _ _; try dsimp only))

theorem execSetDefaultContext_keeps (p : Path) (rid : BitVec 12) (ctx : BitVec 13) (s : State) : ∃ t, execSetDefaultContext p rid ctx s = .next t ∧ Keeps s t := by
  have h := Keeps.refl s
  unfold execSetDefaultContext
  try dsimp only
  repeat' (first
    | refine ⟨_, rfl, ?_⟩ | (with_reducible first | assumption | apply State.command_keeps | apply refuse_keeps | apply Keeps.onHost)
    | split | (intro _ _; try dsimp only))

theorem execGetDefaultContext_keeps (p : Path) (rid : BitVec 12) (s : State) : ∃ t, execGetDefaultContext p rid s = .next t ∧ Keeps s t := by
  have h := Keeps.refl s
  unfold execGetDefaultContext
  try dsimp only
  repeat' (first
    | refine ⟨_, rfl, ?_⟩ | (with_reducible first | assumption | apply State.command_keeps | apply refuse_keeps) | split
    | (intro _ _; try dsimp only))

theorem execSetReleaseWait_keeps (p : Path) (ms : BitVec 32) (s : State) : ∃ t, execSetReleaseWait p ms s = .next t ∧ Keeps s t := by
  have h := Keeps.refl s
  unfold execSetReleaseWait
  try dsimp only
  repeat' (first
    | refine ⟨_, rfl, ?_⟩ | (with_reducible first | assumption | apply State.privileged_keeps | apply refuse_keeps | apply Keeps.onCap)
    | split | (intro _ _; try dsimp only))

theorem execSetGrowthDevice_keeps (p : Path) (ld : LdId) (s : State) : ∃ t, execSetGrowthDevice p ld s = .next t ∧ Keeps s t := by
  have h := Keeps.refl s
  unfold execSetGrowthDevice
  try dsimp only
  repeat' (first
    | refine ⟨_, rfl, ?_⟩ | (with_reducible first | assumption | apply State.privileged_keeps | apply refuse_keeps | apply Keeps.onCap)
    | split | (intro _ _; try dsimp only))

theorem State.endRekey_keeps {s₀ s : State} (h : Keeps s₀ s) (r : RekeyPass) : Keeps s₀ (State.endRekey s r) := by
  unfold State.endRekey
  try dsimp only
  repeat' (first
    | (with_reducible first | assumption | apply State.nextPass_keeps | apply State.raise_keeps | apply State.onCtx_keeps | apply State.startRekeyOf_keeps | apply Keeps.onFlash)
    | split)

theorem State.rekeyBundle_keeps {s₀ s t : State} {c : Nat} {b : Batten} {gen : Bool} (e : s.rekeyBundle c b gen = some t) (h : Keeps s₀ s) : Keeps s₀ t := by
  unfold State.rekeyBundle at e
  have h1 := State.alloc?_keeps h b.len.toNat true true
  generalize s.alloc? b.len.toNat true true = p at h1 e
  obtain ⟨s1, o⟩ := p
  cases o with
  | none => cases e
  | some r =>
    have h2 := State.readRun_keeps h1 b.run 10 0xFFFF
    dsimp only at e
    generalize s1.readRun b.run 10 0xFFFF = p at h2 e
    obtain ⟨s2, cs⟩ := p
    dsimp only at h2 e
    split at e
    · rw [← Option.some.inj e]; exact State.promoteNow_keeps (State.unalloc_keeps h2 _) _ _ _
    · rw [← Option.some.inj e]
      apply State.release_keeps
      apply Keeps.fold
      · exact State.writeRun_keeps (State.encryptAll_keeps (h2.onFlash _) _ _ _ _ _) _ _
      · intro s a h; exact State.commit_keeps h _ _

theorem State.stepPass_keeps {s₀ s : State} (h : Keeps s₀ s) (r : RekeyPass) (c : Nat) (done skipped : Nat) : Keeps s₀ (State.stepPass s r c done skipped) := by
  unfold State.stepPass
  try dsimp only
  repeat' first | (with_reducible first | assumption | apply Keeps.onFlash)

theorem State.holdPass_keeps {s₀ s : State} (h : Keeps s₀ s) (r : RekeyPass) (c : Nat) : Keeps s₀ (State.holdPass s r c) := by
  unfold State.holdPass
  try dsimp only
  repeat' first | (with_reducible first | assumption | apply State.unplaced_keeps | apply Keeps.onFlash)

theorem State.rekeyCourse_keeps {s₀ s : State} (h : Keeps s₀ s) (r : RekeyPass) (c : Nat) (cs : List Nat) (cur : Bool) : Keeps s₀ (s.rekeyCourse r c cs cur) := by
  unfold State.rekeyCourse
  extract_lets b
  clear_value b
  split
  · split
    · exact State.holdPass_keeps h _ _
    · rename_i e
      have h3 := State.rekeyBundle_keeps e h
      split
      · exact State.stepPass_keeps h3 _ _ _ _
      · exact h3
  · have h3 := State.reencrypt_keeps h c b cur false
    generalize s.reencrypt c b cur false = p at h3 ⊢
    obtain ⟨t, o⟩ := p
    cases o with
    | none => exact State.holdPass_keeps h _ _
    | some o => exact State.stepPass_keeps h3 _ _ _ _

theorem State.rekeyStep_keeps {s₀ s : State} (h : Keeps s₀ s) : Keeps s₀ (State.rekeyStep s) := by
  unfold State.rekeyStep
  try dsimp only
  repeat' (first
    | (with_reducible first | assumption | apply State.endRekey_keeps | apply State.rekeyCourse_keeps | apply State.readTableSlot_keeps | apply State.abandonMove_keeps | apply State.stepPass_keeps | apply State.commit_keeps | apply Keeps.fold)
    | split | (intro _ _ _; try dsimp only))

theorem State.flagMove_keeps {s₀ s : State} (h : Keeps s₀ s) (cs : List Nat) (v : Bool) : Keeps s₀ (State.flagMove s cs v) := by
  unfold State.flagMove
  try dsimp only
  repeat' first | (with_reducible first | assumption | apply State.commit_keeps | apply Keeps.fold) | (intro _ _ _; try dsimp only)

theorem State.startMove_keeps {s₀ s : State} (h : Keeps s₀ s) (c : Nat) : Keeps s₀ (State.startMove s c) := by
  unfold State.startMove
  try dsimp only
  repeat' (first
    | (with_reducible first | assumption | apply State.loadBatten_keeps | apply State.unplaced_keeps | apply State.flagMove_keeps | apply State.alloc?_keeps | apply Keeps.onXlat)
    | split)

theorem State.moveOverflow_keeps {s₀ s : State} (h : Keeps s₀ s) (c : Nat) (b : Batten) : Keeps s₀ (State.moveOverflow s c b) := by
  unfold State.moveOverflow
  try dsimp only
  repeat' (first
    | (with_reducible first | assumption | apply State.unplaced_keeps | apply State.readPhioz_keeps | apply State.release_keeps | apply State.storeInPlace_keeps | apply State.writeRun_keeps | apply State.readSlots_keeps | apply State.alloc?_keeps | apply State.syncPoison_keeps | apply State.poisonLines_keeps | apply Keeps.fold)
    | split | (intro _ _ _; try dsimp only))

theorem State.settleRetirements_keeps {s₀ s : State} (h : Keeps s₀ s) : Keeps s₀ (State.settleRetirements s) := by
  unfold State.settleRetirements
  try dsimp only
  repeat' (first
    | (with_reducible first | assumption | apply State.finishBackground_keeps | apply Keeps.fold | apply Keeps.onSpare) | split
    | (intro _ _ _; try dsimp only))

theorem State.countMoved_keeps {s₀ s : State} (h : Keeps s₀ s) (r : Run) : Keeps s₀ (State.countMoved s r) := by
  unfold State.countMoved
  try dsimp only
  repeat' first | (with_reducible first | assumption | apply Keeps.onSpare) | split

theorem State.endMove_keeps {s₀ s : State} (h : Keeps s₀ s) (c : Nat) : Keeps s₀ (State.endMove s c) := by
  unfold State.endMove
  try dsimp only
  repeat' (first
    | (with_reducible first | assumption | apply State.retryGathers_keeps | apply State.retry_keeps | apply State.settleRetirements_keeps | apply State.release_keeps | apply State.countMoved_keeps | apply State.writeRun_keeps | apply State.copyTiles_keeps | apply State.commit_keeps | apply State.moveOverflow_keeps | apply State.promoteNow_keeps | apply State.unalloc_keeps | apply State.flagMove_keeps | apply State.readRun_keeps | apply Keeps.onSpare | apply Keeps.onXlat | apply Keeps.fold)
    | split | (intro _ _ _; try dsimp only))

theorem execRunMoveStart_keeps (course : BitVec 30) (s : State) : ∃ t, execRunMoveStart course s = .next t ∧ Keeps s t := by
  have h := Keeps.refl s
  unfold execRunMoveStart
  try dsimp only
  repeat' first | refine ⟨_, rfl, ?_⟩ | (with_reducible first | assumption | apply State.startMove_keeps) | split

theorem execRunMoveCommit_keeps (course : BitVec 30) (s : State) : ∃ t, execRunMoveCommit course s = .next t ∧ Keeps s t := by
  have h := Keeps.refl s
  unfold execRunMoveCommit
  try dsimp only
  repeat' first | refine ⟨_, rfl, ?_⟩ | (with_reducible first | assumption | apply State.endMove_keeps)

theorem State.beginRebuild_keeps {s₀ s : State} (h : Keeps s₀ s) : Keeps s₀ (State.beginRebuild s) := by
  unfold State.beginRebuild
  try dsimp only
  repeat' (first
    | (with_reducible first | assumption | apply State.unplaced_keeps | apply State.onDir_keeps | apply State.allocTable_keeps | apply Keeps.onXlat)
    | split)

theorem State.wantCompaction_keeps {s₀ s : State} (h : Keeps s₀ s) : Keeps s₀ (State.wantCompaction s) := by
  unfold State.wantCompaction
  try dsimp only
  repeat' (first
    | (with_reducible first | assumption | apply State.wantRebuild_keeps | apply Keeps.fold) | split | (intro _ _ _; try dsimp only))

theorem State.clearStale_keeps {s₀ s : State} (h : Keeps s₀ s) (c source : Nat) : Keeps s₀ (State.clearStale s c source).1 := by
  unfold State.clearStale
  try dsimp only
  repeat' first | (with_reducible first | assumption | apply State.freeCourse_keeps | apply State.readTableSlot_keeps) | split

theorem State.endRebuild_keeps {s₀ s : State} (h : Keeps s₀ s) (r : Rebuild) : Keeps s₀ (State.endRebuild s r) := by
  unfold State.endRebuild
  try dsimp only
  repeat' (first
    | (with_reducible first | assumption | apply State.settleRetirements_keeps | apply State.finishBackground_keeps | apply State.raise_keeps | apply State.freeTable_keeps | apply State.onDir_keeps | apply Keeps.onXlat))

theorem State.rebuildStep_keeps {s₀ s : State} (h : Keeps s₀ s) : Keeps s₀ (State.rebuildStep s) := by
  unfold State.rebuildStep
  try dsimp only
  repeat' (first
    | (with_reducible first | assumption | apply State.progress_keeps | apply State.clearStale_keeps | apply State.endRebuild_keeps | apply Keeps.onXlat)
    | split)

theorem execTableRebuildStep_keeps (s : State) : ∃ t, execTableRebuildStep s = .next t ∧ Keeps s t := by
  have h := Keeps.refl s
  unfold execTableRebuildStep
  try dsimp only
  repeat' (first
    | refine ⟨_, rfl, ?_⟩
    | (with_reducible first | assumption | apply State.rebuildStep_keeps | apply State.beginRebuild_keeps | apply State.wantCompaction_keeps)
    | split)

theorem State.discardCourse_keeps {s₀ s : State} (h : Keeps s₀ s) (c : Nat) : Keeps s₀ (State.discardCourse s c).1 := by
  unfold State.discardCourse
  try dsimp only
  repeat' (first
    | (with_reducible first | assumption | apply State.commit_keeps | apply State.freeCourse_keeps | apply State.ownCount_keeps | apply State.unlist_keeps | apply State.readTableSlot_keeps | apply State.closeCourse_keeps | apply State.finishPromotions_keeps | apply State.dropGather_keeps | apply State.release_keeps | apply State.invalidateCourse_keeps | apply Keeps.fold)
    | split | (intro _ _ _; try dsimp only))

theorem State.endDiscard_keeps {s₀ s : State} (h : Keeps s₀ s) (d : Discard) (rc : ReturnCode) : Keeps s₀ (State.endDiscard s d rc) := by
  unfold State.endDiscard
  try dsimp only
  repeat' first | (with_reducible first | assumption | apply State.finishBackground_keeps | apply Keeps.onXlat)

theorem State.discardStep_keeps {s₀ s : State} (h : Keeps s₀ s) : Keeps s₀ (State.discardStep s) := by
  unfold State.discardStep
  try dsimp only
  repeat' (first
    | (with_reducible first | assumption | apply State.progress_keeps | apply State.discardCourse_keeps | apply State.endDiscard_keeps | apply State.traceTier_keeps | apply State.raise_keeps | apply Keeps.onXlat)
    | split)

theorem State.walkStep_keeps {s₀ s : State} (h : Keeps s₀ s) (w : Clearing) : Keeps s₀ (State.walkStep s w) := by
  unfold State.walkStep
  try dsimp only
  repeat' (first
    | (with_reducible first | assumption | apply State.clearStale_keeps | apply State.traceTier_keeps | apply State.raise_keeps | apply State.onDir_keeps | apply Keeps.onXlat)
    | split)

theorem execClearingWalkStep_keeps (s : State) : ∃ t, execClearingWalkStep s = .next t ∧ Keeps s t := by
  have h := Keeps.refl s
  unfold execClearingWalkStep
  try dsimp only
  repeat' (first
    | refine ⟨_, rfl, ?_⟩
    | (with_reducible first | assumption | apply State.walkStep_keeps | apply State.discardStep_keeps | apply State.beginRebuild_keeps)
    | split)

theorem State.endSwap_keeps {s₀ s : State} (h : Keeps s₀ s) (w : Swap) : Keeps s₀ (State.endSwap s w) := by
  unfold State.endSwap
  try dsimp only
  repeat' first | (with_reducible first | assumption | apply State.onDir_keeps | apply Keeps.onXlat) | split

theorem execTableFillStep_keeps (s : State) : ∃ t, execTableFillStep s = .next t ∧ Keeps s t := by
  have h := Keeps.refl s
  unfold execTableFillStep
  try dsimp only
  repeat' first | refine ⟨_, rfl, ?_⟩ | (with_reducible first | assumption | apply State.endSwap_keeps | apply State.onDir_keeps) | split

theorem State.drainBatten_keeps {s₀ s : State} (h : Keeps s₀ s) (old : Sparse Batten) (c : Nat) (b : Batten) : Keeps s₀ (State.drainBatten s old c b) := by
  unfold State.drainBatten
  try dsimp only
  repeat' (first
    | (with_reducible first | assumption | apply State.invalidateCourse_keeps | apply State.release_keeps | apply Keeps.fold | apply Keeps.onTile)
    | split | (intro _ _ _; try dsimp only))

theorem execDrainWalkStep_keeps (s : State) : ∃ t, execDrainWalkStep s = .next t ∧ Keeps s t := by
  have h := Keeps.refl s
  unfold execDrainWalkStep
  try dsimp only
  repeat' (first
    | refine ⟨_, rfl, ?_⟩
    | (with_reducible first | assumption | apply State.placeSwap_keeps | apply State.endSwap_keeps | apply State.raise_keeps | apply State.onDir_keeps | apply State.freeTable_keeps | apply State.drainBatten_keeps | apply State.traceTier_keeps)
    | split)

theorem execPlacementRetry_keeps (s : State) : ∃ t, execPlacementRetry s = .next t ∧ Keeps s t := by
  have h := Keeps.refl s
  unfold execPlacementRetry
  try dsimp only
  repeat' (first
    | refine ⟨_, rfl, ?_⟩
    | (with_reducible first | assumption | apply State.retryGathers_keeps | apply State.retry_keeps | apply State.retryFills_keeps | apply State.placeSwap_keeps | apply State.beginRebuild_keeps | apply State.rekeyStep_keeps | apply Keeps.fold)
    | split | (intro _ _ _; try dsimp only))

theorem execWatermarkStallEnd_keeps (s : State) : ∃ t, execWatermarkStallEnd s = .next t ∧ Keeps s t := by
  have h := Keeps.refl s
  unfold execWatermarkStallEnd
  try dsimp only
  repeat' first | refine ⟨_, rfl, ?_⟩ | (with_reducible first | assumption | apply State.retry_keeps) | split

theorem execGetBatten_keeps (p : Path) (kind : BitVec 8) (addr : BitVec 64) (s : State) : ∃ t, execGetBatten p kind addr s = .next t ∧ Keeps s t := by
  have h := Keeps.refl s
  unfold execGetBatten
  try dsimp only
  repeat' (first
    | refine ⟨_, rfl, ?_⟩ | (with_reducible first | assumption | apply State.command_keeps | apply refuse_keeps) | split
    | (intro _ _; try dsimp only))

theorem execGetTranslationStatus_keeps (p : Path) (s : State) : ∃ t, execGetTranslationStatus p s = .next t ∧ Keeps s t := by
  have h := Keeps.refl s
  unfold execGetTranslationStatus
  try dsimp only
  repeat' (first
    | refine ⟨_, rfl, ?_⟩ | (with_reducible first | assumption | apply State.command_keeps) | split | (intro _ _; try dsimp only))

theorem execRebuildBattenBlock_keeps (p : Path) (block : BitVec 16) (s : State) : ∃ t, execRebuildBattenBlock p block s = .next t ∧ Keeps s t := by
  have h := Keeps.refl s
  unfold execRebuildBattenBlock
  try dsimp only
  repeat' (first
    | refine ⟨_, rfl, ?_⟩
    | (with_reducible first | assumption | apply State.privilegedBackground_keeps | apply State.finishBackground_keeps | apply Keeps.onXlat)
    | split | (intro _ _; try dsimp only))

theorem execDiscardCourseRange_keeps (p : Path) (dpa : BitVec 64) (courses : BitVec 32) (s : State) : ∃ t, execDiscardCourseRange p dpa courses s = .next t ∧ Keeps s t := by
  have h := Keeps.refl s
  unfold execDiscardCourseRange
  try dsimp only
  repeat' (first
    | refine ⟨_, rfl, ?_⟩
    | (with_reducible first | assumption | apply State.background_keeps | apply State.clearBlock_keeps | apply State.finishBackground_keeps | apply Keeps.onXlat | apply Keeps.fold)
    | split | (intro _ _ _; try dsimp only) | (intro _ _; try dsimp only))

theorem execSetCompactionPolicy_keeps (p : Path) (lowMark : BitVec 16) (victim : BitVec 8) (share : BitVec 8) (s : State) : ∃ t, execSetCompactionPolicy p lowMark victim share s = .next t ∧ Keeps s t := by
  have h := Keeps.refl s
  unfold execSetCompactionPolicy
  try dsimp only
  repeat' (first
    | refine ⟨_, rfl, ?_⟩ | (with_reducible first | assumption | apply State.privileged_keeps | apply refuse_keeps | apply Keeps.onAlloc)
    | split | (intro _ _; try dsimp only))

theorem execGatherWindowExpiry_keeps (buffer : BitVec 6) (s : State) : ∃ t, execGatherWindowExpiry buffer s = .next t ∧ Keeps s t := by
  have h := Keeps.refl s
  unfold execGatherWindowExpiry
  try dsimp only
  repeat' first | refine ⟨_, rfl, ?_⟩ | (with_reducible first | assumption | apply State.closeGather_keeps)

theorem execGatherClose_keeps (buffer : BitVec 6) (s : State) : ∃ t, execGatherClose buffer s = .next t ∧ Keeps s t := by
  have h := Keeps.refl s
  unfold execGatherClose
  try dsimp only
  repeat' first | refine ⟨_, rfl, ?_⟩ | (with_reducible first | assumption | apply State.closeGather_keeps)

theorem execGetTileCodingStatus_keeps (p : Path) (s : State) : ∃ t, execGetTileCodingStatus p s = .next t ∧ Keeps s t := by
  have h := Keeps.refl s
  unfold execGetTileCodingStatus
  try dsimp only
  repeat' first | refine ⟨_, rfl, ?_⟩ | (with_reducible first | assumption | apply State.command_keeps) | (intro _ _; try dsimp only)

theorem execSetWriteGather_keeps (p : Path) (window : BitVec 8) (s : State) : ∃ t, execSetWriteGather p window s = .next t ∧ Keeps s t := by
  have h := Keeps.refl s
  unfold execSetWriteGather
  try dsimp only
  repeat' (first
    | refine ⟨_, rfl, ?_⟩ | (with_reducible first | assumption | apply State.privileged_keeps | apply Keeps.onTile)
    | (intro _ _; try dsimp only))

theorem execSetPhiozRange_keeps (p : Path) (entry : BitVec 8) (action : BitVec 8) (dpa : BitVec 64) (courses : BitVec 32) (s : State) : ∃ t, execSetPhiozRange p entry action dpa courses s = .next t ∧ Keeps s t := by
  have h := Keeps.refl s
  unfold execSetPhiozRange
  try dsimp only
  repeat' (first
    | refine ⟨_, rfl, ?_⟩ | (with_reducible first | assumption | apply State.command_keeps | apply refuse_keeps | apply Keeps.onTile)
    | split | (intro _ _; try dsimp only))

theorem execGetPhiozRange_keeps (p : Path) (entry : BitVec 8) (s : State) : ∃ t, execGetPhiozRange p entry s = .next t ∧ Keeps s t := by
  have h := Keeps.refl s
  unfold execGetPhiozRange
  try dsimp only
  repeat' (first
    | refine ⟨_, rfl, ?_⟩ | (with_reducible first | assumption | apply State.command_keeps | apply refuse_keeps) | split
    | (intro _ _; try dsimp only))

theorem execSetPhiozConversion_keeps (p : Path) (ctx : BitVec 13) (allow : BitVec 8) (s : State) : ∃ t, execSetPhiozConversion p ctx allow s = .next t ∧ Keeps s t := by
  have h := Keeps.refl s
  unfold execSetPhiozConversion
  try dsimp only
  repeat' (first
    | refine ⟨_, rfl, ?_⟩
    | (with_reducible first | assumption | apply State.privileged_keeps | apply State.onCtx_keeps | apply refuse_keeps) | split
    | (intro _ _; try dsimp only))

theorem execGetTileForm_keeps (p : Path) (kind : BitVec 8) (tile : BitVec 8) (addr : BitVec 64) (s : State) : ∃ t, execGetTileForm p kind tile addr s = .next t ∧ Keeps s t := by
  have h := Keeps.refl s
  unfold execGetTileForm
  try dsimp only
  repeat' (first
    | refine ⟨_, rfl, ?_⟩
    | (with_reducible first | assumption | apply State.command_keeps | apply refuse_keeps | apply State.syncPoison_keeps | apply State.poisonLines_keeps | apply State.readTile_keeps)
    | split | (intro _ _; try dsimp only))

theorem execThatchBundleTake_keeps (engine : BitVec 2) (s : State) : ∃ t, execThatchBundleTake engine s = .next t ∧ Keeps s t := by
  have h := Keeps.refl s
  unfold execThatchBundleTake
  try dsimp only
  repeat' first | refine ⟨_, rfl, ?_⟩ | (with_reducible first | assumption | apply State.takeBundle_keeps) | split

theorem execThatchBundleCommit_keeps (engine : BitVec 2) (s : State) : ∃ t, execThatchBundleCommit engine s = .next t ∧ Keeps s t := by
  have h := Keeps.refl s
  unfold execThatchBundleCommit
  try dsimp only
  repeat' first | refine ⟨_, rfl, ?_⟩ | (with_reducible first | assumption | apply State.commitBundle_keeps)

theorem State.resumeJob_keeps {s₀ s : State} (h : Keeps s₀ s) (j add : Nat) : Keeps s₀ (State.resumeJob s j add) := by
  unfold State.resumeJob
  try dsimp only
  repeat' first | (with_reducible first | assumption | apply State.onJob_keeps) | split

theorem execThatchJobAutoResume_keeps (job : BitVec 10) (s : State) : ∃ t, execThatchJobAutoResume job s = .next t ∧ Keeps s t := by
  have h := Keeps.refl s
  unfold execThatchJobAutoResume
  try dsimp only
  repeat' first | refine ⟨_, rfl, ?_⟩ | (with_reducible first | assumption | apply State.resumeJob_keeps) | split

theorem execPromotionCommit_keeps (engine : BitVec 2) (s : State) : ∃ t, execPromotionCommit engine s = .next t ∧ Keeps s t := by
  have h := Keeps.refl s
  unfold execPromotionCommit
  try dsimp only
  repeat' first | refine ⟨_, rfl, ?_⟩ | (with_reducible first | assumption | apply State.commitPromotion_keeps)

theorem State.addBundle_keeps {s₀ s : State} (h : Keeps s₀ s) (first : Nat) : Keeps s₀ (State.addBundle s first) := by
  unfold State.addBundle
  try dsimp only
  repeat' first | (with_reducible first | assumption | apply State.onJob_keeps) | split

theorem State.visit_keeps {s₀ s : State} (h : Keeps s₀ s) (c : Nat) : Keeps s₀ (State.visit s c) := by
  unfold State.visit
  try dsimp only
  repeat' (first
    | (with_reducible first | assumption | apply State.commitHeat_keeps | apply State.readTableSlot_keeps | apply State.addBundle_keeps | apply Keeps.onPlace)
    | split)

theorem execPlacementScanVisit_keeps (s : State) : ∃ t, execPlacementScanVisit s = .next t ∧ Keeps s t := by
  have h := Keeps.refl s
  unfold execPlacementScanVisit
  try dsimp only
  repeat' first | refine ⟨_, rfl, ?_⟩ | (with_reducible first | assumption | apply State.visit_keeps | apply Keeps.onPlace) | split

theorem execRecode_keeps (course : BitVec 30) (s : State) : ∃ t, execRecode course s = .next t ∧ Keeps s t := by
  have h := Keeps.refl s
  unfold execRecode
  try dsimp only
  repeat' first | refine ⟨_, rfl, ?_⟩ | (with_reducible first | assumption | apply State.recodeCourse_keeps) | split

theorem State.pinnedRelief_keeps {s₀ s : State} (h : Keeps s₀ s) : Keeps s₀ (State.pinnedRelief s) := by
  unfold State.pinnedRelief
  try dsimp only
  repeat' first | (with_reducible first | assumption | apply State.raiseLimited_keeps) | split

theorem State.adjustThresholds_keeps {s₀ s : State} (h : Keeps s₀ s) : Keeps s₀ (State.adjustThresholds s) := by
  unfold State.adjustThresholds
  try dsimp only
  repeat' (first
    | (with_reducible first | assumption | apply State.pinnedRelief_keeps | apply State.raiseLimited_keeps | apply Keeps.onPlace) | split)

theorem execThresholdAdjust_keeps (s : State) : ∃ t, execThresholdAdjust s = .next t ∧ Keeps s t := by
  have h := Keeps.refl s
  unfold execThresholdAdjust
  try dsimp only
  repeat' (first
    | refine ⟨_, rfl, ?_⟩ | (with_reducible first | assumption | apply State.adjustThresholds_keeps | apply Keeps.onPlace) | split)

theorem execGetPlacementStatus_keeps (p : Path) (s : State) : ∃ t, execGetPlacementStatus p s = .next t ∧ Keeps s t := by
  have h := Keeps.refl s
  unfold execGetPlacementStatus
  try dsimp only
  repeat' (first
    | refine ⟨_, rfl, ?_⟩ | (with_reducible first | assumption | apply State.command_keeps) | split | (intro _ _; try dsimp only))

theorem execSetPlacementPolicy_keeps (p : Path) (policy : PlacementPolicy) (s : State) : ∃ t, execSetPlacementPolicy p policy s = .next t ∧ Keeps s t := by
  have h := Keeps.refl s
  unfold execSetPlacementPolicy
  try dsimp only
  repeat' (first
    | refine ⟨_, rfl, ?_⟩
    | (with_reducible first | assumption | apply State.privileged_keeps | apply State.setThrottle_keeps | apply refuse_keeps | apply Keeps.onPlace)
    | split | (intro _ _; try dsimp only))

theorem execSetClassPlacement_keeps (p : Path) (cls : BitVec 8) (tier : BitVec 8) (pin : BitVec 8) (strong : Bool) (s : State) : ∃ t, execSetClassPlacement p cls tier pin strong s = .next t ∧ Keeps s t := by
  have h := Keeps.refl s
  unfold execSetClassPlacement
  try dsimp only
  repeat' (first
    | refine ⟨_, rfl, ?_⟩ | (with_reducible first | assumption | apply State.privileged_keeps | apply refuse_keeps | apply Keeps.onPlace)
    | split | (intro _ _; try dsimp only))

theorem execStartThatchingJob_keeps (p : Path) (kind : BitVec 8) (heat : BitVec 8) (cap : BitVec 8) (budget : BitVec 32) (start : BitVec 64) (bundles : BitVec 32) (s : State) : ∃ t, execStartThatchingJob p kind heat cap budget start bundles s = .next t ∧ Keeps s t := by
  have h := Keeps.refl s
  unfold execStartThatchingJob
  try dsimp only
  repeat' (first
    | refine ⟨_, rfl, ?_⟩ | (with_reducible first | assumption | apply State.command_keeps | apply refuse_keeps | apply State.onJob_keeps)
    | split | (intro _ _; try dsimp only))

theorem execGetThatchingJob_keeps (p : Path) (job : BitVec 16) (s : State) : ∃ t, execGetThatchingJob p job s = .next t ∧ Keeps s t := by
  have h := Keeps.refl s
  unfold execGetThatchingJob
  try dsimp only
  repeat' (first
    | refine ⟨_, rfl, ?_⟩ | (with_reducible first | assumption | apply State.command_keeps | apply refuse_keeps) | split
    | (intro _ _; try dsimp only))

theorem execResumeThatchingJob_keeps (p : Path) (job : BitVec 16) (add : BitVec 32) (s : State) : ∃ t, execResumeThatchingJob p job add s = .next t ∧ Keeps s t := by
  have h := Keeps.refl s
  unfold execResumeThatchingJob
  try dsimp only
  repeat' (first
    | refine ⟨_, rfl, ?_⟩
    | (with_reducible first | assumption | apply State.command_keeps | apply State.resumeJob_keeps | apply refuse_keeps) | split
    | (intro _ _; try dsimp only))

theorem execStopThatchingJob_keeps (p : Path) (job : BitVec 16) (free : Bool) (s : State) : ∃ t, execStopThatchingJob p job free s = .next t ∧ Keeps s t := by
  have h := Keeps.refl s
  unfold execStopThatchingJob
  try dsimp only
  repeat' (first
    | refine ⟨_, rfl, ?_⟩
    | (with_reducible first | assumption | apply State.command_keeps | apply State.stopJob_keeps | apply refuse_keeps | apply Keeps.onPlace)
    | split | (intro _ _; try dsimp only))

theorem execWarmCourseRange_keeps (p : Path) (dpa : BitVec 64) (courses : BitVec 32) (s : State) : ∃ t, execWarmCourseRange p dpa courses s = .next t ∧ Keeps s t := by
  have h := Keeps.refl s
  unfold execWarmCourseRange
  try dsimp only
  repeat' (first
    | refine ⟨_, rfl, ?_⟩
    | (with_reducible first | assumption | apply State.background_keeps | apply State.finishBackground_keeps | apply State.promoteNow_keeps | apply Keeps.foldl)
    | split | (intro _ _ _; try dsimp only) | (intro _ _; try dsimp only))

theorem execGetTileCacheStatus_keeps (p : Path) (s : State) : ∃ t, execGetTileCacheStatus p s = .next t ∧ Keeps s t := by
  have h := Keeps.refl s
  unfold execGetTileCacheStatus
  try dsimp only
  repeat' first | refine ⟨_, rfl, ?_⟩ | (with_reducible first | assumption | apply State.command_keeps) | (intro _ _; try dsimp only)

theorem State.invalidateWhere_keeps {s₀ s : State} (h : Keeps s₀ s) (p : Nat → Bool) : Keeps s₀ (State.invalidateWhere s p).1 := by
  unfold State.invalidateWhere
  try dsimp only
  repeat' first | (with_reducible first | assumption | apply State.invalidate_keeps | apply Keeps.fold) | (intro _ _ _; try dsimp only)

theorem execInvalidateTileCacheRange_keeps (p : Path) (kind : BitVec 8) (start : BitVec 64) (courses : BitVec 32) (s : State) : ∃ t, execInvalidateTileCacheRange p kind start courses s = .next t ∧ Keeps s t := by
  have h := Keeps.refl s
  unfold execInvalidateTileCacheRange
  try dsimp only
  repeat' (first
    | refine ⟨_, rfl, ?_⟩
    | (with_reducible first | assumption | apply State.command_keeps | apply State.invalidateWhere_keeps | apply refuse_keeps) | split
    | (intro _ _; try dsimp only))

theorem execSetTileCachePolicy_keeps (p : Path) (enable : Bool) (noFill : BitVec 64) (s : State) : ∃ t, execSetTileCachePolicy p enable noFill s = .next t ∧ Keeps s t := by
  have h := Keeps.refl s
  unfold execSetTileCachePolicy
  try dsimp only
  repeat' (first
    | refine ⟨_, rfl, ?_⟩
    | (with_reducible first | assumption | apply State.privileged_keeps | apply State.invalidateWhere_keeps | apply Keeps.onCache) | split
    | (intro _ _; try dsimp only))

theorem execGetTileCacheSet_keeps (p : Path) (set : BitVec 16) (s : State) : ∃ t, execGetTileCacheSet p set s = .next t ∧ Keeps s t := by
  have h := Keeps.refl s
  unfold execGetTileCacheSet
  try dsimp only
  repeat' (first
    | refine ⟨_, rfl, ?_⟩ | (with_reducible first | assumption | apply State.privileged_keeps | apply refuse_keeps) | split
    | (intro _ _; try dsimp only))

theorem execRekeyPassCourse_keeps (s : State) : ∃ t, execRekeyPassCourse s = .next t ∧ Keeps s t := by
  have h := Keeps.refl s
  unfold execRekeyPassCourse
  try dsimp only
  repeat' first | refine ⟨_, rfl, ?_⟩ | (with_reducible first | assumption | apply State.rekeyStep_keeps)

theorem State.endDestroy_keeps {s₀ s : State} (h : Keeps s₀ s) (d : DestroyWalk) (rc : ReturnCode) : Keeps s₀ (State.endDestroy s d rc) := by
  unfold State.endDestroy
  try dsimp only
  repeat' first | (with_reducible first | assumption | apply State.finishBackground_keeps | apply Keeps.onFlash)

theorem State.destroyStep_keeps {s₀ s : State} (h : Keeps s₀ s) : Keeps s₀ (State.destroyStep s) := by
  unfold State.destroyStep
  try dsimp only
  repeat' (first
    | (with_reducible first | assumption | apply State.endDestroy_keeps | apply State.progress_keeps | apply State.readTableSlot_keeps | apply State.discardCourse_keeps | apply Keeps.onFlash)
    | split)

theorem execDestroyDiscardWalkStep_keeps (s : State) : ∃ t, execDestroyDiscardWalkStep s = .next t ∧ Keeps s t := by
  have h := Keeps.refl s
  unfold execDestroyDiscardWalkStep
  try dsimp only
  repeat' first | refine ⟨_, rfl, ?_⟩ | (with_reducible first | assumption | apply State.destroyStep_keeps)

theorem State.onIde_keeps {s₀ s : State} (h : Keeps s₀ s) (p : HostPort) (f : IdePort → IdePort) : Keeps s₀ (State.onIde s p f) := by
  unfold State.onIde
  try dsimp only
  repeat' first | (with_reducible first | assumption | apply Keeps.onFlash) | split

theorem execIdeIntegrityFailure_keeps (port : HostPort) (s : State) : ∃ t, execIdeIntegrityFailure port s = .next t ∧ Keeps s t := by
  have h := Keeps.refl s
  unfold execIdeIntegrityFailure
  try dsimp only
  repeat' first | refine ⟨_, rfl, ?_⟩ | (with_reducible first | assumption | apply State.stopIde_keeps | apply State.onIde_keeps) | split

theorem State.ideMessage_keeps {s₀ s : State} (h : Keeps s₀ s) (port : HostPort) (cxl : Bool) (m : List Byte) : Keeps s₀ (State.ideMessage s port cxl m) := by
  unfold State.ideMessage
  try dsimp only
  repeat' first | (with_reducible first | assumption | apply State.onIde_keeps | apply Keeps.emit) | split

theorem execCxlIdeKm_keeps (port : HostPort) (message : List Byte) (s : State) : ∃ t, execCxlIdeKm port message s = .next t ∧ Keeps s t := by
  have h := Keeps.refl s
  unfold execCxlIdeKm
  try dsimp only
  repeat' first | refine ⟨_, rfl, ?_⟩ | (with_reducible first | assumption | apply State.afterExit_keeps | apply State.ideMessage_keeps)

theorem execPcieIdeKm_keeps (port : HostPort) (message : List Byte) (s : State) : ∃ t, execPcieIdeKm port message s = .next t ∧ Keeps s t := by
  have h := Keeps.refl s
  unfold execPcieIdeKm
  try dsimp only
  repeat' first | refine ⟨_, rfl, ?_⟩ | (with_reducible first | assumption | apply State.afterExit_keeps | apply State.ideMessage_keeps)

theorem execSpdmGetCertificate_keeps (port : HostPort) (offset : BitVec 16) (length : BitVec 16) (s : State) : ∃ t, execSpdmGetCertificate port offset length s = .next t ∧ Keeps s t := by
  have h := Keeps.refl s
  unfold execSpdmGetCertificate
  try dsimp only
  repeat' first | refine ⟨_, rfl, ?_⟩ | (with_reducible first | assumption | apply State.afterExit_keeps | apply Keeps.emit) | split

theorem State.useRelay_keeps {s₀ s : State} (h : Keeps s₀ s) (k : KeyPath) : Keeps s₀ (State.useRelay s k) := by
  unfold State.useRelay
  try dsimp only
  repeat' (first
    | (with_reducible first | assumption | apply Keeps.onFlash | apply Keeps.onPurlin) | (intro _; rfl) | split
    | (intro _; dsimp only; split <;> rfl))

theorem State.setWrapKey_keeps {s₀ s : State} (h : Keeps s₀ s) (k : KeyPath) (key : List Byte) : Keeps s₀ (State.setWrapKey s k key) := by
  unfold State.setWrapKey
  try dsimp only
  repeat' first | (with_reducible first | assumption | apply State.useRelay_keeps | apply Keeps.onFlash)

theorem State.ephemeral_keeps {s₀ s : State} (h : Keeps s₀ s) : Keeps s₀ (State.ephemeral s).2 := by
  unfold State.ephemeral
  try dsimp only
  repeat' first | (with_reducible first | assumption | apply State.draw_keeps) | split

theorem State.keyed_keeps {s₀ s : State} (h : Keeps s₀ s) {f : State → State × ReturnCode × List Byte} (hf : ∀ s, Keeps s₀ s → Keeps s₀ (f s).1) : Keeps s₀ (State.keyed s f).1 := by
  unfold State.keyed
  split
  · exact hf s h
  · exact h

theorem execEstablishWrappingKey_keeps (p : Path) (ownerKey : List Byte) (s : State) : ∃ t, execEstablishWrappingKey p ownerKey s = .next t ∧ Keeps s t := by
  have h := Keeps.refl s
  unfold execEstablishWrappingKey
  try dsimp only
  repeat' (first
    | refine ⟨_, rfl, ?_⟩
    | (with_reducible first | assumption | apply State.command_keeps | apply State.keyed_keeps | apply State.setWrapKey_keeps | apply State.ephemeral_keeps | apply refuse_keeps)
    | split | (intro _ _; try dsimp only))

theorem State.keyChanged_keeps {s₀ s : State} (h : Keeps s₀ s) (c action rid : Nat) (tag : BitVec 32) : Keeps s₀ (State.keyChanged s c action rid tag) := by
  unfold State.keyChanged
  try dsimp only
  repeat' first | (with_reducible first | assumption | apply State.raise_keeps)

theorem State.loadRefused_keeps {s₀ s : State} (h : Keeps s₀ s) (c cause rid : Nat) : Keeps s₀ (State.loadRefused s c cause rid) := by
  unfold State.loadRefused
  try dsimp only
  repeat' first | (with_reducible first | assumption | apply State.raise_keeps)

theorem State.putKey_keeps {s₀ s : State} (h : Keeps s₀ s) (c : Nat) (gen : Bool) (k : List Byte) : Keeps s₀ (State.putKey s c gen k) := by
  unfold State.putKey
  try dsimp only
  repeat' first | (with_reducible first | assumption | apply State.onCtx_keeps)

theorem State.loadKey_keeps {s₀ s : State} (h : Keeps s₀ s) (kp : KeyPath) (owner : Option LdId) (rid c : Nat) (next : Bool) (wrapped : List Byte) : Keeps s₀ (State.loadKey s kp owner rid c next wrapped).1 := by
  unfold State.loadKey
  try dsimp only
  repeat' (first
    | (with_reducible first | assumption | apply refuse_keeps | apply State.loadRefused_keeps | apply State.useRelay_keeps | apply State.keyChanged_keeps | apply State.putKey_keeps | apply State.onCtx_keeps)
    | split)

theorem execLoadContextKey_keeps (p : Path) (ctx : BitVec 13) (next : Bool) (wrapped : List Byte) (s : State) : ∃ t, execLoadContextKey p ctx next wrapped s = .next t ∧ Keeps s t := by
  have h := Keeps.refl s
  unfold execLoadContextKey
  try dsimp only
  repeat' (first
    | refine ⟨_, rfl, ?_⟩
    | (with_reducible first | assumption | apply State.command_keeps | apply State.keyed_keeps | apply State.loadKey_keeps)
    | (intro _ _; try dsimp only))

theorem State.settleContext_keeps {s₀ s : State} (h : Keeps s₀ s) (c : Nat) : Keeps s₀ (State.settleContext s c) := by
  unfold State.settleContext
  try dsimp only
  repeat' (first
    | (with_reducible first | assumption | apply State.closeGathers_keeps | apply State.finishPromotions_keeps | apply State.dropGather_keeps | apply State.touchBundle_keeps | apply Keeps.fold)
    | split | (intro _ _ _; try dsimp only))

theorem State.destroyKey_keeps {s₀ s : State} (h : Keeps s₀ s) (c rid : Nat) : Keeps s₀ (State.destroyKey s c rid) := by
  unfold State.destroyKey
  try dsimp only
  repeat' (first
    | (with_reducible first | assumption | apply State.keyChanged_keeps | apply State.nextPass_keeps | apply State.onCtx_keeps | apply State.settleContext_keeps | apply Keeps.onFlash)
    | split)

theorem execDestroyContextKey_keeps (p : Path) (ctx : BitVec 13) (discard : Bool) (s : State) : ∃ t, execDestroyContextKey p ctx discard s = .next t ∧ Keeps s t := by
  have h := Keeps.refl s
  unfold execDestroyContextKey
  try dsimp only
  repeat' (first
    | refine ⟨_, rfl, ?_⟩
    | (with_reducible first | assumption | apply State.command_keeps | apply State.keyed_keeps | apply State.destroyKey_keeps | apply refuse_keeps | apply State.background_keeps | apply Keeps.onFlash)
    | split | (intro _ _; try dsimp only))

theorem State.tspAnswer_keeps {s₀ s : State} (h : Keeps s₀ s) (ld : LdId) (session : BitVec 16) {f : State → State × ReturnCode × List Byte} (hf : ∀ s, Keeps s₀ s → Keeps s₀ (f s).1) : Keeps s₀ (s.tspAnswer ld session f) := by
  unfold State.tspAnswer
  split
  · exact h
  · exact Keeps.emit (State.keyed_keeps h hf) _

theorem execTspSetKey_keeps (ld : LdId) (session : BitVec 16) (ctx : BitVec 13) (wrapped : List Byte) (s : State) : ∃ t, execTspSetKey ld session ctx wrapped s = .next t ∧ Keeps s t := by
  have h := Keeps.refl s
  unfold execTspSetKey
  try dsimp only
  repeat' (first
    | refine ⟨_, rfl, ?_⟩
    | (with_reducible first | assumption | apply State.afterExit_keeps | apply State.tspAnswer_keeps | apply State.loadKey_keeps)
    | (intro _ _; try dsimp only))

theorem execTspReplaceKey_keeps (ld : LdId) (session : BitVec 16) (ctx : BitVec 13) (wrapped : List Byte) (s : State) : ∃ t, execTspReplaceKey ld session ctx wrapped s = .next t ∧ Keeps s t := by
  have h := Keeps.refl s
  unfold execTspReplaceKey
  try dsimp only
  repeat' (first
    | refine ⟨_, rfl, ?_⟩
    | (with_reducible first | assumption | apply State.afterExit_keeps | apply State.tspAnswer_keeps | apply State.loadKey_keeps)
    | (intro _ _; try dsimp only))

theorem execTspClearKey_keeps (ld : LdId) (session : BitVec 16) (ctx : BitVec 13) (s : State) : ∃ t, execTspClearKey ld session ctx s = .next t ∧ Keeps s t := by
  have h := Keeps.refl s
  unfold execTspClearKey
  try dsimp only
  repeat' (first
    | refine ⟨_, rfl, ?_⟩
    | (with_reducible first | assumption | apply State.afterExit_keeps | apply State.tspAnswer_keeps | apply State.destroyKey_keeps | apply refuse_keeps)
    | split | (intro _ _; try dsimp only))

theorem execTspUnsupportedRequest_keeps (ld : LdId) (session : BitVec 16) (_opcode : BitVec 8) (s : State) : ∃ t, execTspUnsupportedRequest ld session _opcode s = .next t ∧ Keeps s t := by
  have h := Keeps.refl s
  unfold execTspUnsupportedRequest
  try dsimp only
  repeat' first | refine ⟨_, rfl, ?_⟩ | (with_reducible first | assumption | apply State.afterExit_keeps | apply Keeps.emit) | split

theorem State.settleRotation_keeps {s₀ s : State} (h : Keeps s₀ s) : Keeps s₀ (State.settleRotation s) := by
  unfold State.settleRotation
  try dsimp only
  repeat' (first
    | (with_reducible first | assumption | apply State.finishBackground_keeps | apply Keeps.onFlash | apply Keeps.fold | apply Keeps.emit | apply Keeps.onLink)
    | split | (intro _ _ _; try dsimp only))

theorem State.beginRotation_keeps {s₀ s : State} (h : Keeps s₀ s) (p : Option Path) : Keeps s₀ (State.beginRotation s p) := by
  unfold State.beginRotation
  try dsimp only
  repeat' (first
    | (with_reducible first | assumption | apply State.settleRotation_keeps | apply State.draw_keeps | apply Keeps.fold | apply Keeps.onFlash | apply Keeps.emit)
    | split | (intro _ _ _; try dsimp only))

theorem execRotateRafterKey_keeps (p : Path) (s : State) : ∃ t, execRotateRafterKey p s = .next t ∧ Keeps s t := by
  have h := Keeps.refl s
  unfold execRotateRafterKey
  try dsimp only
  repeat' (first
    | refine ⟨_, rfl, ?_⟩ | (with_reducible first | assumption | apply State.privilegedBackground_keeps | apply State.beginRotation_keeps)
    | split | (intro _ _; try dsimp only))

theorem execGetFlashingStatus_keeps (p : Path) (s : State) : ∃ t, execGetFlashingStatus p s = .next t ∧ Keeps s t := by
  have h := Keeps.refl s
  unfold execGetFlashingStatus
  try dsimp only
  repeat' (first
    | refine ⟨_, rfl, ?_⟩ | (with_reducible first | assumption | apply State.command_keeps) | split | (intro _ _; try dsimp only))

theorem execGetContext_keeps (p : Path) (ctx : BitVec 13) (s : State) : ∃ t, execGetContext p ctx s = .next t ∧ Keeps s t := by
  have h := Keeps.refl s
  unfold execGetContext
  try dsimp only
  repeat' (first
    | refine ⟨_, rfl, ?_⟩ | (with_reducible first | assumption | apply State.command_keeps | apply refuse_keeps) | split
    | (intro _ _; try dsimp only))

theorem execSetContextAttributes_keeps (p : Path) (ctx : BitVec 13) (cls : BitVec 8) (owner : BitVec 8) (s : State) : ∃ t, execSetContextAttributes p ctx cls owner s = .next t ∧ Keeps s t := by
  have h := Keeps.refl s
  unfold execSetContextAttributes
  try dsimp only
  repeat' (first
    | refine ⟨_, rfl, ?_⟩
    | (with_reducible first | assumption | apply State.privileged_keeps | apply State.onCtx_keeps | apply refuse_keeps) | split
    | (intro _ _; try dsimp only))

theorem execStartRekey_keeps (p : Path) (ctx : BitVec 13) (s : State) : ∃ t, execStartRekey p ctx s = .next t ∧ Keeps s t := by
  have h := Keeps.refl s
  unfold execStartRekey
  try dsimp only
  repeat' (first
    | refine ⟨_, rfl, ?_⟩
    | (with_reducible first | assumption | apply State.command_keeps | apply State.keyed_keeps | apply State.startRekeyOf_keeps | apply refuse_keeps)
    | split | (intro _ _; try dsimp only))

theorem execSetWriteCounterLimit_keeps (p : Path) (ctx : BitVec 13) (limit : BitVec 64) (s : State) : ∃ t, execSetWriteCounterLimit p ctx limit s = .next t ∧ Keeps s t := by
  have h := Keeps.refl s
  unfold execSetWriteCounterLimit
  try dsimp only
  repeat' (first
    | refine ⟨_, rfl, ?_⟩
    | (with_reducible first | assumption | apply State.command_keeps | apply State.countWrites_keeps | apply State.onCtx_keeps | apply refuse_keeps)
    | split | (intro _ _; try dsimp only))

end Sys2Proof.Machine
end

