-- ==== Sys2Proof/Laws/KeepsMedia.lean ====
section
/-! SUPPORT. What every command keeps: the channels, sparing, regulation, the rafter link and Cascade. -/

namespace Sys2Proof.Machine

set_option Elab.async false
set_option linter.all false

theorem execQueueHeadExecute_keeps (ch : ChannelId) (s : State) : ∃ t, execQueueHeadExecute ch s = .next t ∧ Keeps s t := by
  have h := Keeps.refl s
  unfold execQueueHeadExecute
  try dsimp only
  repeat' (first
    | refine ⟨_, rfl, ?_⟩ | (with_reducible first | assumption | apply State.execMarkers_keeps | apply State.execHead_keeps) | split)

theorem State.loseKey_keeps {s₀ s : State} (h : Keeps s₀ s) (c : Nat) (gen : Bool) : Keeps s₀ (State.loseKey s c gen) := by
  unfold State.loseKey
  try dsimp only
  repeat' first | (with_reducible first | assumption | apply State.raise_keeps | apply State.onCtx_keeps | apply Keeps.onSram)

theorem State.slotBack_keeps {s₀ s : State} (h : Keeps s₀ s) (ch : Nat) (x : InFlight) (f : Fetch) : Keeps s₀ (State.slotBack s ch x f) := by
  unfold State.slotBack
  try dsimp only
  repeat' (first
    | (with_reducible first | assumption | apply State.setSlot_keeps | apply State.fault_keeps | apply State.countCorrections_keeps | apply State.bump_keeps | apply State.writeBack_keeps | apply State.onChannel_keeps | apply Keeps.onSpare)
    | split)

theorem execSlotReadComplete_keeps (ch : ChannelId) (s : State) : ∃ t, execSlotReadComplete ch s = .next t ∧ Keeps s t := by
  have h := Keeps.refl s
  unfold execSlotReadComplete
  try dsimp only
  repeat' (first
    | refine ⟨_, rfl, ?_⟩
    | (with_reducible first | assumption | apply State.onChannel_keeps | apply State.settleFetch_keeps | apply State.slotBack_keeps | apply State.endFetch_keeps | apply State.loseKey_keeps)
    | split)

theorem execBufferDrain_keeps (ch : ChannelId) (s : State) : ∃ t, execBufferDrain ch s = .next t ∧ Keeps s t := by
  have h := Keeps.refl s
  unfold execBufferDrain
  try dsimp only
  repeat' first | refine ⟨_, rfl, ?_⟩ | (with_reducible first | assumption | apply State.drainOne_keeps) | split

theorem State.enterItem_keeps {s₀ s : State} (h : Keeps s₀ s) (ch : Nat) (e : QueueEntry) : Keeps s₀ (State.enterItem s ch e) := by
  unfold State.enterItem
  try dsimp only
  repeat' first | (with_reducible first | assumption | apply State.onChannel_keeps | apply State.execHead_keeps) | split

theorem execRefreshDue_keeps (ch : ChannelId) (s : State) : ∃ t, execRefreshDue ch s = .next t ∧ Keeps s t := by
  have h := Keeps.refl s
  unfold execRefreshDue
  try dsimp only
  repeat' (first
    | refine ⟨_, rfl, ?_⟩ | (with_reducible first | assumption | apply State.enterItem_keeps | apply State.onChannel_keeps) | split)

theorem execMr4Poll_keeps (ch : ChannelId) (codes : BitVec 12) (s : State) : ∃ t, execMr4Poll ch codes s = .next t ∧ Keeps s t := by
  have h := Keeps.refl s
  unfold execMr4Poll
  try dsimp only
  repeat' first | refine ⟨_, rfl, ?_⟩ | (with_reducible first | assumption | apply State.enterItem_keeps) | split

theorem State.maintain_keeps {s₀ s : State} (h : Keeps s₀ s) (ch : Nat) (e : QueueEntry) : Keeps s₀ (State.maintain s ch e) := by
  unfold State.maintain
  try dsimp only
  repeat' first | (with_reducible first | assumption | apply State.onChannel_keeps | apply State.enterItem_keeps) | split

theorem execZqCalibrationDue_keeps (ch : ChannelId) (passed : Bool) (stallNs : BitVec 32) (s : State) : ∃ t, execZqCalibrationDue ch passed stallNs s = .next t ∧ Keeps s t := by
  have h := Keeps.refl s
  unfold execZqCalibrationDue
  try dsimp only
  repeat' first | refine ⟨_, rfl, ?_⟩ | (with_reducible first | assumption | apply State.maintain_keeps | apply State.onChannel_keeps)

theorem execDqsCheckDue_keeps (ch : ChannelId) (drift : BitVec 16) (s : State) : ∃ t, execDqsCheckDue ch drift s = .next t ∧ Keeps s t := by
  have h := Keeps.refl s
  unfold execDqsCheckDue
  try dsimp only
  repeat' first | refine ⟨_, rfl, ?_⟩ | (with_reducible first | assumption | apply State.maintain_keeps)

theorem State.startRetraining_keeps {s₀ s : State} (h : Keeps s₀ s) (ch : Nat) : Keeps s₀ (State.startRetraining s ch) := by
  unfold State.startRetraining
  try dsimp only
  repeat' (first
    | (with_reducible first | assumption | apply State.recompute_keeps | apply State.trace_keeps | apply State.onChannel_keeps | apply State.drainTo_keeps | apply State.runChannel_keeps))

theorem execWriteDqRetrainTurn_keeps (ch : ChannelId) (drift : BitVec 16) (s : State) : ∃ t, execWriteDqRetrainTurn ch drift s = .next t ∧ Keeps s t := by
  have h := Keeps.refl s
  unfold execWriteDqRetrainTurn
  try dsimp only
  repeat' (first
    | refine ⟨_, rfl, ?_⟩
    | (with_reducible first | assumption | apply State.startRetraining_keeps | apply State.onChannel_keeps | apply Keeps.onDram)
    | (intro _; rfl) | split | (intro _; dsimp only; split <;> rfl))

theorem execWriteDqRetrainDone_keeps (ch : ChannelId) (passed : Bool) (stallNs : BitVec 32) (s : State) : ∃ t, execWriteDqRetrainDone ch passed stallNs s = .next t ∧ Keeps s t := by
  have h := Keeps.refl s
  unfold execWriteDqRetrainDone
  try dsimp only
  repeat' (first
    | refine ⟨_, rfl, ?_⟩
    | (with_reducible first | assumption | apply State.recompute_keeps | apply State.takeOut_keeps | apply State.trace_keeps | apply State.onChannel_keeps | apply State.runChannel_keeps | apply State.finishRetrain_keeps | apply State.raiseLimited_keeps)
    | split)

theorem State.loseMasked_keeps {s₀ s : State} (h : Keeps s₀ s) (ch mask : Nat) : Keeps s₀ (s.loseMasked ch mask) :=
  h.trans ⟨rfl, rfl, rfl, rfl, Nat.le_refl _, fun x => ⟨State.loseMasked_wf ch mask x.memory, x.latched, x.asleep⟩⟩

theorem State.sleepChannel_keeps {s₀ s : State} (h : Keeps s₀ s) (ch : Nat) : Keeps s₀ (State.sleepChannel s ch) := by
  unfold State.sleepChannel
  try dsimp only
  repeat' (first
    | (with_reducible first | assumption | apply State.onChannel_keeps | apply State.loseMasked_keeps | apply State.drainTo_keeps) | split)

theorem execChannelSelfRefreshEntry_keeps (ch : ChannelId) (s : State) : ∃ t, execChannelSelfRefreshEntry ch s = .next t ∧ Keeps s t := by
  have h := Keeps.refl s
  unfold execChannelSelfRefreshEntry
  try dsimp only
  repeat' first | refine ⟨_, rfl, ?_⟩ | (with_reducible first | assumption | apply State.sleepChannel_keeps) | split

theorem State.downGroup_keeps {s₀ s : State} (h : Keeps s₀ s) (g : Nat) : Keeps s₀ (State.downGroup s g) := by
  unfold State.downGroup
  try dsimp only
  repeat' (first
    | (with_reducible first | assumption | apply State.trace_keeps | apply State.onGroup_keeps | apply State.sleepChannel_keeps | apply Keeps.fold)
    | (intro _ _ _; try dsimp only))

theorem execGroupPowerDownEntry_keeps (g : GroupId) (abandoned : Bool) (s : State) : ∃ t, execGroupPowerDownEntry g abandoned s = .next t ∧ Keeps s t := by
  have h := Keeps.refl s
  unfold execGroupPowerDownEntry
  try dsimp only
  repeat' (first
    | refine ⟨_, rfl, ?_⟩
    | (with_reducible first | assumption | apply State.downGroup_keeps | apply State.onGroup_keeps | apply State.sleepChannel_keeps | apply Keeps.fold)
    | split | (intro _ _ _; try dsimp only))

theorem State.upGroup_keeps {s₀ s : State} (h : Keeps s₀ s) (g ns : Nat) : Keeps s₀ (State.upGroup s g ns) := by
  unfold State.upGroup
  try dsimp only
  repeat' (first
    | (with_reducible first | assumption | apply State.trace_keeps | apply State.onGroup_keeps | apply State.leaveSelfRefresh_keeps | apply Keeps.fold)
    | split | (intro _ _ _; try dsimp only))

theorem execGroupWakeComplete_keeps (g : GroupId) (ns : BitVec 32) (s : State) : ∃ t, execGroupWakeComplete g ns s = .next t ∧ Keeps s t := by
  have h := Keeps.refl s
  unfold execGroupWakeComplete
  try dsimp only
  repeat' first | refine ⟨_, rfl, ?_⟩ | (with_reducible first | assumption | apply State.upGroup_keeps) | split

theorem execGetChannelStatus_keeps (p : Path) (ch : BitVec 8) (s : State) : ∃ t, execGetChannelStatus p ch s = .next t ∧ Keeps s t := by
  have h := Keeps.refl s
  unfold execGetChannelStatus
  try dsimp only
  repeat' (first
    | refine ⟨_, rfl, ?_⟩ | (with_reducible first | assumption | apply State.command_keeps | apply refuse_keeps) | split
    | (intro _ _; try dsimp only))

theorem execGetGroupStatus_keeps (p : Path) (g : BitVec 8) (s : State) : ∃ t, execGetGroupStatus p g s = .next t ∧ Keeps s t := by
  have h := Keeps.refl s
  unfold execGetGroupStatus
  try dsimp only
  repeat' (first
    | refine ⟨_, rfl, ?_⟩ | (with_reducible first | assumption | apply State.command_keeps | apply refuse_keeps) | split
    | (intro _ _; try dsimp only))

theorem execSetGroupPowerPolicy_keeps (p : Path) (g : BitVec 8) (enable : Bool) (groupUs chan100ns : BitVec 32) (s : State) : ∃ t, execSetGroupPowerPolicy p g enable groupUs chan100ns s = .next t ∧ Keeps s t := by
  have h := Keeps.refl s
  unfold execSetGroupPowerPolicy
  try dsimp only
  repeat' (first
    | refine ⟨_, rfl, ?_⟩
    | (with_reducible first | assumption | apply State.privileged_keeps | apply State.onGroup_keeps | apply refuse_keeps | apply Keeps.fold)
    | split | (intro _ _ _; try dsimp only) | (intro _ _; try dsimp only))

theorem execSetTrainingPolicy_keeps (p : Path) (zqMs : BitVec 16) (checkMs driftPs pollMs : BitVec 8) (s : State) : ∃ t, execSetTrainingPolicy p zqMs checkMs driftPs pollMs s = .next t ∧ Keeps s t := by
  have h := Keeps.refl s
  unfold execSetTrainingPolicy
  try dsimp only
  repeat' (first
    | refine ⟨_, rfl, ?_⟩ | (with_reducible first | assumption | apply State.privileged_keeps | apply refuse_keeps | apply Keeps.onDram)
    | (intro _; rfl) | split | (intro _ _; try dsimp only) | (intro _; dsimp only; split <;> rfl))

theorem execSetDramSpeed_keeps (p : Path) (speed : BitVec 8) (s : State) : ∃ t, execSetDramSpeed p speed s = .next t ∧ Keeps s t := by
  have h := Keeps.refl s
  unfold execSetDramSpeed
  try dsimp only
  repeat' (first
    | refine ⟨_, rfl, ?_⟩ | (with_reducible first | assumption | apply State.privileged_keeps | apply refuse_keeps | apply Keeps.onDram)
    | (intro _; rfl) | split | (intro _ _; try dsimp only) | (intro _; dsimp only; split <;> rfl))

theorem execSetBankHashMasks_keeps (p : Path) (m0 m1 m2 : BitVec 64) (s : State) : ∃ t, execSetBankHashMasks p m0 m1 m2 s = .next t ∧ Keeps s t := by
  have h := Keeps.refl s
  unfold execSetBankHashMasks
  try dsimp only
  repeat' (first
    | refine ⟨_, rfl, ?_⟩ | (with_reducible first | assumption | apply State.privileged_keeps | apply refuse_keeps | apply Keeps.onDram)
    | (intro _; rfl) | split | (intro _ _; try dsimp only) | (intro _; dsimp only; split <;> rfl))

theorem execGetAddressMap_keeps (p : Path) (slot : BitVec 64) (s : State) : ∃ t, execGetAddressMap p slot s = .next t ∧ Keeps s t := by
  have h := Keeps.refl s
  unfold execGetAddressMap
  try dsimp only
  repeat' (first
    | refine ⟨_, rfl, ?_⟩ | (with_reducible first | assumption | apply State.command_keeps | apply refuse_keeps) | split
    | (intro _ _; try dsimp only))

theorem execRetrainChannel_keeps (p : Path) (ch kind : BitVec 8) (s : State) : ∃ t, execRetrainChannel p ch kind s = .next t ∧ Keeps s t := by
  have h := Keeps.refl s
  unfold execRetrainChannel
  try dsimp only
  repeat' (first
    | refine ⟨_, rfl, ?_⟩
    | (with_reducible first | assumption | apply State.privilegedBackground_keeps | apply State.onChannel_keeps | apply State.finishBackground_keeps | apply State.wantTurn_keeps | apply Keeps.onDram)
    | (intro _; rfl) | split | (intro _ _; try dsimp only) | (intro _; dsimp only; split <;> rfl))

theorem execStripeRebuild_keeps (ch : ChannelId) (s : State) : ∃ t, execStripeRebuild ch s = .next t ∧ Keeps s t := by
  have h := Keeps.refl s
  unfold execStripeRebuild
  try dsimp only
  repeat' (first
    | refine ⟨_, rfl, ?_⟩
    | (with_reducible first | assumption | apply State.onChannel_keeps | apply State.settleFetch_keeps | apply State.setSlot_keeps | apply State.rebuildMember_keeps)
    | split)

theorem execStripeLockGrant_keeps (s : State) : ∃ t, execStripeLockGrant s = .next t ∧ Keeps s t := by
  have h := Keeps.refl s
  unfold execStripeLockGrant
  try dsimp only
  repeat' first | refine ⟨_, rfl, ?_⟩ | (with_reducible first | assumption | apply State.retryGathers_keeps | apply State.retry_keeps)

theorem execRereadClassify_keeps (ch : ChannelId) (s : State) : ∃ t, execRereadClassify ch s = .next t ∧ Keeps s t := by
  have h := Keeps.refl s
  unfold execRereadClassify
  try dsimp only
  repeat' first | refine ⟨_, rfl, ?_⟩ | (with_reducible first | assumption | apply State.execMany_keeps) | split

theorem execRetirementMovesResume_keeps (s : State) : ∃ t, execRetirementMovesResume s = .next t ∧ Keeps s t := by
  have h := Keeps.refl s
  unfold execRetirementMovesResume
  try dsimp only
  repeat' (first
    | refine ⟨_, rfl, ?_⟩ | (with_reducible first | assumption | apply State.wantRebuild_keeps | apply Keeps.fold | apply Keeps.onSpare)
    | split | (intro _ _ _; try dsimp only))

theorem State.scrubTiles_keeps {s₀ s : State} (h : Keeps s₀ s) (c : Nat) (b : Batten) (xs : List (Option (List Byte))) (source : Nat) : Keeps s₀ (State.scrubTiles s c b xs source) := by
  unfold State.scrubTiles
  try dsimp only
  repeat' (first
    | (with_reducible first | assumption | apply State.syncPoison_keeps | apply State.poisonLines_keeps | apply State.badTileSlots_keeps | apply Keeps.fold)
    | split | (intro _ _ _; try dsimp only))

theorem State.scrubOverflow_keeps {s₀ s : State} (h : Keeps s₀ s) (c : Nat) (b : Batten) (source : Nat) : Keeps s₀ (State.scrubOverflow s c b source) := by
  unfold State.scrubOverflow
  try dsimp only
  repeat' (first
    | (with_reducible first | assumption | apply State.syncPoison_keeps | apply State.poisonLines_keeps | apply State.badTileSlots_keeps | apply State.readRun_keeps | apply Keeps.fold)
    | split | (intro _ _ _; try dsimp only))

theorem State.scrubCourse_keeps {s₀ s : State} (h : Keeps s₀ s) (c : Nat) (b : Batten) (source : Nat) : Keeps s₀ (State.scrubCourse s c b source) := by
  unfold State.scrubCourse
  try dsimp only
  repeat' (first
    | (with_reducible first | assumption | apply State.scrubOverflow_keeps | apply State.scrubTiles_keeps | apply State.readRun_keeps | apply State.promoteNow_keeps)
    | split)

theorem State.patrolCourse_keeps {s₀ s : State} (h : Keeps s₀ s) (c : Nat) (b : Batten) (next : Sparing → Sparing) : Keeps s₀ (State.patrolCourse s c b next) := by
  unfold State.patrolCourse
  try dsimp only
  repeat' first | (with_reducible first | assumption | apply State.scrubCourse_keeps | apply Keeps.onSpare) | split

theorem State.patrolTables_keeps {s₀ s : State} (h : Keeps s₀ s) : Keeps s₀ (State.patrolTables s) := by
  unfold State.patrolTables
  try dsimp only
  repeat' (first
    | (with_reducible first | assumption | apply State.readTableSlot_keeps | apply Keeps.fold) | split | (intro _ _ _; try dsimp only))

theorem State.endLap_keeps {s₀ s : State} (h : Keeps s₀ s) : Keeps s₀ (State.endLap s) := by
  unfold State.endLap
  try dsimp only
  repeat' first | (with_reducible first | assumption | apply State.raiseAll_keeps | apply Keeps.onSpare)

theorem State.patrolStep_keeps {s₀ s : State} (h : Keeps s₀ s) : Keeps s₀ (State.patrolStep s) := by
  unfold State.patrolStep
  try dsimp only
  repeat' (first
    | (with_reducible first | assumption | apply State.patrolCourse_keeps | apply State.endLap_keeps | apply State.patrolTables_keeps | apply Keeps.onSpare)
    | split)

theorem execPatrolRead_keeps (s : State) : ∃ t, execPatrolRead s = .next t ∧ Keeps s t := by
  have h := Keeps.refl s
  unfold execPatrolRead
  try dsimp only
  repeat' first | refine ⟨_, rfl, ?_⟩ | (with_reducible first | assumption | apply State.patrolStep_keeps) | split

theorem execPatrolLapOverdue_keeps (s : State) : ∃ t, execPatrolLapOverdue s = .next t ∧ Keeps s t := by
  have h := Keeps.refl s
  unfold execPatrolLapOverdue
  try dsimp only
  repeat' first | refine ⟨_, rfl, ?_⟩ | (with_reducible first | assumption | apply State.raiseAll_keeps | apply Keeps.onSpare) | split

theorem State.endScrub_keeps {s₀ s : State} (h : Keeps s₀ s) (l : LdId) (x : RangeScrub) (rc : ReturnCode) : Keeps s₀ (State.endScrub s l x rc) := by
  unfold State.endScrub
  try dsimp only
  repeat' first | (with_reducible first | assumption | apply State.finishBackground_keeps | apply State.raise_keeps | apply Keeps.onSpare)

theorem State.deepScrub_keeps {s₀ s : State} (h : Keeps s₀ s) (c : Nat) (b : Batten) : Keeps s₀ (State.deepScrub s c b).1 := by
  unfold State.deepScrub
  try dsimp only
  repeat' (first
    | (with_reducible first | assumption | apply State.syncPoison_keeps | apply State.poisonLines_keeps | apply State.readTile_keeps | apply State.promoteNow_keeps | apply State.decodeThatched_keeps | apply Keeps.foldl)
    | split | (intro _ _ _; try dsimp only))

theorem execRangeScrubStep_keeps (ld : LdId) (s : State) : ∃ t, execRangeScrubStep ld s = .next t ∧ Keeps s t := by
  have h := Keeps.refl s
  unfold execRangeScrubStep
  try dsimp only
  repeat' (first
    | refine ⟨_, rfl, ?_⟩
    | (with_reducible first | assumption | apply State.progress_keeps | apply State.endScrub_keeps | apply State.scrubCourse_keeps | apply State.loadBatten_keeps | apply State.deepScrub_keeps | apply Keeps.onSpare)
    | split)

theorem execGetCodeStatus_keeps (p : Path) (s : State) : ∃ t, execGetCodeStatus p s = .next t ∧ Keeps s t := by
  have h := Keeps.refl s
  unfold execGetCodeStatus
  try dsimp only
  repeat' first | refine ⟨_, rfl, ?_⟩ | (with_reducible first | assumption | apply State.command_keeps) | (intro _ _; try dsimp only)

theorem execGetSpareStatus_keeps (p : Path) (s : State) : ∃ t, execGetSpareStatus p s = .next t ∧ Keeps s t := by
  have h := Keeps.refl s
  unfold execGetSpareStatus
  try dsimp only
  repeat' first | refine ⟨_, rfl, ?_⟩ | (with_reducible first | assumption | apply State.command_keeps) | (intro _ _; try dsimp only)

theorem execStartRangeScrub_keeps (p : Path) (dpa : BitVec 64) (courses : BitVec 32) (deep : Bool) (share : BitVec 8) (s : State) : ∃ t, execStartRangeScrub p dpa courses deep share s = .next t ∧ Keeps s t := by
  have h := Keeps.refl s
  unfold execStartRangeScrub
  try dsimp only
  repeat' (first
    | refine ⟨_, rfl, ?_⟩ | (with_reducible first | assumption | apply State.background_keeps | apply Keeps.onSpare) | split
    | (intro _ _; try dsimp only))

theorem State.beginPatrol_keeps {s₀ s : State} (h : Keeps s₀ s) : Keeps s₀ (State.beginPatrol s) := by
  unfold State.beginPatrol
  try dsimp only
  repeat' first | (with_reducible first | assumption | apply State.setReady_keeps | apply Keeps.onSpare) | split

theorem execSetPatrolPolicy_keeps (p : Path) (enable : Bool) (minutes : BitVec 32) (s : State) : ∃ t, execSetPatrolPolicy p enable minutes s = .next t ∧ Keeps s t := by
  have h := Keeps.refl s
  unfold execSetPatrolPolicy
  try dsimp only
  repeat' (first
    | refine ⟨_, rfl, ?_⟩
    | (with_reducible first | assumption | apply State.privileged_keeps | apply State.setReady_keeps | apply State.beginPatrol_keeps | apply refuse_keeps | apply Keeps.onSpare)
    | split | (intro _ _; try dsimp only))

theorem execGetFaultRecords_keeps (p : Path) (first : BitVec 32) (count : BitVec 16) (s : State) : ∃ t, execGetFaultRecords p first count s = .next t ∧ Keeps s t := by
  have h := Keeps.refl s
  unfold execGetFaultRecords
  try dsimp only
  repeat' (first
    | refine ⟨_, rfl, ?_⟩ | (with_reducible first | assumption | apply State.command_keeps | apply refuse_keeps) | split
    | (intro _ _; try dsimp only))

theorem State.reviewFaults_keeps {s₀ s : State} (h : Keeps s₀ s) : Keeps s₀ (State.reviewFaults s) := by
  unfold State.reviewFaults
  try dsimp only
  repeat' first | (with_reducible first | assumption | apply State.judge_keeps | apply Keeps.fold) | split | (intro _ _ _; try dsimp only)

theorem execSetRetirementPolicy_keeps (p : Path) (rowThreshold dieBanks : BitVec 8) (rankRows : BitVec 16) (share : BitVec 8) (hold : Bool) (s : State) : ∃ t, execSetRetirementPolicy p rowThreshold dieBanks rankRows share hold s = .next t ∧ Keeps s t := by
  have h := Keeps.refl s
  unfold execSetRetirementPolicy
  try dsimp only
  repeat' (first
    | refine ⟨_, rfl, ?_⟩
    | (with_reducible first | assumption | apply State.privileged_keeps | apply State.reviewFaults_keeps | apply State.retire_keeps | apply refuse_keeps | apply Keeps.fold | apply Keeps.onSpare)
    | split | (intro _ _ _; try dsimp only) | (intro _ _; try dsimp only))

theorem execRetireStorage_keeps (p : Path) (kind ch rank bank : BitVec 8) (row : BitVec 32) (s : State) : ∃ t, execRetireStorage p kind ch rank bank row s = .next t ∧ Keeps s t := by
  have h := Keeps.refl s
  unfold execRetireStorage
  try dsimp only
  repeat' (first
    | refine ⟨_, rfl, ?_⟩ | (with_reducible first | assumption | apply State.privilegedBackground_keeps | apply State.retire_keeps)
    | split | (intro _ _; try dsimp only))

theorem execClearRetirement_keeps (p : Path) (kind ch rank bank : BitVec 8) (row : BitVec 32) (s : State) : ∃ t, execClearRetirement p kind ch rank bank row s = .next t ∧ Keeps s t := by
  have h := Keeps.refl s
  unfold execClearRetirement
  try dsimp only
  repeat' (first
    | refine ⟨_, rfl, ?_⟩ | (with_reducible first | assumption | apply State.privileged_keeps | apply refuse_keeps | apply Keeps.onSpare)
    | split | (intro _ _; try dsimp only))

theorem State.corrupt_keeps {s₀ s : State} (h : Keeps s₀ s) (slot : Nat) (e : List Byte) : Keeps s₀ (State.corrupt s slot e) := by
  unfold State.corrupt
  try dsimp only
  repeat' first | (with_reducible first | assumption | apply State.storeSlot_keeps | apply State.drainTo_keeps | apply Keeps.onXlat) | split

theorem execInjectSlotError_keeps (p : Path) (slot : BitVec 64) (count first : BitVec 8) (pattern : Byte) (s : State) : ∃ t, execInjectSlotError p slot count first pattern s = .next t ∧ Keeps s t := by
  have h := Keeps.refl s
  unfold execInjectSlotError
  try dsimp only
  repeat' (first
    | refine ⟨_, rfl, ?_⟩
    | (with_reducible first | assumption | apply State.privileged_keeps | apply State.corrupt_keeps | apply refuse_keeps) | split
    | (intro _ _; try dsimp only))

theorem execLandedRequestEnterStore_keeps (s : State) : ∃ t, execLandedRequestEnterStore s = .next t ∧ Keeps s t := by
  have h := Keeps.refl s
  unfold execLandedRequestEnterStore
  try dsimp only
  repeat' first | refine ⟨_, rfl, ?_⟩ | (with_reducible first | assumption | apply State.enqueue_keeps | apply Keeps.onReg) | split

theorem execHistogramSample_keeps (s : State) : ∃ t, execHistogramSample s = .next t ∧ Keeps s t := by
  have h := Keeps.refl s
  unfold execHistogramSample
  try dsimp only
  repeat' (first
    | refine ⟨_, rfl, ?_⟩ | (with_reducible first | assumption | apply Keeps.onReg | apply Keeps.fold) | split
    | (intro _ _ _; try dsimp only))

theorem execDeliverableRateInterval_keeps (s : State) : ∃ t, execDeliverableRateInterval s = .next t ∧ Keeps s t := by
  have h := Keeps.refl s
  unfold execDeliverableRateInterval
  try dsimp only
  repeat' (first
    | refine ⟨_, rfl, ?_⟩ | (with_reducible first | assumption | apply State.rateInterval_keeps | apply Keeps.onReg | apply Keeps.onLink)
    | split)

theorem execUrgencyPinChange_keeps (pair level : BitVec 2) (s : State) : ∃ t, execUrgencyPinChange pair level s = .next t ∧ Keeps s t := by
  have h := Keeps.refl s
  unfold execUrgencyPinChange
  try dsimp only
  repeat' first | refine ⟨_, rfl, ?_⟩ | (with_reducible first | assumption | apply Keeps.onReg)

theorem execGetRegulationStatus_keeps (p : Path) (s : State) : ∃ t, execGetRegulationStatus p s = .next t ∧ Keeps s t := by
  have h := Keeps.refl s
  unfold execGetRegulationStatus
  try dsimp only
  repeat' (first
    | refine ⟨_, rfl, ?_⟩ | (with_reducible first | assumption | apply State.command_keeps) | split | (intro _ _; try dsimp only))

theorem execSetQueueRegulation_keeps (p : Path) (q : QueueReg) (s : State) : ∃ t, execSetQueueRegulation p q s = .next t ∧ Keeps s t := by
  have h := Keeps.refl s
  unfold execSetQueueRegulation
  try dsimp only
  repeat' (first
    | refine ⟨_, rfl, ?_⟩
    | (with_reducible first | assumption | apply State.privileged_keeps | apply State.onQueue_keeps | apply refuse_keeps) | split
    | (intro _ _; try dsimp only))

theorem execGetQueue_keeps (p : Path) (rid : BitVec 12) (cls : BitVec 8) (s : State) : ∃ t, execGetQueue p rid cls s = .next t ∧ Keeps s t := by
  have h := Keeps.refl s
  unfold execGetQueue
  try dsimp only
  repeat' (first
    | refine ⟨_, rfl, ?_⟩ | (with_reducible first | assumption | apply State.command_keeps | apply refuse_keeps) | split
    | (intro _ _; try dsimp only))

theorem execSetClassRegulation_keeps (p : Path) (cls weight : BitVec 8) (on : Bool) (rate : BitVec 24) (burst : BitVec 16) (s : State) : ∃ t, execSetClassRegulation p cls weight on rate burst s = .next t ∧ Keeps s t := by
  have h := Keeps.refl s
  unfold execSetClassRegulation
  try dsimp only
  repeat' (first
    | refine ⟨_, rfl, ?_⟩
    | (with_reducible first | assumption | apply State.privileged_keeps | apply State.onClass_keeps | apply refuse_keeps) | split
    | (intro _ _; try dsimp only))

theorem execSetClassGuarantee_keeps (p : Path) (cls : BitVec 8) (guarantee : BitVec 24) (burst : BitVec 16) (s : State) : ∃ t, execSetClassGuarantee p cls guarantee burst s = .next t ∧ Keeps s t := by
  have h := Keeps.refl s
  unfold execSetClassGuarantee
  try dsimp only
  repeat' (first
    | refine ⟨_, rfl, ?_⟩
    | (with_reducible first | assumption | apply State.privileged_keeps | apply State.raiseAll_keeps | apply State.onClass_keeps | apply State.scaleGuarantees_keeps | apply refuse_keeps)
    | split | (intro _ _; try dsimp only))

theorem execSetUrgencySource_keeps (p : Path) (kind index : BitVec 8) (rid : BitVec 16) (map : BitVec 24) (s : State) : ∃ t, execSetUrgencySource p kind index rid map s = .next t ∧ Keeps s t := by
  have h := Keeps.refl s
  unfold execSetUrgencySource
  try dsimp only
  repeat' (first
    | refine ⟨_, rfl, ?_⟩
    | (with_reducible first | assumption | apply State.privileged_keeps | apply refuse_keeps | apply State.onClass_keeps | apply Keeps.onReg)
    | split | (intro _ _; try dsimp only))

theorem execSetHistogramMonitor_keeps (p : Path) (slot : BitVec 16) (action cls : BitVec 8) (rid : BitVec 12) (us : BitVec 32) (s : State) : ∃ t, execSetHistogramMonitor p slot action cls rid us s = .next t ∧ Keeps s t := by
  have h := Keeps.refl s
  unfold execSetHistogramMonitor
  try dsimp only
  repeat' (first
    | refine ⟨_, rfl, ?_⟩ | (with_reducible first | assumption | apply State.command_keeps | apply refuse_keeps | apply Keeps.onReg)
    | split | (intro _ _; try dsimp only))

theorem State.changeEpoch_keeps {s₀ s : State} (h : Keeps s₀ s) : Keeps s₀ (State.changeEpoch s) := by
  unfold State.changeEpoch
  try dsimp only
  repeat' (first
    | (with_reducible first | assumption | apply State.announce_keeps | apply Keeps.fold | apply Keeps.onLink) | split
    | (intro _ _ _; try dsimp only))

theorem State.settlePair_keeps {s₀ s : State} (h : Keeps s₀ s) (d : Nat) : Keeps s₀ (State.settlePair s d) := by
  unfold State.settlePair
  try dsimp only
  repeat' (first
    | (with_reducible first | assumption | apply State.pump_keeps | apply State.changeEpoch_keeps | apply State.onPeer_keeps) | split)

theorem State.creditFor_keeps {s₀ s : State} (h : Keeps s₀ s) (d n : Nat) : Keeps s₀ (State.creditFor s d n).1 := by
  unfold State.creditFor
  try dsimp only
  repeat' first | (with_reducible first | assumption | apply State.onPeer_keeps) | split

theorem State.ackField_keeps {s₀ s : State} (h : Keeps s₀ s) (d : Nat) (h : Header) : Keeps s₀ (State.ackField s d h) := by
  unfold State.ackField
  try dsimp only
  repeat' first | (with_reducible first | assumption | apply State.onPeer_keeps) | split

theorem State.dropPacket_keeps {s₀ s : State} (h : Keeps s₀ s) (p cause : Nat) : Keeps s₀ (State.dropPacket s p cause) := by
  unfold State.dropPacket
  try dsimp only
  repeat' first | (with_reducible first | assumption | apply State.raiseLimited_keeps | apply State.onRport_keeps)

theorem State.refillPort_keeps {s₀ s : State} (h : Keeps s₀ s) (p : Nat) (l : Nat) : Keeps s₀ (State.refillPort s p l) := by
  induction l generalizing s p with
  | zero =>
    unfold State.refillPort
    try dsimp only
    repeat' first | (with_reducible first | assumption | apply State.onRport_keeps) | split
  | succ n ih =>
    unfold State.refillPort
    try dsimp only
    repeat' first | (with_reducible first | assumption | apply ih | apply State.onRport_keeps) | split

theorem State.refillGutter_keeps {s₀ s : State} (h : Keeps s₀ s) : Keeps s₀ (State.refillGutter s) := by
  unfold State.refillGutter
  try dsimp only
  repeat' first | (with_reducible first | assumption | apply State.refillPort_keeps | apply Keeps.fold) | (intro _ _ _; try dsimp only)

theorem State.forward_keeps {s₀ s : State} (h : Keeps s₀ s) (p : Nat) (packet : List Byte) : Keeps s₀ (State.forward s p packet) := by
  unfold State.forward
  try dsimp only
  repeat' first | (with_reducible first | assumption | apply State.onRport_keeps | apply State.dropPacket_keeps) | split

theorem State.requestSync_keeps {s₀ s : State} (h : Keeps s₀ s) (d : Nat) : Keeps s₀ (State.requestSync s d) := by
  unfold State.requestSync
  try dsimp only
  repeat' first | (with_reducible first | assumption | apply State.sendUnsequenced_keeps)

theorem State.dropOfPair_keeps {s₀ s : State} (h : Keeps s₀ s) (d : Nat) : Keeps s₀ (State.dropOfPair s d) := by
  unfold State.dropOfPair
  try dsimp only
  repeat' first | (with_reducible first | assumption | apply State.onPeer_keeps)

theorem State.resend_keeps {s₀ s : State} (h : Keeps s₀ s) (d n : Nat) : Keeps s₀ (State.resend s d n) := by
  unfold State.resend
  try dsimp only
  repeat' (first
    | (with_reducible first | assumption | apply State.dropOfPair_keeps | apply State.transmit_keeps | apply State.onPeer_keeps) | split)

theorem State.takeSeq_keeps {s₀ s : State} (h : Keeps s₀ s) (d n : Nat) : Keeps s₀ (State.takeSeq s d n).1 := by
  unfold State.takeSeq
  try dsimp only
  repeat' (first
    | (with_reducible first | assumption | apply State.dropOfPair_keeps | apply State.onPeer_keeps | apply State.resend_keeps | apply State.requestSync_keeps)
    | split)

theorem State.tagFailure_keeps {s₀ s : State} (h : Keeps s₀ s) (h : Header) (kind : Nat) : Keeps s₀ (State.tagFailure s h kind) := by
  unfold State.tagFailure
  try dsimp only
  repeat' first | (with_reducible first | assumption | apply State.raiseAll_keeps | apply Keeps.onFlash)

theorem State.enterStore_keeps {s₀ s : State} (h : Keeps s₀ s) (r : Request) : Keeps s₀ (State.enterStore s r) := by
  unfold State.enterStore
  try dsimp only
  repeat' (first
    | (with_reducible first | assumption | apply State.setWithheld_keeps | apply State.enqueue_keeps | apply Keeps.onReg) | split)

theorem State.takeRequest_keeps {s₀ s : State} (h : Keeps s₀ s) (h : Header) (o : Option (List Byte)) : Keeps s₀ (State.takeRequest s h o) := by
  unfold State.takeRequest
  try dsimp only
  repeat' (first
    | (with_reducible first | assumption | apply State.enterStore_keeps | apply State.tagFailure_keeps | apply State.respond_keeps)
    | split)

theorem State.settleEntry_keeps {s₀ s : State} (h : Keeps s₀ s) (h : Header) (e : Held) (o : Option (List Byte)) : Keeps s₀ (State.settleEntry s h e o) := by
  unfold State.settleEntry
  try dsimp only
  repeat' (first
    | (with_reducible first | assumption | apply State.answer_keeps | apply State.raise_keeps | apply State.settleMirror_keeps) | split)

theorem State.takeResponse_keeps {s₀ s : State} (h : Keeps s₀ s) (h : Header) (o : Option (List Byte)) : Keeps s₀ (State.takeResponse s h o) := by
  unfold State.takeResponse
  try dsimp only
  repeat' (first
    | (with_reducible first | assumption | apply State.settlePair_keeps | apply State.ackField_keeps | apply State.tagFailure_keeps | apply State.settleEntry_keeps | apply State.creditFor_keeps)
    | split)

theorem State.takeControl_keeps {s₀ s : State} (h : Keeps s₀ s) (h : Header) (o : Option (List Byte)) : Keeps s₀ (State.takeControl s h o).1 := by
  unfold State.takeControl
  try dsimp only
  repeat' (first
    | (with_reducible first | assumption | apply State.settlePair_keeps | apply State.ackField_keeps | apply State.settleEntry_keeps | apply State.creditFor_keeps | apply State.tagFailure_keeps)
    | split)

theorem State.takeAck_keeps {s₀ s : State} (h : Keeps s₀ s) (h : Header) (packet : List Byte) : Keeps s₀ (State.takeAck s h packet) := by
  unfold State.takeAck
  try dsimp only
  repeat' (first
    | (with_reducible first | assumption | apply State.tagFailure_keeps | apply State.settlePair_keeps | apply State.ackField_keeps | apply State.onPeer_keeps)
    | split)

theorem State.loseEntries_keeps {s₀ s : State} (h : Keeps s₀ s) (d : Nat) (keepMirrored : Bool) (lost : Held → Bool) : Keeps s₀ (State.loseEntries s d keepMirrored lost).1 := by
  unfold State.loseEntries
  try dsimp only
  repeat' (first
    | (with_reducible first | assumption | apply State.onPeer_keeps | apply State.remoteLost_keeps | apply State.answer_keeps | apply State.settleMirror_keeps | apply Keeps.fold)
    | split | (intro _ _ _; try dsimp only))

theorem State.takeSync_keeps {s₀ s : State} (h : Keeps s₀ s) (h : Header) (iv : SyncIv) (packet : List Byte) : Keeps s₀ (State.takeSync s h iv packet) := by
  unfold State.takeSync
  try dsimp only
  repeat' (first
    | (with_reducible first | assumption | apply State.tagFailure_keeps | apply State.settlePair_keeps | apply State.ackField_keeps | apply State.onPeer_keeps | apply State.raiseAll_keeps | apply State.sendUnsequenced_keeps | apply State.announce_keeps | apply State.loseEntries_keeps)
    | split)

theorem State.receive_keeps {s₀ s : State} (h : Keeps s₀ s) (iv : Option SyncIv) (packet : List Byte) : Keeps s₀ (State.receive s iv packet).1 := by
  unfold State.receive
  try dsimp only
  repeat' (first
    | (with_reducible first | assumption | apply State.settlePair_keeps | apply State.ackField_keeps | apply State.takeRequest_keeps | apply State.takeSeq_keeps | apply State.wakeDrowse_keeps | apply State.takeResponse_keeps | apply State.takeControl_keeps | apply State.takeSync_keeps | apply State.takeAck_keeps)
    | split)

theorem State.land_keeps {s₀ s : State} (h : Keeps s₀ s) (p : Nat) (iv : Option SyncIv) (packet : List Byte) : Keeps s₀ (State.land s p iv packet).1 := by
  unfold State.land
  try dsimp only
  repeat' (first
    | (with_reducible first | assumption | apply State.forward_keeps | apply State.countBytes_keeps | apply State.receive_keeps | apply State.dropPacket_keeps)
    | split)

theorem State.egress_keeps {s₀ s : State} (h : Keeps s₀ s) (p : Nat) : Keeps s₀ (State.egress s p) := by
  unfold State.egress
  try dsimp only
  repeat' (first
    | (with_reducible first | assumption | apply State.countBytes_keeps | apply State.refillGutter_keeps | apply State.onRport_keeps | apply State.beginRotation_keeps | apply Keeps.emit)
    | split)

theorem State.replay_keeps {s₀ s : State} (h : Keeps s₀ s) (d : Nat) : Keeps s₀ (State.replay s d) := by
  unfold State.replay
  try dsimp only
  repeat' (first
    | (with_reducible first | assumption | apply State.bumps_keeps | apply State.onPeer_keeps | apply State.onRport_keeps | apply Keeps.onLink)
    | split)

theorem State.failover_keeps {s₀ s : State} (h : Keeps s₀ s) (p : Nat) : Keeps s₀ (State.failover s p) := by
  unfold State.failover
  try dsimp only
  repeat' (first
    | (with_reducible first | assumption | apply State.onRport_keeps | apply State.onPeer_keeps | apply State.replay_keeps | apply Keeps.fold)
    | split | (intro _ _ _; try dsimp only))

theorem State.fenceLane_keeps {s₀ s : State} (h : Keeps s₀ s) (p lane cause : Nat) : Keeps s₀ (State.fenceLane s p lane cause) := by
  unfold State.fenceLane
  try dsimp only
  repeat' first | (with_reducible first | assumption | apply State.raiseAll_keeps | apply State.onRport_keeps) | split

theorem State.rafterBit_keeps {s₀ s : State} (h : Keeps s₀ s) (p : Nat) (up : Bool) : Keeps s₀ (State.rafterBit s p up) := by
  unfold State.rafterBit
  try dsimp only
  repeat' first | (with_reducible first | assumption | apply State.setReady_keeps)

theorem State.hopDown_keeps {s₀ s : State} (h : Keeps s₀ s) (p lane : Nat) : Keeps s₀ (State.hopDown s p lane) := by
  unfold State.hopDown
  try dsimp only
  repeat' (first
    | (with_reducible first | assumption | apply State.recompute_keeps | apply State.failover_keeps | apply State.raiseLimited_keeps | apply State.rafterBit_keeps | apply State.onRport_keeps | apply Keeps.fold | apply Keeps.emit)
    | (intro _ _ _; try dsimp only))

theorem State.laneError_keeps {s₀ s : State} (h : Keeps s₀ s) (p lane : Nat) : Keeps s₀ (State.laneError s p lane) := by
  unfold State.laneError
  try dsimp only
  repeat' (first
    | (with_reducible first | assumption | apply State.hopDown_keeps | apply State.bump_keeps | apply State.onRport_keeps | apply State.fenceLane_keeps)
    | split)

theorem State.hopRise_keeps {s₀ s : State} (h : Keeps s₀ s) (p : Nat) (x : HopTraining) (kind : Nat) : Keeps s₀ (State.hopRise s p x kind) := by
  unfold State.hopRise
  try dsimp only
  repeat' (first
    | (with_reducible first | assumption | apply State.recompute_keeps | apply State.rafterBit_keeps | apply State.onRport_keeps | apply State.raiseAll_keeps | apply State.pump_keeps | apply State.onPeer_keeps | apply Keeps.fold | apply Keeps.emit)
    | split | (intro _ _ _; try dsimp only))

theorem State.takeBlock_keeps {s₀ s : State} (h : Keeps s₀ s) (b : Nat) : Keeps s₀ (State.takeBlock s b) := by
  unfold State.takeBlock
  try dsimp only
  repeat' (first
    | (with_reducible first | assumption | apply State.onDir_keeps | apply State.startFill_keeps | apply Keeps.onCap | apply Keeps.onXlat)
    | split)

theorem State.dropBlock_keeps {s₀ s : State} (h : Keeps s₀ s) (b : Nat) : Keeps s₀ (State.dropBlock s b) := by
  unfold State.dropBlock
  try dsimp only
  repeat' first | (with_reducible first | assumption | apply State.onDir_keeps | apply State.clearBlock_keeps) | split

theorem State.dropCopies_keeps {s₀ s : State} (h : Keeps s₀ s) (i f : Nat) : Keeps s₀ (State.dropCopies s i f) := by
  unfold State.dropCopies
  try dsimp only
  repeat' (first
    | (with_reducible first | assumption | apply State.onPeer_keeps | apply State.settleMirror_keeps | apply Keeps.fold) | split
    | (intro _ _ _; try dsimp only))

theorem State.resendWrites_keeps {s₀ s : State} (h : Keeps s₀ s) (i old : Nat) (r : Range) : Keeps s₀ (State.resendWrites s i old r) := by
  unfold State.resendWrites
  try dsimp only
  repeat' (first
    | (with_reducible first | assumption | apply State.onPeer_keeps | apply State.enqueueSend_keeps | apply State.remoteLost_keeps | apply Keeps.fold)
    | split | (intro _ _ _; try dsimp only))

theorem State.rangeLoss_keeps {s₀ s : State} (h : Keeps s₀ s) (old : CascadeMap) (i : Nat) (r : Range) : Keeps s₀ (State.rangeLoss s old i r) := by
  unfold State.rangeLoss
  try dsimp only
  repeat' first | (with_reducible first | assumption | apply State.dropCopies_keeps | apply State.resendWrites_keeps) | split

theorem State.applyMap_keeps {s₀ s : State} (h : Keeps s₀ s) (m : CascadeMap) : Keeps s₀ (State.applyMap s m) := by
  unfold State.applyMap
  try dsimp only
  repeat' (first
    | (with_reducible first | assumption | apply State.dropBlock_keeps | apply State.takeBlock_keeps | apply State.rangeLoss_keeps | apply Keeps.onCasc | apply Keeps.fold)
    | (intro _ _ _; try dsimp only))

theorem State.claimFirst_keeps {s₀ s : State} (h : Keeps s₀ s) : Keeps s₀ (State.claimFirst s) := by
  unfold State.claimFirst
  try dsimp only
  repeat' first | (with_reducible first | assumption | apply Keeps.emit) | split

theorem State.announceTerm_keeps {s₀ s : State} (h : Keeps s₀ s) : Keeps s₀ (State.announceTerm s) := by
  unfold State.announceTerm
  try dsimp only
  repeat' first | (with_reducible first | assumption | apply Keeps.fold | apply Keeps.emit) | (intro _ _ _; try dsimp only)

theorem State.setJoined_keeps {s₀ s : State} (h : Keeps s₀ s) : Keeps s₀ (State.setJoined s) := by
  unfold State.setJoined
  try dsimp only
  repeat' (first
    | (with_reducible first | assumption | apply State.raiseAll_keeps | apply State.milestone_keeps | apply State.setReady_keeps | apply Keeps.onBoot | apply Keeps.onCasc))

theorem State.ridgeChanged_keeps {s₀ s : State} (h : Keeps s₀ s) (cause : Nat) : Keeps s₀ (State.ridgeChanged s cause) := by
  unfold State.ridgeChanged
  try dsimp only
  repeat' first | (with_reducible first | assumption | apply State.raiseAll_keeps)

theorem State.becomeRidge_keeps {s₀ s : State} (h : Keeps s₀ s) (id : Nat) : Keeps s₀ (State.becomeRidge s id) := by
  unfold State.becomeRidge
  try dsimp only
  repeat' (first
    | (with_reducible first | assumption | apply State.ridgeChanged_keeps | apply State.setJoined_keeps | apply State.applyMap_keeps | apply State.draw_keeps | apply Keeps.emit | apply Keeps.onCasc | apply Keeps.onFlash)
    | split)

theorem State.stepDown_keeps {s₀ s : State} (h : Keeps s₀ s) : Keeps s₀ (State.stepDown s) := by
  unfold State.stepDown
  try dsimp only
  repeat' (first
    | (with_reducible first | assumption | apply State.finishBackground_keeps | apply State.reply_keeps | apply Keeps.fold | apply Keeps.onFlash | apply Keeps.onCasc)
    | split | (intro _ _ _; try dsimp only))

theorem State.enforce_keeps {s₀ s : State} (h : Keeps s₀ s) (c : PendingChange) : Keeps s₀ (State.enforce s c) := by
  unfold State.enforce
  try dsimp only
  repeat' (first
    | (with_reducible first | assumption | apply State.reply_keeps | apply State.raiseAll_keeps | apply State.applyMap_keeps | apply Keeps.emit | apply Keeps.fold)
    | split | (intro _ _ _; try dsimp only))

theorem State.keepDeputy_keeps {s₀ s : State} (h : Keeps s₀ s) : Keeps s₀ (State.keepDeputy s) := by
  unfold State.keepDeputy
  try dsimp only
  repeat' first | (with_reducible first | assumption | apply State.announceTerm_keeps | apply Keeps.onCasc) | split

theorem State.sendChange_keeps {s₀ s : State} (h : Keeps s₀ s) (d : SledId) (c : PendingChange) : Keeps s₀ (State.sendChange s d c) := by
  unfold State.sendChange
  try dsimp only
  repeat' first | (with_reducible first | assumption | apply Keeps.emit)

theorem State.propose_keeps {s₀ s : State} (h : Keeps s₀ s) (c : PendingChange) : Keeps s₀ (State.propose s c) := by
  unfold State.propose
  try dsimp only
  repeat' (first
    | (with_reducible first | assumption | apply State.sendChange_keeps | apply State.announceTerm_keeps | apply State.keepDeputy_keeps | apply State.enforce_keeps | apply Keeps.onCasc | apply Keeps.fold)
    | split | (intro _ _ _; try dsimp only))

theorem State.acknowledged_keeps {s₀ s : State} (h : Keeps s₀ s) (version : Nat) : Keeps s₀ (State.acknowledged s version) := by
  unfold State.acknowledged
  try dsimp only
  repeat' (first
    | (with_reducible first | assumption | apply State.keepDeputy_keeps | apply State.enforce_keeps | apply Keeps.fold | apply Keeps.onCasc)
    | (intro _ _ _; try dsimp only))

theorem State.reportNeighbours_keeps {s₀ s : State} (h : Keeps s₀ s) : Keeps s₀ (State.reportNeighbours s) := by
  unfold State.reportNeighbours
  try dsimp only
  repeat' first | (with_reducible first | assumption | apply State.propose_keeps | apply Keeps.emit) | split

theorem State.probe_keeps {s₀ s : State} (h : Keeps s₀ s) (d : Nat) : Keeps s₀ (State.probe s d) := by
  unfold State.probe
  try dsimp only
  repeat' first | (with_reducible first | assumption | apply Keeps.emit | apply Keeps.onCasc) | split

theorem State.declareLost_keeps {s₀ s : State} (h : Keeps s₀ s) (d : Nat) : Keeps s₀ (State.declareLost s d) := by
  unfold State.declareLost
  try dsimp only
  repeat' (first
    | (with_reducible first | assumption | apply State.keepDeputy_keeps | apply State.propose_keeps | apply State.raiseAll_keeps | apply Keeps.onCasc))

theorem State.join_keeps {s₀ s : State} (h : Keeps s₀ s) (j : JoinReq) : Keeps s₀ (State.join s j) := by
  unfold State.join
  try dsimp only
  repeat' (first
    | (with_reducible first | assumption | apply State.raiseAll_keeps | apply State.propose_keeps | apply State.setWrapKey_keeps | apply State.ephemeral_keeps | apply Keeps.emit)
    | split)

theorem State.askJoin_keeps {s₀ s : State} (h : Keeps s₀ s) (ridge : SledId) : Keeps s₀ (State.askJoin s ridge) := by
  unfold State.askJoin
  try dsimp only
  repeat' first | (with_reducible first | assumption | apply State.ephemeral_keeps | apply Keeps.emit | apply Keeps.onCasc) | split

theorem State.takeGrant_keeps {s₀ s : State} (h : Keeps s₀ s) (g : JoinGrant) : Keeps s₀ (State.takeGrant s g) := by
  unfold State.takeGrant
  try dsimp only
  repeat' (first
    | (with_reducible first | assumption | apply State.setJoined_keeps | apply State.applyMap_keeps | apply State.setWrapKey_keeps | apply State.announce_keeps | apply Keeps.fold | apply Keeps.onCasc | apply Keeps.onFlash)
    | split | (intro _ _ _; try dsimp only))

theorem State.checkStandalone_keeps {s₀ s : State} (h : Keeps s₀ s) : Keeps s₀ (State.checkStandalone s) := by
  unfold State.checkStandalone
  try dsimp only
  repeat' first | (with_reducible first | assumption | apply State.setReady_keeps | apply State.stepDown_keeps | apply Keeps.onCasc) | split

theorem State.recordCopy_keeps {s₀ s : State} (h : Keeps s₀ s) (origin n : Nat) : Keeps s₀ (State.recordCopy s origin n).1 := by
  unfold State.recordCopy
  try dsimp only
  repeat' first | (with_reducible first | assumption | apply Keeps.onCasc) | split

theorem State.executeCopy_keeps {s₀ s : State} (h : Keeps s₀ s) (src seq : Nat) (c : MirrorCopy) : Keeps s₀ (State.executeCopy s src seq c) := by
  unfold State.executeCopy
  try dsimp only
  repeat' (first
    | (with_reducible first | assumption | apply State.serve_keeps | apply State.recordCopy_keeps | apply State.complete_keeps | apply State.discardCourse_keeps | apply Keeps.onReg)
    | split)

theorem State.courseLines_keeps {s₀ s : State} (h : Keeps s₀ s) (c : Nat) (b : Batten) : Keeps s₀ (State.courseLines s c b).1 := by
  unfold State.courseLines
  try dsimp only
  repeat' (first
    | (with_reducible first | assumption | apply State.readTile_keeps | apply State.decodeThatched_keeps | apply Keeps.foldl) | split
    | (intro _ _ _; try dsimp only))

theorem State.sendCopy_keeps {s₀ s : State} (h : Keeps s₀ s) (d line ctx flags : Nat) (poison : Bool) (data : List Byte) : Keeps s₀ (State.sendCopy s d line ctx flags poison data) := by
  unfold State.sendCopy
  try dsimp only
  repeat' first | (with_reducible first | assumption | apply State.enqueueSend_keeps | apply Keeps.onCasc)

theorem State.endResilver_keeps {s₀ s : State} (h : Keeps s₀ s) (i : Nat) (x : Resilver) : Keeps s₀ (State.endResilver s i x) := by
  unfold State.endResilver
  try dsimp only
  repeat' (first
    | (with_reducible first | assumption | apply State.raiseAll_keeps | apply State.propose_keeps | apply Keeps.emit | apply Keeps.onCasc)
    | split)

theorem State.resilverStep_keeps {s₀ s : State} (h : Keeps s₀ s) (i : Nat) (usable : Bool) : Keeps s₀ (State.resilverStep s i usable) := by
  unfold State.resilverStep
  try dsimp only
  repeat' (first
    | (with_reducible first | assumption | apply State.courseLines_keeps | apply State.loadBatten_keeps | apply State.closeCourse_keeps | apply State.sendCopy_keeps | apply State.endResilver_keeps | apply Keeps.onCasc | apply Keeps.fold)
    | split | (intro _ _ _; try dsimp only))

theorem execLaneParityError_keeps (port : RaftPort) (lane : BitVec 3) (s : State) : ∃ t, execLaneParityError port lane s = .next t ∧ Keeps s t := by
  have h := Keeps.refl s
  unfold execLaneParityError
  try dsimp only
  repeat' first | refine ⟨_, rfl, ?_⟩ | (with_reducible first | assumption | apply State.laneError_keeps) | split

theorem execDownNoticeReceived_keeps (port : RaftPort) (s : State) : ∃ t, execDownNoticeReceived port s = .next t ∧ Keeps s t := by
  have h := Keeps.refl s
  unfold execDownNoticeReceived
  try dsimp only
  repeat' first | refine ⟨_, rfl, ?_⟩ | (with_reducible first | assumption | apply State.hopDown_keeps) | split

theorem State.afterRise_keeps {s₀ s : State} (h : Keeps s₀ s) (before : State) (p : Nat) : Keeps s₀ (State.afterRise s before p) := by
  unfold State.afterRise
  try dsimp only
  repeat' first | (with_reducible first | assumption | apply State.reportNeighbours_keeps | apply State.claimFirst_keeps) | split

theorem State.portDown_keeps {s₀ s : State} (h : Keeps s₀ s) (p : Nat) : Keeps s₀ (State.portDown s p) := by
  unfold State.portDown
  try dsimp only
  repeat' (first
    | (with_reducible first | assumption | apply State.recompute_keeps | apply State.checkStandalone_keeps | apply State.raiseAll_keeps | apply State.onRport_keeps))

theorem State.trained_keeps {s₀ s : State} (h : Keeps s₀ s) (p : Nat) (x : HopTraining) : Keeps s₀ (State.trained s p x) := by
  unfold State.trained
  try dsimp only
  repeat' (first
    | (with_reducible first | assumption | apply State.portDown_keeps | apply State.onRport_keeps | apply State.fenceLane_keeps | apply State.afterRise_keeps | apply State.hopRise_keeps | apply Keeps.fold)
    | split | (intro _ _ _; try dsimp only))

theorem execHopTrainingDone_keeps (port : RaftPort) (result : HopTraining) (s : State) : ∃ t, execHopTrainingDone port result s = .next t ∧ Keeps s t := by
  have h := Keeps.refl s
  unfold execHopTrainingDone
  try dsimp only
  repeat' first | refine ⟨_, rfl, ?_⟩ | (with_reducible first | assumption | apply State.trained_keeps) | split

theorem execPortRetryTimer_keeps (port : RaftPort) (result : HopTraining) (s : State) : ∃ t, execPortRetryTimer port result s = .next t ∧ Keeps s t := by
  have h := Keeps.refl s
  unfold execPortRetryTimer
  try dsimp only
  repeat' (first
    | refine ⟨_, rfl, ?_⟩ | (with_reducible first | assumption | apply State.afterRise_keeps | apply State.hopRise_keeps) | split)

theorem execForwardAgeDrop_keeps (port : RaftPort) (s : State) : ∃ t, execForwardAgeDrop port s = .next t ∧ Keeps s t := by
  have h := Keeps.refl s
  unfold execForwardAgeDrop
  try dsimp only
  repeat' (first
    | refine ⟨_, rfl, ?_⟩
    | (with_reducible first | assumption | apply State.refillGutter_keeps | apply State.dropPacket_keeps | apply State.onRport_keeps)
    | split)

theorem execEgressPacketSend_keeps (port : RaftPort) (s : State) : ∃ t, execEgressPacketSend port s = .next t ∧ Keeps s t := by
  have h := Keeps.refl s
  unfold execEgressPacketSend
  try dsimp only
  repeat' first | refine ⟨_, rfl, ?_⟩ | (with_reducible first | assumption | apply State.egress_keeps)

theorem execAckTimer_keeps (peer : SledId) (s : State) : ∃ t, execAckTimer peer s = .next t ∧ Keeps s t := by
  have h := Keeps.refl s
  unfold execAckTimer
  try dsimp only
  repeat' first | refine ⟨_, rfl, ?_⟩ | (with_reducible first | assumption | apply State.sendUnsequenced_keeps) | split

theorem execReplayTimer_keeps (peer : SledId) (s : State) : ∃ t, execReplayTimer peer s = .next t ∧ Keeps s t := by
  have h := Keeps.refl s
  unfold execReplayTimer
  try dsimp only
  repeat' (first
    | refine ⟨_, rfl, ?_⟩
    | (with_reducible first | assumption | apply State.announce_keeps | apply State.pump_keeps | apply State.onPeer_keeps | apply State.replay_keeps)
    | split)

theorem State.failRelays_keeps {s₀ s : State} (h : Keeps s₀ s) (d : SledId) : Keeps s₀ (State.failRelays s d) := by
  unfold State.failRelays
  try dsimp only
  repeat' (first
    | (with_reducible first | assumption | apply State.reply_keeps | apply Keeps.fold | apply Keeps.onPurlin) | (intro _; rfl)
    | (intro _ _ _; try dsimp only) | (intro _; dsimp only; split <;> rfl))

theorem execPairUnreachable_keeps (peer : SledId) (s : State) : ∃ t, execPairUnreachable peer s = .next t ∧ Keeps s t := by
  have h := Keeps.refl s
  unfold execPairUnreachable
  try dsimp only
  repeat' (first
    | refine ⟨_, rfl, ?_⟩
    | (with_reducible first | assumption | apply State.failRelays_keeps | apply State.raiseAll_keeps | apply State.onPeer_keeps | apply State.loseEntries_keeps | apply State.probe_keeps | apply Keeps.emit)
    | split)

theorem execGetRafterPortStatus_keeps (p : Path) (port : BitVec 8) (s : State) : ∃ t, execGetRafterPortStatus p port s = .next t ∧ Keeps s t := by
  have h := Keeps.refl s
  unfold execGetRafterPortStatus
  try dsimp only
  repeat' (first
    | refine ⟨_, rfl, ?_⟩ | (with_reducible first | assumption | apply State.command_keeps | apply refuse_keeps) | split
    | (intro _ _; try dsimp only))

theorem execGetTransportPair_keeps (p : Path) (peer : BitVec 16) (s : State) : ∃ t, execGetTransportPair p peer s = .next t ∧ Keeps s t := by
  have h := Keeps.refl s
  unfold execGetTransportPair
  try dsimp only
  repeat' (first
    | refine ⟨_, rfl, ?_⟩ | (with_reducible first | assumption | apply State.command_keeps | apply refuse_keeps) | split
    | (intro _ _; try dsimp only))

theorem execSetTransportPolicy_keeps (p : Path) (credits replayUs : BitVec 16) (unreachUs : BitVec 32) (s : State) : ∃ t, execSetTransportPolicy p credits replayUs unreachUs s = .next t ∧ Keeps s t := by
  have h := Keeps.refl s
  unfold execSetTransportPolicy
  try dsimp only
  repeat' (first
    | refine ⟨_, rfl, ?_⟩
    | (with_reducible first | assumption | apply State.privileged_keeps | apply State.pump_keeps | apply refuse_keeps | apply Keeps.fold | apply Keeps.onLink)
    | split | (intro _ _ _; try dsimp only) | (intro _ _; try dsimp only))

theorem State.retrainHop_keeps {s₀ s : State} (h : Keeps s₀ s) (p : Nat) : Keeps s₀ (State.retrainHop s p) := by
  unfold State.retrainHop
  try dsimp only
  repeat' first | (with_reducible first | assumption | apply State.hopDown_keeps | apply State.onRport_keeps) | split

theorem execSetRafterPort_keeps (p : Path) (port action : BitVec 8) (s : State) : ∃ t, execSetRafterPort p port action s = .next t ∧ Keeps s t := by
  have h := Keeps.refl s
  unfold execSetRafterPort
  try dsimp only
  repeat' (first
    | refine ⟨_, rfl, ?_⟩
    | (with_reducible first | assumption | apply State.privileged_keeps | apply State.retrainHop_keeps | apply State.onRport_keeps | apply State.checkStandalone_keeps | apply State.hopDown_keeps | apply refuse_keeps)
    | split | (intro _ _; try dsimp only))

theorem execRidgeClaimMessage_keeps (port : RaftPort) (claim : Claim) (s : State) : ∃ t, execRidgeClaimMessage port claim s = .next t ∧ Keeps s t := by
  have h := Keeps.refl s
  unfold execRidgeClaimMessage
  try dsimp only
  repeat' (first
    | refine ⟨_, rfl, ?_⟩ | (with_reducible first | assumption | apply State.stepDown_keeps | apply Keeps.onCasc | apply Keeps.emit)
    | split)

theorem execRidgeClaimTimeout_keeps (s : State) : ∃ t, execRidgeClaimTimeout s = .next t ∧ Keeps s t := by
  have h := Keeps.refl s
  unfold execRidgeClaimTimeout
  try dsimp only
  repeat' (first
    | refine ⟨_, rfl, ?_⟩ | (with_reducible first | assumption | apply State.becomeRidge_keeps | apply State.askJoin_keeps) | split)

theorem execHeartbeatSend_keeps (s : State) : ∃ t, execHeartbeatSend s = .next t ∧ Keeps s t := by
  have h := Keeps.refl s
  unfold execHeartbeatSend
  try dsimp only
  repeat' first | refine ⟨_, rfl, ?_⟩ | (with_reducible first | assumption | apply Keeps.emit) | split

theorem execHeartbeatReceived_keeps (_src : SledId) (term : BitVec 32) (s : State) : ∃ t, execHeartbeatReceived _src term s = .next t ∧ Keeps s t := by
  have h := Keeps.refl s
  unfold execHeartbeatReceived
  try dsimp only
  repeat' first | refine ⟨_, rfl, ?_⟩ | (with_reducible first | assumption | apply State.stepDown_keeps | apply Keeps.onCasc) | split

theorem State.takeRole_keeps {s₀ s : State} (h : Keeps s₀ s) (term : Nat) : Keeps s₀ (State.takeRole s term) := by
  unfold State.takeRole
  try dsimp only
  repeat' (first
    | (with_reducible first | assumption | apply State.ridgeChanged_keeps | apply State.announceTerm_keeps | apply Keeps.onCasc) | split)

theorem execHeartbeatTimeout_keeps (s : State) : ∃ t, execHeartbeatTimeout s = .next t ∧ Keeps s t := by
  have h := Keeps.refl s
  unfold execHeartbeatTimeout
  try dsimp only
  repeat' first | refine ⟨_, rfl, ?_⟩ | (with_reducible first | assumption | apply State.takeRole_keeps) | split

theorem execRidgeTermAnnounce_keeps (src : SledId) (term : BitVec 32) (deputy : Option SledId) (s : State) : ∃ t, execRidgeTermAnnounce src term deputy s = .next t ∧ Keeps s t := by
  have h := Keeps.refl s
  unfold execRidgeTermAnnounce
  try dsimp only
  repeat' (first
    | refine ⟨_, rfl, ?_⟩
    | (with_reducible first | assumption | apply State.ridgeChanged_keeps | apply State.stepDown_keeps | apply State.takeRole_keeps | apply Keeps.onCasc)
    | split)

theorem execMapChangeAck_keeps (src : SledId) (version : BitVec 32) (s : State) : ∃ t, execMapChangeAck src version s = .next t ∧ Keeps s t := by
  have h := Keeps.refl s
  unfold execMapChangeAck
  try dsimp only
  repeat' first | refine ⟨_, rfl, ?_⟩ | (with_reducible first | assumption | apply State.acknowledged_keeps) | split

theorem execCascadeMapUpdate_keeps (src : SledId) (update : MapUpdate) (s : State) : ∃ t, execCascadeMapUpdate src update s = .next t ∧ Keeps s t := by
  have h := Keeps.refl s
  unfold execCascadeMapUpdate
  try dsimp only
  repeat' first | refine ⟨_, rfl, ?_⟩ | (with_reducible first | assumption | apply State.applyMap_keeps | apply Keeps.emit) | split

theorem execRouteUpdate_keeps (src : SledId) (term : BitVec 32) (neighbours : List (SledId × List (RaftPort × SledId))) (routes : List (SledId × BitVec 16)) (s : State) : ∃ t, execRouteUpdate src term neighbours routes s = .next t ∧ Keeps s t := by
  have h := Keeps.refl s
  unfold execRouteUpdate
  try dsimp only
  repeat' first | refine ⟨_, rfl, ?_⟩ | (with_reducible first | assumption | apply State.propose_keeps | apply Keeps.onCasc) | split

theorem execJoinRequest_keeps (port : RaftPort) (join : JoinReq) (s : State) : ∃ t, execJoinRequest port join s = .next t ∧ Keeps s t := by
  have h := Keeps.refl s
  unfold execJoinRequest
  try dsimp only
  repeat' first | refine ⟨_, rfl, ?_⟩ | (with_reducible first | assumption | apply State.join_keeps) | split

theorem execJoinComplete_keeps (grant : JoinGrant) (s : State) : ∃ t, execJoinComplete grant s = .next t ∧ Keeps s t := by
  have h := Keeps.refl s
  unfold execJoinComplete
  try dsimp only
  repeat' first | refine ⟨_, rfl, ?_⟩ | (with_reducible first | assumption | apply State.takeGrant_keeps) | split

theorem execUnreachablePairReport_keeps (_src : SledId) (member : SledId) (s : State) : ∃ t, execUnreachablePairReport _src member s = .next t ∧ Keeps s t := by
  have h := Keeps.refl s
  unfold execUnreachablePairReport
  try dsimp only
  repeat' first | refine ⟨_, rfl, ?_⟩ | (with_reducible first | assumption | apply State.probe_keeps) | split

theorem execMemberProbeTimeout_keeps (member : SledId) (s : State) : ∃ t, execMemberProbeTimeout member s = .next t ∧ Keeps s t := by
  have h := Keeps.refl s
  unfold execMemberProbeTimeout
  try dsimp only
  repeat' first | refine ⟨_, rfl, ?_⟩ | (with_reducible first | assumption | apply State.declareLost_keeps) | split

theorem execLinkKeyConfirmation_keeps (src : SledId) (keyId : BitVec 2) (stopped : Bool) (wrapped : List Byte) (s : State) : ∃ t, execLinkKeyConfirmation src keyId stopped wrapped s = .next t ∧ Keeps s t := by
  have h := Keeps.refl s
  unfold execLinkKeyConfirmation
  try dsimp only
  repeat' (first
    | refine ⟨_, rfl, ?_⟩
    | (with_reducible first | assumption | apply State.settleRotation_keeps | apply Keeps.emit | apply Keeps.onLink | apply Keeps.onFlash)
    | split)

theorem execMirrorCopy_keeps (lead : SledId) (copy : MirrorCopy) (s : State) : ∃ t, execMirrorCopy lead copy s = .next t ∧ Keeps s t := by
  have h := Keeps.refl s
  unfold execMirrorCopy
  try dsimp only
  repeat' (first
    | refine ⟨_, rfl, ?_⟩
    | (with_reducible first | assumption | apply State.takeSeq_keeps | apply State.wakeDrowse_keeps | apply State.executeCopy_keeps)
    | split)

theorem execResilverStep_keeps (range : BitVec 12) (usable : Bool) (s : State) : ∃ t, execResilverStep range usable s = .next t ∧ Keeps s t := by
  have h := Keeps.refl s
  unfold execResilverStep
  try dsimp only
  repeat' first | refine ⟨_, rfl, ?_⟩ | (with_reducible first | assumption | apply State.resilverStep_keeps) | split

theorem execGetCascadeStatus_keeps (p : Path) (s : State) : ∃ t, execGetCascadeStatus p s = .next t ∧ Keeps s t := by
  have h := Keeps.refl s
  unfold execGetCascadeStatus
  try dsimp only
  repeat' (first
    | refine ⟨_, rfl, ?_⟩ | (with_reducible first | assumption | apply State.command_keeps) | split | (intro _ _; try dsimp only))

theorem execSetCascadeRange_keeps (p : Path) (action : BitVec 8) (index : BitVec 16) (entry : RangeSpec) (segments : List (BitVec 32)) (s : State) : ∃ t, execSetCascadeRange p action index entry segments s = .next t ∧ Keeps s t := by
  have h := Keeps.refl s
  unfold execSetCascadeRange
  try dsimp only
  repeat' (first
    | refine ⟨_, rfl, ?_⟩ | (with_reducible first | assumption | apply State.deferred_keeps | apply State.propose_keeps) | split
    | (intro _ _; try dsimp only))

theorem execGetCascadeRange_keeps (p : Path) (index : BitVec 16) (s : State) : ∃ t, execGetCascadeRange p index s = .next t ∧ Keeps s t := by
  have h := Keeps.refl s
  unfold execGetCascadeRange
  try dsimp only
  repeat' (first
    | refine ⟨_, rfl, ?_⟩ | (with_reducible first | assumption | apply State.command_keeps | apply refuse_keeps) | split
    | (intro _ _; try dsimp only))

theorem execAddCascadeExtent_keeps (p : Path) (ld : LdId) (region : BitVec 8) (base : BitVec 24) (blocks : BitVec 32) (dpa : BitVec 64) (s : State) : ∃ t, execAddCascadeExtent p ld region base blocks dpa s = .next t ∧ Keeps s t := by
  have h := Keeps.refl s
  unfold execAddCascadeExtent
  try dsimp only
  repeat' (first
    | refine ⟨_, rfl, ?_⟩
    | (with_reducible first | assumption | apply State.command_keeps | apply State.logTo_keeps | apply refuse_keeps | apply Keeps.onCasc)
    | split | (intro _ _; try dsimp only))

theorem execGetCascadeRoute_keeps (p : Path) (sled : BitVec 16) (s : State) : ∃ t, execGetCascadeRoute p sled s = .next t ∧ Keeps s t := by
  have h := Keeps.refl s
  unfold execGetCascadeRoute
  try dsimp only
  repeat' (first
    | refine ⟨_, rfl, ?_⟩ | (with_reducible first | assumption | apply State.command_keeps | apply refuse_keeps) | split
    | (intro _ _; try dsimp only))

theorem execSetCascadePolicy_keeps (p : Path) (timeout : BitVec 16) (rate : BitVec 8) (eligible : Bool) (s : State) : ∃ t, execSetCascadePolicy p timeout rate eligible s = .next t ∧ Keeps s t := by
  have h := Keeps.refl s
  unfold execSetCascadePolicy
  try dsimp only
  repeat' (first
    | refine ⟨_, rfl, ?_⟩ | (with_reducible first | assumption | apply State.command_keeps | apply refuse_keeps | apply Keeps.onCasc)
    | split | (intro _ _; try dsimp only))

end Sys2Proof.Machine
end

