-- ==== Sys2Proof/Laws/KeepsPurlin.lean ====
section
/-! SUPPORT. What every command keeps: Purlin, the log store, firmware and bring-up. -/

namespace Sys2Proof.Machine

set_option Elab.async false
set_option linter.all false

theorem execIdentifyMemoryDevice_keeps (p : Path) (s : State) : ∃ t, execIdentifyMemoryDevice p s = .next t ∧ Keeps s t := by
  have h := Keeps.refl s
  unfold execIdentifyMemoryDevice
  try dsimp only
  repeat' (first
    | refine ⟨_, rfl, ?_⟩ | (with_reducible first | assumption | apply State.command_keeps) | split | (intro _ _; try dsimp only))

theorem execGetSupportedLogs_keeps (p : Path) (s : State) : ∃ t, execGetSupportedLogs p s = .next t ∧ Keeps s t := by
  have h := Keeps.refl s
  unfold execGetSupportedLogs
  try dsimp only
  repeat' first | refine ⟨_, rfl, ?_⟩ | (with_reducible first | assumption | apply State.command_keeps) | (intro _ _; try dsimp only)

theorem execGetLog_keeps (p : Path) (uuid : BitVec 128) (offset length : BitVec 32) (s : State) : ∃ t, execGetLog p uuid offset length s = .next t ∧ Keeps s t := by
  have h := Keeps.refl s
  unfold execGetLog
  try dsimp only
  repeat' (first
    | refine ⟨_, rfl, ?_⟩ | (with_reducible first | assumption | apply State.command_keeps | apply refuse_keeps) | split
    | (intro _ _; try dsimp only))

theorem execGetEventRecords_keeps (p : Path) (log : EventLog) (s : State) : ∃ t, execGetEventRecords p log s = .next t ∧ Keeps s t := by
  have h := Keeps.refl s
  unfold execGetEventRecords
  try dsimp only
  repeat' first | refine ⟨_, rfl, ?_⟩ | (with_reducible first | assumption | apply State.command_keeps) | (intro _ _; try dsimp only)

theorem execClearEventRecords_keeps (p : Path) (log : EventLog) (all : Bool) (handles : List (BitVec 16)) (s : State) : ∃ t, execClearEventRecords p log all handles s = .next t ∧ Keeps s t := by
  have h := Keeps.refl s
  unfold execClearEventRecords
  try dsimp only
  repeat' (first
    | refine ⟨_, rfl, ?_⟩ | (with_reducible first | assumption | apply State.command_keeps | apply refuse_keeps | apply State.onLd_keeps)
    | split | (intro _ _; try dsimp only))

theorem execGetEventInterruptPolicy_keeps (p : Path) (s : State) : ∃ t, execGetEventInterruptPolicy p s = .next t ∧ Keeps s t := by
  have h := Keeps.refl s
  unfold execGetEventInterruptPolicy
  try dsimp only
  repeat' first | refine ⟨_, rfl, ?_⟩ | (with_reducible first | assumption | apply State.command_keeps) | (intro _ _; try dsimp only)

theorem execSetEventInterruptPolicy_keeps (p : Path) (settings : BitVec 40) (s : State) : ∃ t, execSetEventInterruptPolicy p settings s = .next t ∧ Keeps s t := by
  have h := Keeps.refl s
  unfold execSetEventInterruptPolicy
  try dsimp only
  repeat' (first
    | refine ⟨_, rfl, ?_⟩ | (with_reducible first | assumption | apply State.command_keeps | apply State.onLd_keeps | apply refuse_keeps)
    | split | (intro _ _; try dsimp only))

theorem execGetTimestamp_keeps (p : Path) (s : State) : ∃ t, execGetTimestamp p s = .next t ∧ Keeps s t := by
  have h := Keeps.refl s
  unfold execGetTimestamp
  try dsimp only
  repeat' first | refine ⟨_, rfl, ?_⟩ | (with_reducible first | assumption | apply State.command_keeps) | (intro _ _; try dsimp only)

theorem execSetTimestamp_keeps (p : Path) (value : BitVec 64) (s : State) : ∃ t, execSetTimestamp p value s = .next t ∧ Keeps s t := by
  have h := Keeps.refl s
  unfold execSetTimestamp
  try dsimp only
  repeat' (first
    | refine ⟨_, rfl, ?_⟩ | (with_reducible first | assumption | apply State.command_keeps | apply Keeps.onHost)
    | (intro _ _; try dsimp only))

theorem execEventRatePeriodEnd_keeps (code : BitVec 16) (subject : BitVec 32) (s : State) : ∃ t, execEventRatePeriodEnd code subject s = .next t ∧ Keeps s t := by
  have h := Keeps.refl s
  unfold execEventRatePeriodEnd
  try dsimp only
  repeat' first | refine ⟨_, rfl, ?_⟩ | (with_reducible first | assumption | apply State.endPeriod_keeps)

theorem execBackgroundOperationStatus_keeps (p : Path) (s : State) : ∃ t, execBackgroundOperationStatus p s = .next t ∧ Keeps s t := by
  have h := Keeps.refl s
  unfold execBackgroundOperationStatus
  try dsimp only
  repeat' (first
    | refine ⟨_, rfl, ?_⟩ | (with_reducible first | assumption | apply State.command_keeps) | split | (intro _ _; try dsimp only))

theorem execRequestAbortBackgroundOperation_keeps (p : Path) (s : State) : ∃ t, execRequestAbortBackgroundOperation p s = .next t ∧ Keeps s t := by
  have h := Keeps.refl s
  unfold execRequestAbortBackgroundOperation
  try dsimp only
  repeat' (first
    | refine ⟨_, rfl, ?_⟩
    | (with_reducible first | assumption | apply State.command_keeps | apply refuse_keeps | apply State.askAbort_keeps) | split
    | (intro _ _; try dsimp only))

theorem execBackgroundCommandComplete_keeps (p : Path) (s : State) : ∃ t, execBackgroundCommandComplete p s = .next t ∧ Keeps s t := by
  have h := Keeps.refl s
  unfold execBackgroundCommandComplete
  try dsimp only
  repeat' first | refine ⟨_, rfl, ?_⟩ | (with_reducible first | assumption | apply State.setBackground_keeps | apply Keeps.emit) | split

theorem execGetBackgroundResult_keeps (p : Path) (s : State) : ∃ t, execGetBackgroundResult p s = .next t ∧ Keeps s t := by
  have h := Keeps.refl s
  unfold execGetBackgroundResult
  try dsimp only
  repeat' (first
    | refine ⟨_, rfl, ?_⟩ | (with_reducible first | assumption | apply State.command_keeps) | split | (intro _ _; try dsimp only))

theorem execUndefinedVendorOpcode_keeps (p : Path) (opcode : BitVec 16) (s : State) : ∃ t, execUndefinedVendorOpcode p opcode s = .next t ∧ Keeps s t := by
  have h := Keeps.refl s
  unfold execUndefinedVendorOpcode
  try dsimp only
  repeat' (first
    | refine ⟨_, rfl, ?_⟩ | (with_reducible first | assumption | apply State.command_keeps | apply refuse_keeps)
    | (intro _ _; try dsimp only))

theorem State.powerOff_keeps {s₀ s : State} (h : Keeps s₀ s) : Keeps s₀ s.powerOff :=
  h.trans ⟨rfl, rfl, rfl, rfl, Nat.le_refl _, fun x => ⟨rfl, x.latched, fun _ => rfl⟩⟩

theorem State.onLog_keeps {s₀ s : State} (h : Keeps s₀ s) (f : LogStore → LogStore) : Keeps s₀ (State.onLog s f) := by
  unfold State.onLog
  try dsimp only
  repeat' first | (with_reducible first | assumption | apply Keeps.onPurlin) | (intro _; rfl) | (intro _; dsimp only; split <;> rfl)

theorem State.freezeLog_keeps {s₀ s : State} (h : Keeps s₀ s) : Keeps s₀ s.freezeLog := h.setFrozen _

theorem State.areaGone_keeps {s₀ s : State} (h : Keeps s₀ s) (area : Nat) (ro : Bool) : Keeps s₀ (State.areaGone s area ro) := by
  unfold State.areaGone
  try dsimp only
  repeat' first | (with_reducible first | assumption | apply State.raiseAll_keeps)

theorem State.giveUpArea_keeps {s₀ s : State} (h : Keeps s₀ s) : Keeps s₀ (State.giveUpArea s) := by
  unfold State.giveUpArea
  try dsimp only
  repeat' (first
    | (with_reducible first | assumption | apply State.areaGone_keeps | apply State.onLog_keeps | apply State.freezeLog_keeps) | split)

theorem State.retireLogBlock_keeps {s₀ s : State} (h : Keeps s₀ s) : Keeps s₀ (State.retireLogBlock s) := by
  unfold State.retireLogBlock
  try dsimp only
  repeat' (first
    | (with_reducible first | assumption | apply State.raiseAll_keeps | apply State.giveUpArea_keeps | apply Keeps.onPurlin)
    | (intro _; rfl) | split | (intro _; dsimp only; split <;> rfl))

theorem execGetLogStoreStatus_keeps (p : Path) (s : State) : ∃ t, execGetLogStoreStatus p s = .next t ∧ Keeps s t := by
  have h := Keeps.refl s
  unfold execGetLogStoreStatus
  try dsimp only
  repeat' first | refine ⟨_, rfl, ?_⟩ | (with_reducible first | assumption | apply State.command_keeps) | (intro _ _; try dsimp only)

@[simp] theorem Firmware.eraseSlot_fused (f : Firmware) (slot : Nat) : (f.eraseSlot slot).fused = f.fused := by
  unfold Firmware.eraseSlot Firmware.setSlot
  dsimp only
  split <;> rfl

@[simp] theorem Firmware.program_fused (f : Firmware) (slot a : Nat) (data : List Byte) : (f.program slot a data).fused = f.fused := rfl

@[simp] theorem Firmware.setSlot_fused (f : Firmware) (slot : Nat) (x : SlotState) : (f.setSlot slot x).fused = f.fused := by
  unfold Firmware.setSlot; split <;> rfl

theorem State.onFw_keeps {s₀ s : State} (h : Keeps s₀ s) {f : Firmware → Firmware} (hf : ∀ x, x.fused ≤ (f x).fused) : Keeps s₀ (s.onFw f) :=
  h.trans ⟨rfl, rfl, rfl, rfl, hf _, fun x => ⟨x.memory, x.latched, x.asleep⟩⟩

theorem State.checkImage_keeps {s₀ s : State} (h : Keeps s₀ s) (slot : Nat) : Keeps s₀ (State.checkImage s slot).1 := by
  unfold State.checkImage
  try dsimp only
  repeat' (first
    | (with_reducible first | assumption | apply State.raiseAll_keeps | apply State.onFw_keeps) | (intro _; exact Nat.le_refl _)
    | (intro _; simp; done) | split)

theorem execGetFwInfo_keeps (p : Path) (s : State) : ∃ t, execGetFwInfo p s = .next t ∧ Keeps s t := by
  have h := Keeps.refl s
  unfold execGetFwInfo
  try dsimp only
  repeat' (first
    | refine ⟨_, rfl, ?_⟩ | (with_reducible first | assumption | apply State.command_keeps) | split | (intro _ _; try dsimp only))

theorem State.endTransfer_keeps {s₀ s : State} (h : Keeps s₀ s) (slot : Nat) : Keeps s₀ (State.endTransfer s slot).1 := by
  unfold State.endTransfer
  try dsimp only
  repeat' (first
    | (with_reducible first | assumption | apply State.raiseAll_keeps | apply State.onFw_keeps | apply State.checkImage_keeps)
    | (intro _; exact Nat.le_refl _) | (intro _; simp; done) | split)

theorem execTransferFw_keeps (p : Path) (slot action : BitVec 8) (offset : BitVec 32) (data : List Byte) (s : State) : ∃ t, execTransferFw p slot action offset data s = .next t ∧ Keeps s t := by
  have h := Keeps.refl s
  unfold execTransferFw
  try dsimp only
  repeat' (first
    | refine ⟨_, rfl, ?_⟩
    | (with_reducible first | assumption | apply State.command_keeps | apply refuse_keeps | apply State.onFw_keeps | apply State.endTransfer_keeps)
    | (intro _; exact Nat.le_refl _) | (intro _; simp; done) | split | (intro _ _; try dsimp only))

theorem State.beginActivation_keeps {s₀ s : State} (h : Keeps s₀ s) (slot : Nat) (kind : ActivationKind) (path : Option Path) : Keeps s₀ (State.beginActivation s slot kind path) := by
  unfold State.beginActivation
  try dsimp only
  repeat' (first
    | (with_reducible first | assumption | apply State.onFw_keeps) | (intro _; exact Nat.le_refl _) | (intro _; simp; done) | split)

theorem execActivateFwOnline_keeps (p : Path) (slot : BitVec 8) (s : State) : ∃ t, execActivateFwOnline p slot s = .next t ∧ Keeps s t := by
  have h := Keeps.refl s
  unfold execActivateFwOnline
  try dsimp only
  repeat' (first
    | refine ⟨_, rfl, ?_⟩ | (with_reducible first | assumption | apply State.background_keeps | apply State.beginActivation_keeps) | split
    | (intro _ _; try dsimp only))

theorem execActivateFwOffline_keeps (p : Path) (slot : BitVec 8) (s : State) : ∃ t, execActivateFwOffline p slot s = .next t ∧ Keeps s t := by
  have h := Keeps.refl s
  unfold execActivateFwOffline
  try dsimp only
  repeat' (first
    | refine ⟨_, rfl, ?_⟩ | (with_reducible first | assumption | apply State.command_keeps | apply State.onFw_keeps | apply refuse_keeps)
    | (intro _; exact Nat.le_refl _) | (intro _; simp; done) | split | (intro _ _; try dsimp only))

theorem State.handRole_keeps {s₀ s : State} (h : Keeps s₀ s) : Keeps s₀ (State.handRole s) := by
  unfold State.handRole
  try dsimp only
  repeat' (first
    | (with_reducible first | assumption | apply State.ridgeChanged_keeps | apply State.stepDown_keeps | apply Keeps.emit | apply Keeps.onCasc)
    | split)

theorem execActivationStaged_keeps (s : State) : ∃ t, execActivationStaged s = .next t ∧ Keeps s t := by
  have h := Keeps.refl s
  unfold execActivationStaged
  try dsimp only
  repeat' (first
    | refine ⟨_, rfl, ?_⟩
    | (with_reducible first | assumption | apply State.onFw_keeps | apply State.handRole_keeps | apply State.checkImage_keeps | apply State.finishBackground_keeps | apply Keeps.onPurlin)
    | (intro _; rfl) | (intro _; exact Nat.le_refl _) | (intro _; simp; done) | split | (intro _; dsimp only; split <;> rfl))

theorem State.endPause_keeps {s₀ s : State} (h : Keeps s₀ s) (us : Nat) : Keeps s₀ (State.endPause s us) := by
  unfold State.endPause
  try dsimp only
  repeat' (first
    | (with_reducible first | assumption | apply State.finishBackground_keeps | apply State.raiseAll_keeps | apply State.onFw_keeps | apply State.judge_keeps | apply State.adjustThresholds_keeps | apply State.flushEvents_keeps | apply Keeps.fold | apply Keeps.onSpare | apply Keeps.onEaves | apply Keeps.onPurlin | apply Keeps.onPlace)
    | (intro _; rfl) | (intro _; exact Nat.le_refl _) | (intro _; simp; done) | split | (intro _ _ _; try dsimp only)
    | (intro _; dsimp only; split <;> rfl))

theorem State.failTrial_keeps {s₀ s : State} (h : Keeps s₀ s) (reason : Nat) : Keeps s₀ (State.failTrial s reason) := by
  unfold State.failTrial
  try dsimp only
  repeat' (first
    | (with_reducible first | assumption | apply State.raiseAll_keeps | apply State.onFw_keeps | apply State.beginActivation_keeps)
    | (intro _; exact Nat.le_refl _) | (intro _; simp; done) | split)

theorem execHealthWindowEnd_keeps (s : State) : ∃ t, execHealthWindowEnd s = .next t ∧ Keeps s t := by
  have h := Keeps.refl s
  unfold execHealthWindowEnd
  try dsimp only
  repeat' (first
    | refine ⟨_, rfl, ?_⟩ | (with_reducible first | assumption | apply State.onFw_keeps) | (intro _; exact Nat.le_refl _)
    | (intro _; simp; done) | (intro _; dsimp only; split <;> first | exact Nat.le_refl _ | (rename_i e; simp at e; omega)) | split)

theorem execCoreWatchdogExpiry_keeps (core : BitVec 2) (s : State) : ∃ t, execCoreWatchdogExpiry core s = .next t ∧ Keeps s t := by
  have h := Keeps.refl s
  unfold execCoreWatchdogExpiry
  try dsimp only
  repeat' (first
    | refine ⟨_, rfl, ?_⟩
    | (with_reducible first | assumption | apply State.raiseAll_keeps | apply State.beginActivation_keeps | apply State.failTrial_keeps | apply Keeps.onPurlin)
    | (intro _; rfl) | split | (intro _; dsimp only; split <;> rfl))

theorem execLogStoreUpdate_keeps (block : BitVec 10) (words : BitVec 16) (readBackOk : Bool) (s : State) : ∃ t, execLogStoreUpdate block words readBackOk s = .next t ∧ Keeps s t := by
  have h := Keeps.refl s
  unfold execLogStoreUpdate
  try dsimp only
  repeat' (first
    | refine ⟨_, rfl, ?_⟩
    | (with_reducible first | assumption | apply State.failTrial_keeps | apply State.retireLogBlock_keeps | apply Keeps.onPurlin)
    | (intro _; rfl) | split | (intro _; dsimp only; split <;> rfl))

theorem execGetSledIdentity_keeps (p : Path) (s : State) : ∃ t, execGetSledIdentity p s = .next t ∧ Keeps s t := by
  have h := Keeps.refl s
  unfold execGetSledIdentity
  try dsimp only
  repeat' (first
    | refine ⟨_, rfl, ?_⟩ | (with_reducible first | assumption | apply State.command_keeps) | split | (intro _ _; try dsimp only))

theorem execRelayCommand_keeps (p : Path) (target opcode : BitVec 16) (payload : List Byte) (s : State) : ∃ t, execRelayCommand p target opcode payload s = .next t ∧ Keeps s t := by
  have h := Keeps.refl s
  unfold execRelayCommand
  try dsimp only
  repeat' (first
    | refine ⟨_, rfl, ?_⟩
    | (with_reducible first | assumption | apply State.deferred_keeps | apply State.enqueueSend_keeps | apply State.command_keeps | apply refuse_keeps | apply Keeps.onPurlin)
    | (intro _; rfl) | split | (intro _ _; try dsimp only) | (intro _; dsimp only; split <;> rfl))

theorem execGetPurlinStatus_keeps (p : Path) (s : State) : ∃ t, execGetPurlinStatus p s = .next t ∧ Keeps s t := by
  have h := Keeps.refl s
  unfold execGetPurlinStatus
  try dsimp only
  repeat' first | refine ⟨_, rfl, ?_⟩ | (with_reducible first | assumption | apply State.command_keeps) | (intro _ _; try dsimp only)

theorem execGetFirmwareStatus_keeps (p : Path) (s : State) : ∃ t, execGetFirmwareStatus p s = .next t ∧ Keeps s t := by
  have h := Keeps.refl s
  unfold execGetFirmwareStatus
  try dsimp only
  repeat' (first
    | refine ⟨_, rfl, ?_⟩ | (with_reducible first | assumption | apply State.command_keeps) | split | (intro _ _; try dsimp only))

theorem execSetFirmwarePolicy_keeps (p : Path) (minutes : BitVec 8) (rollBack svn : Bool) (s : State) : ∃ t, execSetFirmwarePolicy p minutes rollBack svn s = .next t ∧ Keeps s t := by
  have h := Keeps.refl s
  unfold execSetFirmwarePolicy
  try dsimp only
  repeat' (first
    | refine ⟨_, rfl, ?_⟩
    | (with_reducible first | assumption | apply State.privileged_keeps | apply State.onFw_keeps | apply refuse_keeps)
    | (intro _; exact Nat.le_refl _) | (intro _; simp; done) | split | (intro _ _; try dsimp only))

theorem State.tryBoot_keeps {s₀ s : State} (h : Keeps s₀ s) (slot : Nat) (tests : BootTests) : Keeps s₀ (State.tryBoot s slot tests).1 := by
  unfold State.tryBoot
  try dsimp only
  repeat' first | (with_reducible first | assumption | apply State.checkImage_keeps) | split

theorem State.startEngines_keeps {s₀ s : State} (h : Keeps s₀ s) (tests : BootTests) : Keeps s₀ (State.startEngines s tests) := by
  unfold State.startEngines
  try dsimp only
  repeat' (first
    | (with_reducible first | assumption | apply State.raiseAll_keeps | apply State.setReady_keeps | apply State.onCtx_keeps | apply State.drawKey_keeps | apply Keeps.onBoot | apply Keeps.onSpare | apply Keeps.onFlash)
    | split)

theorem State.runFirmware_keeps {s₀ s : State} (h : Keeps s₀ s) (slot from_ : Nat) (tests : BootTests) : Keeps s₀ (State.runFirmware s slot from_ tests) := by
  unfold State.runFirmware
  try dsimp only
  repeat' (first
    | (with_reducible first | assumption | apply State.startEngines_keeps | apply State.raiseAll_keeps | apply State.milestone_keeps | apply State.deliverHeld_keeps | apply State.flushEvents_keeps | apply State.setReady_keeps | apply State.onFw_keeps | apply Keeps.fold | apply Keeps.onEaves | apply Keeps.onTherm | apply Keeps.onPower | apply Keeps.onLink | apply Keeps.onBoot | apply Keeps.onPurlin)
    | (intro _; rfl) | (intro _; exact Nat.le_refl _) | (intro _; simp; done) | split | (intro _ _ _; try dsimp only)
    | (intro _; dsimp only; split <;> rfl))

theorem execFirmwareBoot_keeps (tests : BootTests) (s : State) : ∃ t, execFirmwareBoot tests s = .next t ∧ Keeps s t := by
  have h := Keeps.refl s
  unfold execFirmwareBoot
  try dsimp only
  repeat' (first
    | refine ⟨_, rfl, ?_⟩
    | (with_reducible first | assumption | apply State.setReady_keeps | apply State.tryBoot_keeps | apply State.runFirmware_keeps) | split)

theorem State.withhold_keeps {s₀ s : State} (h : Keeps s₀ s) (g reason : Nat) (retry : Bool) : Keeps s₀ (State.withhold s g reason retry) := by
  unfold State.withhold
  try dsimp only
  repeat' (first
    | (with_reducible first | assumption | apply State.raiseAll_keeps | apply State.onGroup_keeps | apply Keeps.onBoot | apply Keeps.onCap)
    | split)

theorem State.settle_keeps {s₀ s : State} (h : Keeps s₀ s) : Keeps s₀ (State.settle s) := by
  unfold State.settle
  try dsimp only
  repeat' (first
    | (with_reducible first | assumption | apply State.adjustPressure_keeps | apply State.beginPatrol_keeps | apply State.milestone_keeps | apply State.setReady_keeps | apply State.onRport_keeps | apply Keeps.fold | apply Keeps.onBoot)
    | split | (intro _ _ _; try dsimp only))

theorem State.checkMemory_keeps {s₀ s : State} (h : Keeps s₀ s) : Keeps s₀ (State.checkMemory s) := by
  unfold State.checkMemory
  try dsimp only
  repeat' first | (with_reducible first | assumption | apply State.raiseAll_keeps | apply Keeps.onBoot) | split

theorem State.advance_keeps {s₀ s : State} (h : Keeps s₀ s)  (l : Nat) : Keeps s₀ (State.advance l s) := by
  induction l generalizing s with
  | zero =>
    unfold State.advance
    try dsimp only
    repeat' (first
      | (with_reducible first | assumption | apply State.withhold_keeps | apply State.checkMemory_keeps | apply State.settle_keeps)
      | split)
  | succ n ih =>
    unfold State.advance
    try dsimp only
    repeat' (first
      | (with_reducible first | assumption | apply ih | apply State.withhold_keeps | apply State.checkMemory_keeps | apply State.settle_keeps)
      | split)

theorem State.startAdmission_keeps {s₀ s : State} (h : Keeps s₀ s) (g : Nat) (retry : Bool) (path : Option Path) : Keeps s₀ (State.startAdmission s g retry path) := by
  unfold State.startAdmission
  try dsimp only
  repeat' first | (with_reducible first | assumption | apply Keeps.onBoot)

theorem execGroupAdmission_keeps (s : State) : ∃ t, execGroupAdmission s = .next t ∧ Keeps s t := by
  have h := Keeps.refl s
  unfold execGroupAdmission
  try dsimp only
  repeat' (first
    | refine ⟨_, rfl, ?_⟩
    | (with_reducible first | assumption | apply State.startAdmission_keeps | apply State.advance_keeps | apply Keeps.onBoot) | split)

theorem State.failAdmission_keeps {s₀ s : State} (h : Keeps s₀ s) (a : Admission) (reason : Nat) (passed : Nat) : Keeps s₀ (State.failAdmission s a reason passed) := by
  unfold State.failAdmission
  try dsimp only
  repeat' (first
    | (with_reducible first | assumption | apply State.advance_keeps | apply State.finishBackground_keeps | apply State.withhold_keeps | apply Keeps.onBoot))

theorem State.attemptFailed_keeps {s₀ s : State} (h : Keeps s₀ s) (a : Admission) (step passed : Nat) : Keeps s₀ (State.attemptFailed s a step passed) := by
  unfold State.attemptFailed
  try dsimp only
  repeat' first | (with_reducible first | assumption | apply State.raiseAll_keeps)

theorem State.fenceAtTraining_keeps {s₀ s : State} (h : Keeps s₀ s) (ch speed step rank : Nat) : Keeps s₀ (State.fenceAtTraining s ch speed step rank) := by
  unfold State.fenceAtTraining
  try dsimp only
  repeat' first | (with_reducible first | assumption | apply State.raiseAll_keeps | apply State.onChannel_keeps)

theorem execGroupTrainingAttemptDone_keeps (g : GroupId) (passed failStep failRank : BitVec 8) (settled sensorValid : Bool) (s : State) : ∃ t, execGroupTrainingAttemptDone g passed failStep failRank settled sensorValid s = .next t ∧ Keeps s t := by
  have h := Keeps.refl s
  unfold execGroupTrainingAttemptDone
  try dsimp only
  repeat' (first
    | refine ⟨_, rfl, ?_⟩
    | (with_reducible first | assumption | apply State.failAdmission_keeps | apply State.attemptFailed_keeps | apply State.progress_keeps | apply State.fenceAtTraining_keeps | apply Keeps.onBoot | apply Keeps.fold)
    | split | (intro _ _ _; try dsimp only))

theorem State.applyRepairs_keeps {s₀ s : State} (h : Keeps s₀ s) (g passed failed : Nat) : Keeps s₀ (State.applyRepairs s g passed failed) := by
  unfold State.applyRepairs
  try dsimp only
  repeat' (first
    | (with_reducible first | assumption | apply State.raiseAll_keeps | apply Keeps.fold | apply Keeps.onSpare) | split
    | (intro _ _ _; try dsimp only))

theorem State.fillStatic_keeps {s₀ s : State} (h : Keeps s₀ s) : Keeps s₀ (State.fillStatic s) := by
  unfold State.fillStatic
  try dsimp only
  repeat' (first
    | (with_reducible first | assumption | apply State.startFill_keeps | apply State.fillDone_keeps | apply Keeps.fold) | split
    | (intro _ _ _; try dsimp only))

theorem State.strongStarts_keeps {s₀ s : State} (h : Keeps s₀ s) : Keeps s₀ (State.strongStarts s) := by
  unfold State.strongStarts
  try dsimp only
  repeat' (first
    | (with_reducible first | assumption | apply State.setReady_keeps | apply State.wantRebuild_keeps | apply Keeps.fold) | split
    | (intro _ _ _; try dsimp only))

theorem State.joinGroup_keeps {s₀ s : State} (h : Keeps s₀ s) (a : Admission) (serving : Nat) : Keeps s₀ (State.joinGroup s a serving) := by
  unfold State.joinGroup
  try dsimp only
  repeat' (first
    | (with_reducible first | assumption | apply State.advance_keeps | apply State.finishBackground_keeps | apply State.adjustPressure_keeps | apply State.offerCapacity_keeps | apply State.fillStatic_keeps | apply State.strongStarts_keeps | apply State.recompute_keeps | apply State.setReady_keeps | apply State.onGroup_keeps | apply State.onChannel_keeps | apply State.raiseAll_keeps | apply Keeps.onCap | apply Keeps.onBoot | apply Keeps.fold)
    | split | (intro _ _ _; try dsimp only))

theorem execGroupJoin_keeps (codecsFailed : BitVec 8) (repairsFailed : BitVec 128) (s : State) : ∃ t, execGroupJoin codecsFailed repairsFailed s = .next t ∧ Keeps s t := by
  have h := Keeps.refl s
  unfold execGroupJoin
  try dsimp only
  repeat' (first
    | refine ⟨_, rfl, ?_⟩
    | (with_reducible first | assumption | apply State.failAdmission_keeps | apply State.attemptFailed_keeps | apply State.applyRepairs_keeps | apply State.raiseAll_keeps | apply State.onChannel_keeps | apply State.joinGroup_keeps | apply Keeps.fold)
    | split | (intro _ _ _; try dsimp only))

theorem execGetBringupStatus_keeps (p : Path) (s : State) : ∃ t, execGetBringupStatus p s = .next t ∧ Keeps s t := by
  have h := Keeps.refl s
  unfold execGetBringupStatus
  try dsimp only
  repeat' first | refine ⟨_, rfl, ?_⟩ | (with_reducible first | assumption | apply State.command_keeps) | (intro _ _; try dsimp only)

theorem execRetryGroupAdmission_keeps (p : Path) (g : BitVec 8) (s : State) : ∃ t, execRetryGroupAdmission p g s = .next t ∧ Keeps s t := by
  have h := Keeps.refl s
  unfold execRetryGroupAdmission
  try dsimp only
  repeat' (first
    | refine ⟨_, rfl, ?_⟩
    | (with_reducible first | assumption | apply State.privilegedBackground_keeps | apply State.progress_keeps | apply State.startAdmission_keeps)
    | split | (intro _ _; try dsimp only))

theorem execSetGroupAdmission_keeps (p : Path) (g action : BitVec 8) (s : State) : ∃ t, execSetGroupAdmission p g action s = .next t ∧ Keeps s t := by
  have h := Keeps.refl s
  unfold execSetGroupAdmission
  try dsimp only
  repeat' (first
    | refine ⟨_, rfl, ?_⟩ | (with_reducible first | assumption | apply State.privileged_keeps | apply refuse_keeps | apply Keeps.onBoot)
    | split | (intro _ _; try dsimp only))

end Sys2Proof.Machine
end

