-- ==== Sys2Proof/Laws/KeepsPower.lean ====
section
/-! SUPPORT. What every command keeps: power states, the power path, on-chip memory, counters, the connector and thermal limits. -/

namespace Sys2Proof.Machine

set_option Elab.async false
set_option linter.all false

theorem State.raisePower_keeps {s₀ s : State} (h : Keeps s₀ s) (code : Nat) (log : EventLog) (data : List Byte) : Keeps s₀ (State.raisePower s code log data) := by
  unfold State.raisePower
  try dsimp only
  repeat' (first
    | (with_reducible first | assumption | apply State.raiseAll_keeps | apply Keeps.onPower) | (intro _; rfl) | split
    | (intro _; dsimp only; split <;> rfl))

theorem State.enterOffAux_of {s₀ s : State} (hq : s.pending = s₀.pending) (hc : s.clock = s₀.clock) (hm : s.small = s₀.small)
    (hs : s.serial = s₀.serial) (hf : s₀.purlin.fw.fused ≤ s.purlin.fw.fused)
    (hx : s₀.Sound → Memory.wf s.dram.cells ∧ (s.power.latched = true → s.power.sw = .latched) ∧ (s.eaves.st = .offAux → s.eaves.entry = none)) :
    Keeps s₀ s.enterOffAux := by
  unfold State.enterOffAux
  extract_lets s1 s2
  split
  · rename_i e
    exact ⟨hq, hc, hm, hs, hf, fun x => ⟨(hx x).1, fun y => ⟨(hx x).2.1 y, e⟩, (hx x).2.2⟩⟩
  · have key : ∀ (f : Eaves → Eaves) (g : Sparing → Sparing), (∀ e, (f e).st = .offAux) → (∀ e, (f e).entry = e.entry) →
        Keeps s₀ ((s1.powerOff.onSpare g).onEaves f) := fun f g a b =>
      ⟨hq, hc, hm, hs, hf, fun x => ⟨rfl, fun y => ⟨(hx x).2.1 y, a _⟩, fun _ => b _⟩⟩
    apply Keeps.onConn
    unfold s2 State.changeState
    extract_lets e old dur entering leaving quiet slept s1 s2 s3
    have h2 : Keeps s₀ s2 := key _ _ (fun _ => rfl) (fun _ => rfl)
    have h3 : Keeps s₀ s3 := by
      unfold s3
      split
      · exact h2
      · exact State.trace_keeps h2 _ _ _ _ _
    split
    · exact h3
    · exact State.raiseAll_keeps h3 _ _ _

theorem State.enterOffAux_keeps {s₀ s : State} (h : Keeps s₀ s) : Keeps s₀ s.enterOffAux :=
  State.enterOffAux_of h.queue h.clock h.small h.serial h.fused fun x => ⟨(h.sound x).memory, fun y => ((h.sound x).latched y).1, (h.sound x).asleep⟩

theorem State.startEaves_keeps {s₀ s : State} (h : Keeps s₀ s) : Keeps s₀ (State.startEaves s) := by
  unfold State.startEaves
  try dsimp only
  repeat' (first
    | (with_reducible first | assumption | apply Keeps.onConn | apply Keeps.onPower | apply Keeps.onEaves) | (intro _; rfl)
    | (intro _; dsimp only; split <;> rfl))

theorem State.tryDelay_keeps {s₀ s : State} (h : Keeps s₀ s) : Keeps s₀ s.tryDelay := by
  unfold State.tryDelay
  split
  · rename_i e
    simp only [Bool.and_eq_true, decide_eq_true_eq] at e
    refine h.onPowerSwitch ?_ fun _ => rfl
    rw [e.1]; decide
  · exact h

theorem State.openSwitch_keeps {s₀ s : State} (h : Keeps s₀ s) : Keeps s₀ s.openSwitch :=
  h.trans ⟨rfl, rfl, rfl, rfl, Nat.le_refl _, fun x => ⟨x.memory, fun y => ⟨if_pos y, (x.latched y).2⟩, x.asleep⟩⟩

theorem State.setFold_keeps {s₀ s : State} (h : Keeps s₀ s) (v : Bool) : Keeps s₀ (s.setFold v) := by
  refine h.onPower ?_ ?_ <;> intro d <;> split <;> rfl

theorem State.convert_keeps {s₀ s : State} (h : Keeps s₀ s) (mainMv mainMa auxMv aux100uA : Nat) (us : Nat) (peaks : Bool) : Keeps s₀ (State.convert s mainMv mainMa auxMv aux100uA us peaks) := by
  unfold State.convert
  try dsimp only
  repeat' first | (with_reducible first | assumption | apply Keeps.onPower) | (intro _; rfl) | split | (intro _; dsimp only; split <;> rfl)

theorem State.setControllerStage_keeps {s₀ s : State} (h : Keeps s₀ s) (k : Nat) : Keeps s₀ (State.setControllerStage s k) := by
  unfold State.setControllerStage
  try dsimp only
  repeat' (first
    | (with_reducible first | assumption | apply State.raiseAll_keeps | apply State.pauseJob_keeps | apply Keeps.onTherm | apply Keeps.fold)
    | split | (intro _ _ _; try dsimp only))

theorem State.controllerThermal_keeps {s₀ s : State} (h : Keeps s₀ s)  (l : Nat) : Keeps s₀ (State.controllerThermal s l) := by
  induction l generalizing s with
  | zero =>
    unfold State.controllerThermal
    try dsimp only
    repeat' first | (with_reducible first | assumption | apply State.setControllerStage_keeps) | split
  | succ n ih =>
    unfold State.controllerThermal
    try dsimp only
    repeat' first | (with_reducible first | assumption | apply ih | apply State.setControllerStage_keeps) | split

theorem State.readSensors_keeps {s₀ s : State} (h : Keeps s₀ s) (groups controller : List (BitVec 16)) : Keeps s₀ (State.readSensors s groups controller) := by
  unfold State.readSensors
  try dsimp only
  repeat' (first
    | (with_reducible first | assumption | apply State.controllerThermal_keeps | apply State.onGroup_keeps | apply State.dramThermal_keeps | apply Keeps.fold | apply Keeps.onTherm)
    | (intro _ _ _; try dsimp only))

theorem State.leaveRegion_keeps {s₀ s : State} (h : Keeps s₀ s) : Keeps s₀ (State.leaveRegion s) := by
  unfold State.leaveRegion
  try dsimp only
  repeat' first | (with_reducible first | assumption | apply Keeps.onSram) | split

theorem State.leaveRegion_eaves (s : State) : s.leaveRegion.eaves = s.eaves := by
  unfold State.leaveRegion; split <;> rfl

theorem State.beginEntry_keeps {s₀ s : State} (h : Keeps s₀ s) (target : SledState) (hs : s.eaves.st ≠ .offAux) : Keeps s₀ (s.beginEntry target) :=
  (State.leaveRegion_keeps h).onEavesAwake (fun _ => by rw [State.leaveRegion_eaves]; exact hs) fun _ => rfl

theorem saveRun_keeps {s₀ : State} (strong : Bool) (x : State × List Run) (n : Nat) (h : Keeps s₀ x.1) : Keeps s₀ (saveRun strong x n).1 :=
  State.alloc?_keeps h n strong false

theorem State.allocSave_keeps {s₀ s : State} (h : Keeps s₀ s) : Keeps s₀ s.allocSave.1 := by
  unfold State.allocSave
  extract_lets lens x
  have hx : Keeps s₀ x.1 := Keeps.foldl _ h fun x a h => saveRun_keeps _ x a h
  clear_value x lens
  split
  · exact hx
  · exact Keeps.fold hx x.2 fun s a h => State.unalloc_keeps h a

theorem State.watchWork_keeps {s₀ s : State} (h : Keeps s₀ s) : Keeps s₀ (State.watchWork s) := by
  unfold State.watchWork
  try dsimp only
  repeat' (first
    | (with_reducible first | assumption | apply State.allocSave_keeps | apply State.closeGathers_keeps | apply State.stopJob_keeps | apply State.writeBackBatten_keeps | apply Keeps.onEaves | apply Keeps.fold)
    | (intro _; rfl) | split | (intro _ _ _; try dsimp only) | (intro _; dsimp only; split <;> rfl))

theorem State.freeSave_keeps {s₀ s : State} (h : Keeps s₀ s) : Keeps s₀ (State.freeSave s) := by
  unfold State.freeSave
  try dsimp only
  repeat' (first
    | (with_reducible first | assumption | apply State.release_keeps | apply Keeps.onEaves | apply Keeps.fold) | (intro _; rfl)
    | (intro _ _ _; try dsimp only) | (intro _; dsimp only; split <;> rfl))

theorem State.abandonEntry_keeps {s₀ s : State} (h : Keeps s₀ s) : Keeps s₀ s.abandonEntry := by
  unfold State.abandonEntry
  extract_lets jobs s1 s2
  have h1 : Keeps s₀ s1 := h.onEavesEntry (fun _ => rfl) (fun _ => Or.inl rfl)
  have h2 : Keeps s₀ s2 := State.freeSave_keeps h1
  refine Keeps.fold h2 _ fun s a h => ?_
  split
  · exact State.resumeJob_keeps h _ _
  · exact h

theorem State.refuseSleep_keeps {s₀ s : State} (h : Keeps s₀ s) (e : Entry) (id reason : Nat) : Keeps s₀ (State.refuseSleep s e id reason) := by
  unfold State.refuseSleep
  try dsimp only
  repeat' (first
    | (with_reducible first | assumption | apply State.raiseLimited_keeps | apply State.abandonEntry_keeps | apply Keeps.onEaves)
    | (intro _; rfl) | (intro _; dsimp only; split <;> rfl))

theorem State.commitEntry_keeps {s₀ s : State} (h : Keeps s₀ s) (target : SledState) (hs : s₀.Sound → s.power.latched = false ∨ s.eaves.st ≠ .offAux) :
    Keeps s₀ (s.commitEntry target) := by
  unfold State.commitEntry
  with_reducible apply State.changeState_keeps'
  · with_reducible apply Keeps.onEavesEntry h
    · intro _; rfl
    · intro _; exact Or.inl rfl
  · exact hs
  · exact Or.inr rfl

theorem State.agreeSleep_keeps {s₀ s : State} (h : Keeps s₀ s) (e : Entry) (id : Nat) (hs : s₀.Sound → s.eaves.st ≠ .offAux) : Keeps s₀ (s.agreeSleep e id) := by
  unfold State.agreeSleep
  split
  · extract_lets s1
    have h1 : Keeps s₀ s1 := h.onEavesAwake hs fun _ => rfl
    split
    · exact Keeps.fold h1 _ fun s a h => State.pauseJob_keeps h a
    · exact h1
  · with_reducible apply State.commitEntry_keeps
    · with_reducible apply Keeps.onEaves h
      · intro _; rfl
      · intro _; rfl
    · exact fun x => Or.inr (hs x)

theorem State.answerSleep_keeps {s₀ s : State} (h : Keeps s₀ s) (refusal : Nat) : Keeps s₀ (s.answerSleep refusal) := by
  unfold State.answerSleep
  split
  · exact h
  · rename_i e he
    extract_lets id r
    split
    · exact State.refuseSleep_keeps h _ _ _
    · split
      · exact State.abandonEntry_keeps h
      · exact State.agreeSleep_keeps h _ _ fun x y => by rw [(h.sound x).asleep y] at he; cases he

theorem execDrowseIdleTimer_keeps (s : State) : ∃ t, execDrowseIdleTimer s = .next t ∧ Keeps s t := by
  unfold execDrowseIdleTimer
  split
  · rename_i e
    exact ⟨_, rfl, State.beginEntry_keeps (Keeps.refl s) _ (by rw [e.1]; decide)⟩
  · exact ⟨_, rfl, Keeps.refl s⟩

theorem execWatchEntryStart_keeps (s : State) : ∃ t, execWatchEntryStart s = .next t ∧ Keeps s t := by
  have h := Keeps.refl s
  unfold execWatchEntryStart
  split
  · exact ⟨_, rfl, h⟩
  · extract_lets back s1
    have h1 : Keeps s s1 := by
      unfold s1
      split
      · rename_i e
        unfold back
        with_reducible apply State.deliverHeld_keeps
        with_reducible apply State.changeState_keeps
        · with_reducible apply Keeps.onEaves h
          · intro _; rfl
          · intro _; rfl
        · right
          change s.eaves.st ≠ .offAux
          rw [e]; decide
        · left; decide
      · exact h
    split
    · exact ⟨_, rfl, h1⟩
    · rename_i e
      have e : s1.eaves.st = .active := by simpa using e
      exact ⟨_, rfl, State.watchWork_keeps (State.beginEntry_keeps h1 _ (by rw [e]; decide))⟩

theorem execSleepBlockAnswer_keeps (refusal : BitVec 8) (s : State) : ∃ t, execSleepBlockAnswer refusal s = .next t ∧ Keeps s t := by
  have h := Keeps.refl s
  unfold execSleepBlockAnswer
  try dsimp only
  repeat' first | refine ⟨_, rfl, ?_⟩ | (with_reducible first | assumption | apply State.answerSleep_keeps)

theorem execSleepAnswerTimeout_keeps (s : State) : ∃ t, execSleepAnswerTimeout s = .next t ∧ Keeps s t := by
  have h := Keeps.refl s
  unfold execSleepAnswerTimeout
  try dsimp only
  repeat' first | refine ⟨_, rfl, ?_⟩ | (with_reducible first | assumption | apply State.answerSleep_keeps)

theorem execSleepBackoffRetry_keeps (s : State) : ∃ t, execSleepBackoffRetry s = .next t ∧ Keeps s t := by
  unfold execSleepBackoffRetry
  split
  · exact ⟨_, rfl, Keeps.refl s⟩
  · extract_lets s1
    have h1 : Keeps s s1 := (Keeps.refl s).onEaves (fun _ => rfl) (fun _ => rfl)
    split
    · exact ⟨_, rfl, h1⟩
    · rename_i e
      have e : s1.eaves.st ≠ .offAux := fun y => e (Or.inl (by rw [y]; decide))
      split <;> refine ⟨_, rfl, ?_⟩ <;> split
      · exact State.watchWork_keeps (State.beginEntry_keeps h1 _ e)
      · exact h1
      · exact State.beginEntry_keeps h1 _ e
      · exact h1

theorem execSamplerCycle_keeps (samples : List (BitVec 16)) (s : State) : ∃ t, execSamplerCycle samples s = .next t ∧ Keeps s t := by
  have h := Keeps.refl s
  unfold execSamplerCycle
  try dsimp only
  repeat' (first
    | refine ⟨_, rfl, ?_⟩
    | (with_reducible first | assumption | apply State.readSensors_keeps | apply State.wakeWatch_keeps | apply State.wakeDrowse_keeps | apply State.convert_keeps | apply State.raiseAll_keeps | apply Keeps.fold | apply Keeps.onEaves)
    | (intro _; rfl) | split | (intro _ _ _; try dsimp only) | (intro _; dsimp only; split <;> rfl))

theorem execSidebandAddressMatch_keeps (address : BitVec 7) (s : State) : ∃ t, execSidebandAddressMatch address s = .next t ∧ Keeps s t := by
  have h := Keeps.refl s
  unfold execSidebandAddressMatch
  try dsimp only
  repeat' first | refine ⟨_, rfl, ?_⟩ | (with_reducible first | assumption | apply State.addressMatch_keeps) | split

theorem execCrystalStop_keeps (s : State) : ∃ t, execCrystalStop s = .next t ∧ Keeps s t := by
  have h := Keeps.refl s
  unfold execCrystalStop
  try dsimp only
  repeat' (first
    | refine ⟨_, rfl, ?_⟩ | (with_reducible first | assumption | apply State.raiseAll_keeps | apply Keeps.onEaves) | (intro _; rfl)
    | split | (intro _; dsimp only; split <;> rfl))

theorem execTimeBaseSave_keeps (s : State) : ∃ t, execTimeBaseSave s = .next t ∧ Keeps s t := by
  have h := Keeps.refl s
  unfold execTimeBaseSave
  try dsimp only
  repeat' (first
    | refine ⟨_, rfl, ?_⟩ | (with_reducible first | assumption | apply Keeps.onEaves) | (intro _; rfl) | split
    | (intro _; dsimp only; split <;> rfl))

theorem execPurlinGatedAccess_keeps (block : BitVec 8) (s : State) : ∃ t, execPurlinGatedAccess block s = .next t ∧ Keeps s t := by
  have h := Keeps.refl s
  unfold execPurlinGatedAccess
  try dsimp only
  repeat' first | refine ⟨_, rfl, ?_⟩ | (with_reducible first | assumption | apply State.raiseLimited_keeps | apply Keeps.emit) | split

theorem execGetPowerState_keeps (p : Path) (s : State) : ∃ t, execGetPowerState p s = .next t ∧ Keeps s t := by
  have h := Keeps.refl s
  unfold execGetPowerState
  try dsimp only
  repeat' (first
    | refine ⟨_, rfl, ?_⟩ | (with_reducible first | assumption | apply State.command_keeps) | split | (intro _ _; try dsimp only))

theorem execSetWatchConsent_keeps (p : Path) (consent whole : Bool) (s : State) : ∃ t, execSetWatchConsent p consent whole s = .next t ∧ Keeps s t := by
  have h := Keeps.refl s
  unfold execSetWatchConsent
  try dsimp only
  repeat' (first
    | refine ⟨_, rfl, ?_⟩ | (with_reducible first | assumption | apply State.command_keeps | apply refuse_keeps | apply Keeps.onEaves)
    | (intro _; rfl) | split | (intro _ _; try dsimp only) | (intro _; dsimp only; split <;> rfl))

theorem execSetPowerStatePolicy_keeps (p : Path) (drowse watch : Bool) (idleUs sampleMs ceilingMs : BitVec 32) (s : State) : ∃ t, execSetPowerStatePolicy p drowse watch idleUs sampleMs ceilingMs s = .next t ∧ Keeps s t := by
  have h := Keeps.refl s
  unfold execSetPowerStatePolicy
  try dsimp only
  repeat' (first
    | refine ⟨_, rfl, ?_⟩ | (with_reducible first | assumption | apply State.privileged_keeps | apply refuse_keeps | apply Keeps.onEaves)
    | (intro _; rfl) | split | (intro _ _; try dsimp only) | (intro _; dsimp only; split <;> rfl))

theorem execSetWatchThresholds_keeps (p : Path) (index : BitVec 8) (lowOn highOn : Bool) (low high : BitVec 16) (s : State) : ∃ t, execSetWatchThresholds p index lowOn highOn low high s = .next t ∧ Keeps s t := by
  have h := Keeps.refl s
  unfold execSetWatchThresholds
  try dsimp only
  repeat' (first
    | refine ⟨_, rfl, ?_⟩ | (with_reducible first | assumption | apply State.privileged_keeps | apply refuse_keeps | apply Keeps.onEaves)
    | (intro _; rfl) | split | (intro _ _; try dsimp only) | (intro _; dsimp only; split <;> rfl))

theorem execGetWatchSamples_keeps (p : Path) (s : State) : ∃ t, execGetWatchSamples p s = .next t ∧ Keeps s t := by
  have h := Keeps.refl s
  unfold execGetWatchSamples
  try dsimp only
  repeat' first | refine ⟨_, rfl, ?_⟩ | (with_reducible first | assumption | apply State.command_keeps) | (intro _ _; try dsimp only)

theorem execGetSleepRefusals_keeps (p : Path) (block : BitVec 8) (s : State) : ∃ t, execGetSleepRefusals p block s = .next t ∧ Keeps s t := by
  have h := Keeps.refl s
  unfold execGetSleepRefusals
  try dsimp only
  repeat' (first
    | refine ⟨_, rfl, ?_⟩ | (with_reducible first | assumption | apply State.command_keeps | apply refuse_keeps) | split
    | (intro _ _; try dsimp only))

theorem State.insertion_keeps {s₀ s : State} (h : Keeps s₀ s) : Keeps s₀ (State.insertion s) := by
  unfold State.insertion
  try dsimp only
  repeat' first | (with_reducible first | assumption | apply State.tryDelay_keeps | apply Keeps.onBoot)

theorem State.reinserted_keeps {s₀ s : State} (h : Keeps s₀ s) : Keeps s₀ (State.reinserted s) := by
  unfold State.reinserted
  try dsimp only
  repeat' (first
    | (with_reducible first | assumption | apply State.raisePower_keeps | apply Keeps.onPower) | (intro _; rfl) | split
    | (intro _; dsimp only; split <;> rfl))

theorem execAuxPowerUp_keeps (s : State) : ∃ t, execAuxPowerUp s = .next t ∧ Keeps s t := by
  have h := Keeps.refl s
  unfold execAuxPowerUp
  try dsimp only
  repeat' (first
    | refine ⟨_, rfl, ?_⟩
    | (with_reducible first | assumption | apply State.insertion_keeps | apply State.reinserted_keeps | apply State.startEaves_keeps | apply Keeps.onPower)
    | (intro _; rfl) | split | (intro _; dsimp only; split <;> rfl))

theorem execPrsntAssert_keeps (s : State) : ∃ t, execPrsntAssert s = .next t ∧ Keeps s t := by
  have h := Keeps.refl s
  unfold execPrsntAssert
  try dsimp only
  repeat' (first
    | refine ⟨_, rfl, ?_⟩
    | (with_reducible first | assumption | apply State.insertion_keeps | apply State.reinserted_keeps | apply State.startEaves_keeps | apply Keeps.onConn | apply Keeps.onPower)
    | (intro _; rfl) | split | (intro _; dsimp only; split <;> rfl))

theorem State.remove_keeps {s₀ s : State} (h : Keeps s₀ s) : Keeps s₀ (State.remove s) := by
  unfold State.remove
  try dsimp only
  repeat' (first
    | (with_reducible first | assumption | apply State.enterOffAux_keeps | apply State.openSwitch_keeps | apply State.setFold_keeps | apply Keeps.onPower)
    | (intro _; rfl) | split | (intro _; dsimp only; split <;> rfl))

theorem execPrsntDeassert_keeps (s : State) : ∃ t, execPrsntDeassert s = .next t ∧ Keeps s t := by
  have h := Keeps.refl s
  unfold execPrsntDeassert
  try dsimp only
  repeat' (first
    | refine ⟨_, rfl, ?_⟩ | (with_reducible first | assumption | apply State.remove_keeps | apply Keeps.onPower) | (intro _; rfl) | split
    | (intro _; dsimp only; split <;> rfl))

theorem execAuxExcursion_keeps (s : State) : ∃ t, execAuxExcursion s = .next t ∧ Keeps s t := by
  have h := Keeps.refl s
  unfold execAuxExcursion
  try dsimp only
  repeat' (first
    | refine ⟨_, rfl, ?_⟩ | (with_reducible first | assumption | apply State.remove_keeps | apply Keeps.onPower) | (intro _; rfl) | split
    | (intro _; dsimp only; split <;> rfl))

theorem execMainExcursion_keeps (excess : Bool) (mv : BitVec 16) (s : State) : ∃ t, execMainExcursion excess mv s = .next t ∧ Keeps s t := by
  have h := Keeps.refl s
  unfold execMainExcursion
  try dsimp only
  repeat' (first
    | refine ⟨_, rfl, ?_⟩
    | (with_reducible first | assumption | apply State.raisePower_keeps | apply State.enterOffAux_keeps | apply State.openSwitch_keeps | apply State.setFold_keeps | apply Keeps.onPower)
    | (intro _; rfl) | split | (intro _; dsimp only; split <;> rfl))

theorem execMainInWindow_keeps (s : State) : ∃ t, execMainInWindow s = .next t ∧ Keeps s t := by
  have h := Keeps.refl s
  unfold execMainInWindow
  try dsimp only
  repeat' (first
    | refine ⟨_, rfl, ?_⟩ | (with_reducible first | assumption | apply State.insertion_keeps | apply Keeps.onPower) | (intro _; rfl)
    | split | (intro _; dsimp only; split <;> rfl))

theorem execHoldupEnd_keeps (s : State) : ∃ t, execHoldupEnd s = .next t ∧ Keeps s t := by
  unfold execHoldupEnd
  split
  · exact ⟨_, rfl, Keeps.refl s⟩
  · exact ⟨_, rfl, rfl, rfl, rfl, rfl, Nat.le_refl _, fun x => ⟨x.memory, nofun, fun _ => rfl⟩⟩

theorem execInsertionDelayEnd_keeps (s : State) : ∃ t, execInsertionDelayEnd s = .next t ∧ Keeps s t := by
  unfold execInsertionDelayEnd
  split
  · exact ⟨_, rfl, Keeps.refl s⟩
  · rename_i e
    refine ⟨_, rfl, (Keeps.refl s).onPowerSwitch ?_ fun _ => rfl⟩
    intro y; exact e (by rw [y]; decide)

theorem execRampPowerGood_keeps (s : State) : ∃ t, execRampPowerGood s = .next t ∧ Keeps s t := by
  unfold execRampPowerGood
  refine ⟨_, rfl, ?_⟩
  split
  · rename_i e
    exact (Keeps.refl s).onPowerSwitch (by rw [e]; decide) fun _ => rfl
  · exact Keeps.refl s

theorem execRailsGood_keeps (marchOk : Bool) (s : State) : ∃ t, execRailsGood marchOk s = .next t ∧ Keeps s t := by
  unfold execRailsGood
  split
  · exact ⟨_, rfl, Keeps.refl s⟩
  · rename_i e
    have e : s.power.sw = .rails := by simpa using e
    extract_lets s1 s2 s3 s4 s5 s6 s7
    refine ⟨_, rfl, ?_⟩
    have h4 : Keeps s s4 := by
      apply Keeps.onCtr
      refine Keeps.onEaves ?_ (fun _ => rfl) (fun _ => rfl)
      apply Keeps.onConn
      exact (Keeps.refl s).onPowerSwitch (by rw [e]; decide) fun _ => rfl
    have h5 : Keeps s s5 := State.changeState_keeps' h4 _ _ (fun x => Or.inl (by
      cases l : s.power.latched with
      | false => exact l
      | true => exact absurd (x.latched l).1 (by rw [e]; decide))) (Or.inl (by decide))
    apply State.milestone_keeps
    unfold s7
    split
    · exact State.setReady_keeps (h5.onBoot _) _ _
    · exact State.setReady_keeps (h5.onBoot _) _ _

theorem State.trip_keeps {s₀ s : State} (h : Keeps s₀ s) (cause : Nat) (t : TripSense) : Keeps s₀ (s.trip cause t) := by
  unfold State.trip
  extract_lets p phase soa count latch now s1 s2 s3 s4
  have h3 : Keeps s₀ s3 := by
    have h1 := State.setFold_keeps h false
    refine State.enterOffAux_of h1.queue h1.clock h1.small h1.serial h1.fused fun x => ⟨(h1.sound x).memory, fun y => ?_, (h1.sound x).asleep⟩
    change latch = true at y
    exact if_pos y
  have h4 : Keeps s₀ s4 := State.raisePower_keeps h3 _ _ _
  split
  · exact State.raisePower_keeps h4 _ _ _
  · exact h4

theorem execRampTimeout_keeps (sense : TripSense) (s : State) : ∃ t, execRampTimeout sense s = .next t ∧ Keeps s t := by
  have h := Keeps.refl s
  unfold execRampTimeout
  try dsimp only
  repeat' first | refine ⟨_, rfl, ?_⟩ | (with_reducible first | assumption | apply State.trip_keeps) | split

theorem execRailsTimeout_keeps (sense : TripSense) (s : State) : ∃ t, execRailsTimeout sense s = .next t ∧ Keeps s t := by
  have h := Keeps.refl s
  unfold execRailsTimeout
  try dsimp only
  repeat' first | refine ⟨_, rfl, ?_⟩ | (with_reducible first | assumption | apply State.trip_keeps) | split

theorem execRegulatorFault_keeps (sense : TripSense) (s : State) : ∃ t, execRegulatorFault sense s = .next t ∧ Keeps s t := by
  have h := Keeps.refl s
  unfold execRegulatorFault
  try dsimp only
  repeat' first | refine ⟨_, rfl, ?_⟩ | (with_reducible first | assumption | apply State.trip_keeps) | split

theorem execFoldbackEntry_keeps (s : State) : ∃ t, execFoldbackEntry s = .next t ∧ Keeps s t := by
  have h := Keeps.refl s
  unfold execFoldbackEntry
  try dsimp only
  repeat' first | refine ⟨_, rfl, ?_⟩ | (with_reducible first | assumption | apply State.setFold_keeps) | split

theorem execFoldbackExit_keeps (s : State) : ∃ t, execFoldbackExit s = .next t ∧ Keeps s t := by
  have h := Keeps.refl s
  unfold execFoldbackExit
  try dsimp only
  repeat' first | refine ⟨_, rfl, ?_⟩ | (with_reducible first | assumption | apply State.setFold_keeps)

theorem execSoaTimerExpiry_keeps (sense : TripSense) (s : State) : ∃ t, execSoaTimerExpiry sense s = .next t ∧ Keeps s t := by
  have h := Keeps.refl s
  unfold execSoaTimerExpiry
  try dsimp only
  repeat' (first
    | refine ⟨_, rfl, ?_⟩ | (with_reducible first | assumption | apply State.trip_keeps | apply Keeps.onPower) | (intro _; rfl) | split
    | (intro _; dsimp only; split <;> rfl))

theorem execFastTrip_keeps (sense : TripSense) (s : State) : ∃ t, execFastTrip sense s = .next t ∧ Keeps s t := by
  have h := Keeps.refl s
  unfold execFastTrip
  try dsimp only
  repeat' first | refine ⟨_, rfl, ?_⟩ | (with_reducible first | assumption | apply State.trip_keeps) | split

theorem execTripRetry_keeps (s : State) : ∃ t, execTripRetry s = .next t ∧ Keeps s t := by
  unfold execTripRetry
  split
  · exact ⟨_, rfl, Keeps.refl s⟩
  · extract_lets s1
    have h1 : Keeps s s1 := (Keeps.refl s).onPower (fun _ => rfl) (fun _ => rfl)
    split
    · rename_i e
      refine ⟨_, rfl, ?_⟩
      with_reducible apply State.raisePower_keeps
      with_reducible apply Keeps.onPowerSwitch h1
      · rw [e.1]; decide
      · intro _; rfl
    · exact ⟨_, rfl, State.tryDelay_keeps h1⟩

theorem execTripCountReset_keeps (s : State) : ∃ t, execTripCountReset s = .next t ∧ Keeps s t := by
  have h := Keeps.refl s
  unfold execTripCountReset
  try dsimp only
  repeat' (first
    | refine ⟨_, rfl, ?_⟩ | (with_reducible first | assumption | apply Keeps.onPower) | (intro _; rfl) | split
    | (intro _; dsimp only; split <;> rfl))

theorem execPowerConversion_keeps (c : Conversion) (s : State) : ∃ t, execPowerConversion c s = .next t ∧ Keeps s t := by
  have h := Keeps.refl s
  unfold execPowerConversion
  try dsimp only
  repeat' first | refine ⟨_, rfl, ?_⟩ | (with_reducible first | assumption | apply State.convert_keeps) | split

theorem execGetPowerPathStatus_keeps (p : Path) (s : State) : ∃ t, execGetPowerPathStatus p s = .next t ∧ Keeps s t := by
  have h := Keeps.refl s
  unfold execGetPowerPathStatus
  try dsimp only
  repeat' first | refine ⟨_, rfl, ?_⟩ | (with_reducible first | assumption | apply State.arrive_keeps) | split | (intro _ _; try dsimp only)

theorem execSetPowerPathPolicy_keeps (p : Path) (limit retry : BitVec 8) (soa delay : BitVec 16) (s : State) : ∃ t, execSetPowerPathPolicy p limit retry soa delay s = .next t ∧ Keeps s t := by
  have h := Keeps.refl s
  unfold execSetPowerPathPolicy
  try dsimp only
  repeat' (first
    | refine ⟨_, rfl, ?_⟩ | (with_reducible first | assumption | apply State.arrive_keeps | apply refuse_keeps | apply Keeps.onPower)
    | (intro _; rfl) | split | (intro _ _; try dsimp only) | (intro _; dsimp only; split <;> rfl))

theorem execClearPowerLatch_keeps (p : Path) (s : State) : ∃ t, execClearPowerLatch p s = .next t ∧ Keeps s t := by
  refine ⟨_, rfl, State.arrive_keeps (Keeps.refl s) _ _ _ _ fun s h => ?_⟩
  split
  · exact h
  · split
    · exact h
    · exact State.tryDelay_keeps (State.raisePower_keeps (h.onPowerClear rfl) _ _ _)

theorem execGetPowerReadings_keeps (p : Path) (resetPeaks resetEnergy : Bool) (s : State) : ∃ t, execGetPowerReadings p resetPeaks resetEnergy s = .next t ∧ Keeps s t := by
  have h := Keeps.refl s
  unfold execGetPowerReadings
  try dsimp only
  repeat' (first
    | refine ⟨_, rfl, ?_⟩ | (with_reducible first | assumption | apply State.arrive_keeps | apply Keeps.onPower) | (intro _; rfl) | split
    | (intro _ _; try dsimp only) | (intro _; dsimp only; split <;> rfl))

theorem execGetTripRecords_keeps (p : Path) (s : State) : ∃ t, execGetTripRecords p s = .next t ∧ Keeps s t := by
  have h := Keeps.refl s
  unfold execGetTripRecords
  try dsimp only
  repeat' first | refine ⟨_, rfl, ?_⟩ | (with_reducible first | assumption | apply State.arrive_keeps) | (intro _ _; try dsimp only)

theorem execRegionTestInterval_keeps (failingWord : Option (BitVec 16)) (finished : Bool) (s : State) : ∃ t, execRegionTestInterval failingWord finished s = .next t ∧ Keeps s t := by
  have h := Keeps.refl s
  unfold execRegionTestInterval
  try dsimp only
  repeat' first | refine ⟨_, rfl, ?_⟩ | (with_reducible first | assumption | apply State.raiseAll_keeps | apply Keeps.onSram) | split

theorem execRegionTestAbandon_keeps (s : State) : ∃ t, execRegionTestAbandon s = .next t ∧ Keeps s t := by
  have h := Keeps.refl s
  unfold execRegionTestAbandon
  try dsimp only
  repeat' first | refine ⟨_, rfl, ?_⟩ | (with_reducible first | assumption | apply State.leaveRegion_keeps)

theorem execGetOnchipMemoryStatus_keeps (p : Path) (s : State) : ∃ t, execGetOnchipMemoryStatus p s = .next t ∧ Keeps s t := by
  have h := Keeps.refl s
  unfold execGetOnchipMemoryStatus
  try dsimp only
  repeat' (first
    | refine ⟨_, rfl, ?_⟩ | (with_reducible first | assumption | apply State.command_keeps) | split | (intro _ _; try dsimp only))

theorem execSetMemoryTestPolicy_keeps (p : Path) (enable : Bool) (us : BitVec 32) (s : State) : ∃ t, execSetMemoryTestPolicy p enable us s = .next t ∧ Keeps s t := by
  have h := Keeps.refl s
  unfold execSetMemoryTestPolicy
  try dsimp only
  repeat' (first
    | refine ⟨_, rfl, ?_⟩ | (with_reducible first | assumption | apply State.privileged_keeps | apply refuse_keeps | apply Keeps.onSram)
    | split | (intro _ _; try dsimp only))

theorem State.sampleCounter_keeps {s₀ s : State} (h : Keeps s₀ s) (n : Nat) : Keeps s₀ (State.sampleCounter s n) := by
  unfold State.sampleCounter
  try dsimp only
  repeat' first | (with_reducible first | assumption | apply State.bumpOne_keeps | apply Keeps.onCtr) | split

theorem State.clearGroupChg_keeps {s₀ s : State} (h : Keeps s₀ s) (l : LdId) : Keeps s₀ (State.clearGroupChg s l) := by
  unfold State.clearGroupChg
  try dsimp only
  repeat' first | (with_reducible first | assumption | apply State.onLd_keeps)

theorem State.clearPressureChg_keeps {s₀ s : State} (h : Keeps s₀ s) (l : LdId) : Keeps s₀ (State.clearPressureChg s l) := by
  unfold State.clearPressureChg
  try dsimp only
  repeat' first | (with_reducible first | assumption | apply State.onLd_keeps)

theorem State.statusWrite_keeps {s₀ s : State} (h : Keeps s₀ s) (l : LdId) (off value : Nat) : Keeps s₀ (State.statusWrite s l off value) := by
  unfold State.statusWrite
  try dsimp only
  repeat' (first
    | (with_reducible first | assumption | apply State.onLd_keeps | apply State.clearGroupChg_keeps | apply State.clearPressureChg_keeps)
    | split)

theorem State.doorbellWrite_keeps {s₀ s : State} (h : Keeps s₀ s) (m : MmioSrc) (page : Nat) (f : Doorbell → Doorbell) : Keeps s₀ (State.doorbellWrite s m page f) := by
  unfold State.doorbellWrite
  try dsimp only
  repeat' first | (with_reducible first | assumption | apply State.raiseLimited_keeps | apply Keeps.onReg) | split

theorem State.writeUrgency_keeps {s₀ s : State} (h : Keeps s₀ s) (m : MmioSrc) (page value : Nat) : Keeps s₀ (State.writeUrgency s m page value) := by
  unfold State.writeUrgency
  try dsimp only
  repeat' first | (with_reducible first | assumption | apply State.doorbellWrite_keeps)

theorem State.writeHold_keeps {s₀ s : State} (h : Keeps s₀ s) (m : MmioSrc) (page value : Nat) : Keeps s₀ (State.writeHold s m page value) := by
  unfold State.writeHold
  try dsimp only
  repeat' first | (with_reducible first | assumption | apply State.doorbellWrite_keeps)

theorem State.barWrite_keeps {s₀ s : State} (h : Keeps s₀ s) (m : MmioSrc) (offset value : Nat) : Keeps s₀ (State.barWrite s m offset value) := by
  unfold State.barWrite
  try dsimp only
  repeat' (first
    | (with_reducible first | assumption | apply State.doorbellWrite_keeps | apply State.writeHold_keeps | apply State.writeUrgency_keeps | apply State.statusWrite_keeps)
    | split)

theorem State.mmio_keeps {s₀ s : State} (h : Keeps s₀ s) (i : Instr) (m : MmioSrc) {f : State → State} (hf : Keeps s₀ (f s)) : Keeps s₀ (s.mmio i m f) := by
  refine State.afterExit_keeps h i ?_
  split
  · exact hf
  · exact h

theorem execDoorbellUrgencyWrite_keeps (src : MmioSrc) (page : BitVec 12) (value : BitVec 32) (s : State) : ∃ t, execDoorbellUrgencyWrite src page value s = .next t ∧ Keeps s t := by
  have h := Keeps.refl s
  unfold execDoorbellUrgencyWrite
  try dsimp only
  repeat' first | refine ⟨_, rfl, ?_⟩ | (with_reducible first | assumption | apply State.mmio_keeps | apply State.writeUrgency_keeps)

theorem execDoorbellUrgencyHoldWrite_keeps (src : MmioSrc) (page : BitVec 12) (value : BitVec 32) (s : State) : ∃ t, execDoorbellUrgencyHoldWrite src page value s = .next t ∧ Keeps s t := by
  have h := Keeps.refl s
  unfold execDoorbellUrgencyHoldWrite
  try dsimp only
  repeat' first | refine ⟨_, rfl, ?_⟩ | (with_reducible first | assumption | apply State.mmio_keeps | apply State.writeHold_keeps)

theorem execUrgencyHoldExpiry_keeps (page : BitVec 12) (s : State) : ∃ t, execUrgencyHoldExpiry page s = .next t ∧ Keeps s t := by
  have h := Keeps.refl s
  unfold execUrgencyHoldExpiry
  try dsimp only
  repeat' first | refine ⟨_, rfl, ?_⟩ | (with_reducible first | assumption | apply Keeps.onReg) | split

theorem execGroupChgClear_keeps (src : MmioSrc) (s : State) : ∃ t, execGroupChgClear src s = .next t ∧ Keeps s t := by
  have h := Keeps.refl s
  unfold execGroupChgClear
  try dsimp only
  repeat' first | refine ⟨_, rfl, ?_⟩ | (with_reducible first | assumption | apply State.mmio_keeps | apply State.clearGroupChg_keeps)

theorem execPressureChgClear_keeps (src : MmioSrc) (s : State) : ∃ t, execPressureChgClear src s = .next t ∧ Keeps s t := by
  have h := Keeps.refl s
  unfold execPressureChgClear
  try dsimp only
  repeat' first | refine ⟨_, rfl, ?_⟩ | (with_reducible first | assumption | apply State.mmio_keeps | apply State.clearPressureChg_keeps)

theorem execRegisterWrite_keeps (src : MmioSrc) (offset : BitVec 26) (value : BitVec 32) (s : State) : ∃ t, execRegisterWrite src offset value s = .next t ∧ Keeps s t := by
  have h := Keeps.refl s
  unfold execRegisterWrite
  try dsimp only
  repeat' first | refine ⟨_, rfl, ?_⟩ | (with_reducible first | assumption | apply State.mmio_keeps | apply State.barWrite_keeps)

theorem execGatedBlockMmio_keeps (src : MmioSrc) (offset : BitVec 26) (write : Option (BitVec 32)) (s : State) : ∃ t, execGatedBlockMmio src offset write s = .next t ∧ Keeps s t := by
  have h := Keeps.refl s
  unfold execGatedBlockMmio
  try dsimp only
  repeat' (first
    | refine ⟨_, rfl, ?_⟩
    | (with_reducible first | assumption | apply State.mmio_keeps | apply State.barWrite_keeps | apply Keeps.onEaves | apply Keeps.emit)
    | (intro _; rfl) | split | (intro _; dsimp only; split <;> rfl))

theorem execBandwidthWindowEnd_keeps (s : State) : ∃ t, execBandwidthWindowEnd s = .next t ∧ Keeps s t := by
  have h := Keeps.refl s
  unfold execBandwidthWindowEnd
  try dsimp only
  repeat' first | refine ⟨_, rfl, ?_⟩ | (with_reducible first | assumption | apply Keeps.onCtr) | split

theorem execSetGeneralCounter_keeps (p : Path) (counter : BitVec 8) (enable level : Bool) (event : BitVec 8) (qualifier : BitVec 16) (s : State) : ∃ t, execSetGeneralCounter p counter enable level event qualifier s = .next t ∧ Keeps s t := by
  have h := Keeps.refl s
  unfold execSetGeneralCounter
  try dsimp only
  repeat' (first
    | refine ⟨_, rfl, ?_⟩ | (with_reducible first | assumption | apply State.privileged_keeps | apply refuse_keeps | apply Keeps.onCtr)
    | split | (intro _ _; try dsimp only))

theorem execClearCounters_keeps (p : Path) (groups : BitVec 8) (s : State) : ∃ t, execClearCounters p groups s = .next t ∧ Keeps s t := by
  have h := Keeps.refl s
  unfold execClearCounters
  try dsimp only
  repeat' (first
    | refine ⟨_, rfl, ?_⟩ | (with_reducible first | assumption | apply State.privileged_keeps | apply Keeps.onReg | apply Keeps.onCtr)
    | split | (intro _ _; try dsimp only))

theorem execSetBandwidthWindow_keeps (p : Path) (us : BitVec 32) (s : State) : ∃ t, execSetBandwidthWindow p us s = .next t ∧ Keeps s t := by
  have h := Keeps.refl s
  unfold execSetBandwidthWindow
  try dsimp only
  repeat' (first
    | refine ⟨_, rfl, ?_⟩ | (with_reducible first | assumption | apply State.privileged_keeps | apply refuse_keeps | apply Keeps.onCtr)
    | split | (intro _ _; try dsimp only))

theorem execSetTracePolicy_keeps (p : Path) (kinds sample : BitVec 8) (rid : BitVec 16) (cls : BitVec 8) (s : State) : ∃ t, execSetTracePolicy p kinds sample rid cls s = .next t ∧ Keeps s t := by
  have h := Keeps.refl s
  unfold execSetTracePolicy
  try dsimp only
  repeat' (first
    | refine ⟨_, rfl, ?_⟩ | (with_reducible first | assumption | apply State.privileged_keeps | apply refuse_keeps | apply Keeps.onCtr)
    | split | (intro _ _; try dsimp only))

theorem execSetCounterAccess_keeps (p : Path) (rid : BitVec 16) (counter trace : Bool) (s : State) : ∃ t, execSetCounterAccess p rid counter trace s = .next t ∧ Keeps s t := by
  have h := Keeps.refl s
  unfold execSetCounterAccess
  try dsimp only
  repeat' (first
    | refine ⟨_, rfl, ?_⟩ | (with_reducible first | assumption | apply State.privileged_keeps | apply refuse_keeps | apply Keeps.onCtr)
    | split | (intro _ _; try dsimp only))

theorem execReadCounterArea_keeps (p : Path) (area : BitVec 8) (page offset length : BitVec 16) (s : State) : ∃ t, execReadCounterArea p area page offset length s = .next t ∧ Keeps s t := by
  have h := Keeps.refl s
  unfold execReadCounterArea
  try dsimp only
  repeat' (first
    | refine ⟨_, rfl, ?_⟩ | (with_reducible first | assumption | apply State.command_keeps | apply refuse_keeps) | split
    | (intro _ _; try dsimp only))

theorem execStrapPoll_keeps (read : Straps) (s : State) : ∃ t, execStrapPoll read s = .next t ∧ Keeps s t := by
  have h := Keeps.refl s
  unfold execStrapPoll
  try dsimp only
  repeat' (first
    | refine ⟨_, rfl, ?_⟩ | (with_reducible first | assumption | apply State.raiseLimited_keeps | apply Keeps.fold | apply Keeps.onConn)
    | split | (intro _ _ _; try dsimp only))

theorem execLocateTimeout_keeps (s : State) : ∃ t, execLocateTimeout s = .next t ∧ Keeps s t := by
  have h := Keeps.refl s
  unfold execLocateTimeout
  try dsimp only
  repeat' first | refine ⟨_, rfl, ?_⟩ | (with_reducible first | assumption | apply Keeps.onConn) | split

theorem execWakeHoldTimeout_keeps (s : State) : ∃ t, execWakeHoldTimeout s = .next t ∧ Keeps s t := by
  have h := Keeps.refl s
  unfold execWakeHoldTimeout
  try dsimp only
  repeat' first | refine ⟨_, rfl, ?_⟩ | (with_reducible first | assumption | apply Keeps.onConn)

theorem execAlertResponseAddress_keeps (s : State) : ∃ t, execAlertResponseAddress s = .next t ∧ Keeps s t := by
  have h := Keeps.refl s
  unfold execAlertResponseAddress
  try dsimp only
  repeat' first | refine ⟨_, rfl, ?_⟩ | (with_reducible first | assumption | apply Keeps.emit | apply Keeps.onConn) | split

theorem execI3cSetdasa_keeps (address : BitVec 7) (s : State) : ∃ t, execI3cSetdasa address s = .next t ∧ Keeps s t := by
  have h := Keeps.refl s
  unfold execI3cSetdasa
  try dsimp only
  repeat' first | refine ⟨_, rfl, ?_⟩ | (with_reducible first | assumption | apply Keeps.onConn) | split

theorem execI3cEntdaa_keeps (address : BitVec 7) (s : State) : ∃ t, execI3cEntdaa address s = .next t ∧ Keeps s t := by
  have h := Keeps.refl s
  unfold execI3cEntdaa
  try dsimp only
  repeat' first | refine ⟨_, rfl, ?_⟩ | (with_reducible first | assumption | apply Keeps.onConn) | split

theorem execGetConnectorStatus_keeps (p : Path) (s : State) : ∃ t, execGetConnectorStatus p s = .next t ∧ Keeps s t := by
  have h := Keeps.refl s
  unfold execGetConnectorStatus
  try dsimp only
  repeat' (first
    | refine ⟨_, rfl, ?_⟩ | (with_reducible first | assumption | apply State.command_keeps) | split | (intro _ _; try dsimp only))

theorem execSetLocateIndicator_keeps (p : Path) (value : BitVec 8) (s : State) : ∃ t, execSetLocateIndicator p value s = .next t ∧ Keeps s t := by
  have h := Keeps.refl s
  unfold execSetLocateIndicator
  try dsimp only
  repeat' (first
    | refine ⟨_, rfl, ?_⟩ | (with_reducible first | assumption | apply State.privileged_keeps | apply refuse_keeps | apply Keeps.onConn)
    | split | (intro _ _; try dsimp only))

theorem execSensorPoll_keeps (groups controller : List (BitVec 16)) (s : State) : ∃ t, execSensorPoll groups controller s = .next t ∧ Keeps s t := by
  have h := Keeps.refl s
  unfold execSensorPoll
  try dsimp only
  repeat' first | refine ⟨_, rfl, ?_⟩ | (with_reducible first | assumption | apply State.readSensors_keeps) | split

theorem execThermalShutdown_keeps (sensor : BitVec 8) (reading : BitVec 16) (s : State) : ∃ t, execThermalShutdown sensor reading s = .next t ∧ Keeps s t := by
  unfold execThermalShutdown
  split
  · exact ⟨_, rfl, Keeps.refl s⟩
  · extract_lets again s1 s2
    have h1 : Keeps s s1 := (Keeps.refl s).onTherm _
    have h2 := State.setFold_keeps h1 false
    refine ⟨_, rfl, State.enterOffAux_of h2.queue h2.clock h2.small h2.serial h2.fused fun x => ⟨(h2.sound x).memory, fun y => ?_, (h2.sound x).asleep⟩⟩
    exact if_pos y

theorem execThermalCooldownEnd_keeps (s : State) : ∃ t, execThermalCooldownEnd s = .next t ∧ Keeps s t := by
  have h := Keeps.refl s
  unfold execThermalCooldownEnd
  try dsimp only
  repeat' first | refine ⟨_, rfl, ?_⟩ | (with_reducible first | assumption | apply State.tryDelay_keeps | apply Keeps.onTherm)

theorem execGetThermalStatus_keeps (p : Path) (s : State) : ∃ t, execGetThermalStatus p s = .next t ∧ Keeps s t := by
  have h := Keeps.refl s
  unfold execGetThermalStatus
  try dsimp only
  repeat' (first
    | refine ⟨_, rfl, ?_⟩ | (with_reducible first | assumption | apply State.command_keeps) | split | (intro _ _; try dsimp only))

end Sys2Proof.Machine
end

