-- ==== Sys2Proof/Laws/KeepsServe.lean ====
section
/-! SUPPORT. What every command keeps: what waited and is served late, and a step of the queue. -/

namespace Sys2Proof.Machine

set_option Elab.async false
set_option linter.all false

theorem perform_keeps (s : State) (i : Instr) : ∃ t, perform i s = .next t ∧ Keeps s t := by
  unfold perform
  split
  · exact execMemrd_keeps _ s
  · exact execMemrddata_keeps _ s
  · exact execMemwr_keeps _ _ s
  · exact execMemwrptl_keeps _ _ _ s
  · exact execSanitize_keeps _ s
  · exact execSecureErase_keeps _ s
  · exact execInjectPoison_keeps _ _ s
  · exact execClearPoison_keeps _ _ _ s
  · exact execGetPoisonList_keeps _ _ _ s
  · exact execIdentifyMemoryDevice_keeps _ s
  · exact execGetSupportedLogs_keeps _ s
  · exact execGetLog_keeps _ _ _ _ s
  · exact execGetEventRecords_keeps _ _ s
  · exact execClearEventRecords_keeps _ _ _ _ s
  · exact execGetEventInterruptPolicy_keeps _ s
  · exact execSetEventInterruptPolicy_keeps _ _ s
  · exact execGetTimestamp_keeps _ s
  · exact execSetTimestamp_keeps _ _ s
  · exact execBackgroundOperationStatus_keeps _ s
  · exact execRequestAbortBackgroundOperation_keeps _ s
  · exact execBackgroundCommandComplete_keeps _ s
  · exact execGetCapacityStatus_keeps _ s
  · exact execSetOvercommitRatio_keeps _ _ s
  · exact execSetDefaultContext_keeps _ _ _ s
  · exact execGetDefaultContext_keeps _ _ s
  · exact execSetReleaseWait_keeps _ _ s
  · exact execSetGrowthDevice_keeps _ _ s
  · exact execGetBatten_keeps _ _ _ s
  · exact execGetTranslationStatus_keeps _ s
  · exact execRebuildBattenBlock_keeps _ _ s
  · exact execDiscardCourseRange_keeps _ _ _ s
  · exact execSetCompactionPolicy_keeps _ _ _ _ s
  · exact execGetTileCodingStatus_keeps _ s
  · exact execSetWriteGather_keeps _ _ s
  · exact execSetPhiozRange_keeps _ _ _ _ _ s
  · exact execGetPhiozRange_keeps _ _ s
  · exact execSetPhiozConversion_keeps _ _ _ s
  · exact execGetTileForm_keeps _ _ _ _ s
  · exact execGetPlacementStatus_keeps _ s
  · exact execSetPlacementPolicy_keeps _ _ s
  · exact execSetClassPlacement_keeps _ _ _ _ _ s
  · exact execStartThatchingJob_keeps _ _ _ _ _ _ _ s
  · exact execGetThatchingJob_keeps _ _ s
  · exact execResumeThatchingJob_keeps _ _ _ s
  · exact execStopThatchingJob_keeps _ _ _ s
  · exact execWarmCourseRange_keeps _ _ _ s
  · exact execGetTileCacheStatus_keeps _ s
  · exact execInvalidateTileCacheRange_keeps _ _ _ _ s
  · exact execSetTileCachePolicy_keeps _ _ _ s
  · exact execGetTileCacheSet_keeps _ _ s
  · exact execGetFlashingStatus_keeps _ s
  · exact execEstablishWrappingKey_keeps _ _ s
  · exact execLoadContextKey_keeps _ _ _ _ s
  · exact execDestroyContextKey_keeps _ _ _ s
  · exact execGetContext_keeps _ _ s
  · exact execSetContextAttributes_keeps _ _ _ _ s
  · exact execStartRekey_keeps _ _ s
  · exact execSetWriteCounterLimit_keeps _ _ _ s
  · exact execRotateRafterKey_keeps _ s
  · exact execGetChannelStatus_keeps _ _ s
  · exact execGetGroupStatus_keeps _ _ s
  · exact execSetGroupPowerPolicy_keeps _ _ _ _ _ s
  · exact execSetTrainingPolicy_keeps _ _ _ _ _ s
  · exact execSetDramSpeed_keeps _ _ s
  · exact execSetBankHashMasks_keeps _ _ _ _ s
  · exact execGetAddressMap_keeps _ _ s
  · exact execRetrainChannel_keeps _ _ _ s
  · exact execGetCodeStatus_keeps _ s
  · exact execGetSpareStatus_keeps _ s
  · exact execStartRangeScrub_keeps _ _ _ _ _ s
  · exact execSetPatrolPolicy_keeps _ _ _ s
  · exact execGetFaultRecords_keeps _ _ _ s
  · exact execSetRetirementPolicy_keeps _ _ _ _ _ _ s
  · exact execRetireStorage_keeps _ _ _ _ _ _ s
  · exact execClearRetirement_keeps _ _ _ _ _ _ s
  · exact execInjectSlotError_keeps _ _ _ _ _ s
  · exact execGetRegulationStatus_keeps _ s
  · exact execSetQueueRegulation_keeps _ _ s
  · exact execGetQueue_keeps _ _ _ s
  · exact execSetClassRegulation_keeps _ _ _ _ _ _ s
  · exact execSetClassGuarantee_keeps _ _ _ _ s
  · exact execSetUrgencySource_keeps _ _ _ _ _ s
  · exact execSetHistogramMonitor_keeps _ _ _ _ _ _ s
  · exact execGetRafterPortStatus_keeps _ _ s
  · exact execGetTransportPair_keeps _ _ s
  · exact execSetTransportPolicy_keeps _ _ _ _ s
  · exact execSetRafterPort_keeps _ _ _ s
  · exact execGetCascadeStatus_keeps _ s
  · exact execSetCascadeRange_keeps _ _ _ _ _ s
  · exact execGetCascadeRange_keeps _ _ s
  · exact execAddCascadeExtent_keeps _ _ _ _ _ _ s
  · exact execGetCascadeRoute_keeps _ _ s
  · exact execSetCascadePolicy_keeps _ _ _ _ s
  · exact execGetFwInfo_keeps _ s
  · exact execTransferFw_keeps _ _ _ _ _ s
  · exact execActivateFwOnline_keeps _ _ s
  · exact execActivateFwOffline_keeps _ _ s
  · exact execGetSledIdentity_keeps _ s
  · exact execGetBackgroundResult_keeps _ s
  · exact execRelayCommand_keeps _ _ _ _ s
  · exact execGetPurlinStatus_keeps _ s
  · exact execGetFirmwareStatus_keeps _ s
  · exact execSetFirmwarePolicy_keeps _ _ _ _ s
  · exact execGetLogStoreStatus_keeps _ s
  · exact execGetBringupStatus_keeps _ s
  · exact execRetryGroupAdmission_keeps _ _ s
  · exact execSetGroupAdmission_keeps _ _ _ s
  · exact execGetPowerState_keeps _ s
  · exact execSetWatchConsent_keeps _ _ _ s
  · exact execSetPowerStatePolicy_keeps _ _ _ _ _ _ s
  · exact execSetWatchThresholds_keeps _ _ _ _ _ _ s
  · exact execGetWatchSamples_keeps _ s
  · exact execGetSleepRefusals_keeps _ _ s
  · exact execGetPowerPathStatus_keeps _ s
  · exact execSetPowerPathPolicy_keeps _ _ _ _ _ s
  · exact execClearPowerLatch_keeps _ s
  · exact execGetPowerReadings_keeps _ _ _ s
  · exact execGetTripRecords_keeps _ s
  · exact execGetOnchipMemoryStatus_keeps _ s
  · exact execSetMemoryTestPolicy_keeps _ _ _ s
  · exact execSetGeneralCounter_keeps _ _ _ _ _ _ s
  · exact execClearCounters_keeps _ _ s
  · exact execSetBandwidthWindow_keeps _ _ s
  · exact execSetTracePolicy_keeps _ _ _ _ _ s
  · exact execSetCounterAccess_keeps _ _ _ _ s
  · exact execReadCounterArea_keeps _ _ _ _ _ s
  · exact execGetConnectorStatus_keeps _ s
  · exact execSetLocateIndicator_keeps _ _ s
  · exact execGetThermalStatus_keeps _ s
  · exact execUndefinedVendorOpcode_keeps _ _ s
  · exact execAddDcResponse_keeps _ _ s
  · exact execReleaseDcCapacity_keeps _ _ s
  · exact execDoorbellUrgencyWrite_keeps _ _ _ s
  · exact execDoorbellUrgencyHoldWrite_keeps _ _ _ s
  · exact execGroupChgClear_keeps _ s
  · exact execPressureChgClear_keeps _ s
  · exact execRegisterWrite_keeps _ _ _ s
  · exact execGatedBlockMmio_keeps _ _ _ s
  · exact execCxlIdeKm_keeps _ _ s
  · exact execPcieIdeKm_keeps _ _ s
  · exact execSpdmGetCertificate_keeps _ _ _ s
  · exact execTspSetKey_keeps _ _ _ _ s
  · exact execTspReplaceKey_keeps _ _ _ _ s
  · exact execTspClearKey_keeps _ _ _ s
  · exact execTspUnsupportedRequest_keeps _ _ _ s
  · exact ⟨_, rfl, Keeps.refl s⟩

theorem State.serveLate_keeps {s₀ s : State} (h : Keeps s₀ s) (i : Instr) : Keeps s₀ (s.serveLate i) := by
  obtain ⟨t, e, k⟩ := perform_keeps s i
  unfold State.serveLate
  rw [e]
  exact h.trans k

theorem State.takeRelayed_keeps {s₀ s : State} (h : Keeps s₀ s) (m : Message) : Keeps s₀ (State.takeRelayed s m) := by
  unfold State.takeRelayed
  try dsimp only
  repeat' (first
    | (with_reducible first | assumption | apply State.reply_keeps | apply State.serveLate_keeps | apply Keeps.onPurlin) | (intro _; rfl)
    | split | (intro _; dsimp only; split <;> rfl))

theorem State.takeReply_keeps {s₀ s : State} (h : Keeps s₀ s) (m : Message) : Keeps s₀ (State.takeReply s m) := by
  unfold State.takeReply
  try dsimp only
  repeat' (first
    | (with_reducible first | assumption | apply State.reply_keeps | apply Keeps.onPurlin) | (intro _; rfl) | split
    | (intro _; dsimp only; split <;> rfl))

theorem State.takeMessage_keeps {s₀ s : State} (h : Keeps s₀ s) (m : Message) : Keeps s₀ (State.takeMessage s m) := by
  unfold State.takeMessage
  try dsimp only
  repeat' first | (with_reducible first | assumption | apply State.takeReply_keeps | apply State.takeRelayed_keeps) | split

theorem State.arrivePacket_keeps {s₀ s : State} (h : Keeps s₀ s) (p : RaftPort) (iv : Option SyncIv) (packet : List Byte) : Keeps s₀ (State.arrivePacket s p iv packet) := by
  unfold State.arrivePacket
  try dsimp only
  repeat' first | (with_reducible first | assumption | apply State.land_keeps | apply State.takeMessage_keeps) | split

theorem execForwardedPacketLanded_keeps (port : RaftPort) (packet : List Byte) (s : State) : ∃ t, execForwardedPacketLanded port packet s = .next t ∧ Keeps s t := by
  have h := Keeps.refl s
  unfold execForwardedPacketLanded
  try dsimp only
  repeat' first | refine ⟨_, rfl, ?_⟩ | (with_reducible first | assumption | apply State.arrivePacket_keeps)

theorem execReadRequestPacket_keeps (port : RaftPort) (packet : List Byte) (s : State) : ∃ t, execReadRequestPacket port packet s = .next t ∧ Keeps s t := by
  have h := Keeps.refl s
  unfold execReadRequestPacket
  try dsimp only
  repeat' first | refine ⟨_, rfl, ?_⟩ | (with_reducible first | assumption | apply State.arrivePacket_keeps)

theorem execWriteRequestPacket_keeps (port : RaftPort) (packet : List Byte) (s : State) : ∃ t, execWriteRequestPacket port packet s = .next t ∧ Keeps s t := by
  have h := Keeps.refl s
  unfold execWriteRequestPacket
  try dsimp only
  repeat' first | refine ⟨_, rfl, ?_⟩ | (with_reducible first | assumption | apply State.arrivePacket_keeps)

theorem execReadResponsePacket_keeps (port : RaftPort) (packet : List Byte) (s : State) : ∃ t, execReadResponsePacket port packet s = .next t ∧ Keeps s t := by
  have h := Keeps.refl s
  unfold execReadResponsePacket
  try dsimp only
  repeat' first | refine ⟨_, rfl, ?_⟩ | (with_reducible first | assumption | apply State.arrivePacket_keeps)

theorem execWriteCompletionPacket_keeps (port : RaftPort) (packet : List Byte) (s : State) : ∃ t, execWriteCompletionPacket port packet s = .next t ∧ Keeps s t := by
  have h := Keeps.refl s
  unfold execWriteCompletionPacket
  try dsimp only
  repeat' first | refine ⟨_, rfl, ?_⟩ | (with_reducible first | assumption | apply State.arrivePacket_keeps)

theorem execAckPacket_keeps (port : RaftPort) (packet : List Byte) (s : State) : ∃ t, execAckPacket port packet s = .next t ∧ Keeps s t := by
  have h := Keeps.refl s
  unfold execAckPacket
  try dsimp only
  repeat' first | refine ⟨_, rfl, ?_⟩ | (with_reducible first | assumption | apply State.arrivePacket_keeps)

theorem execPairSyncPacket_keeps (port : RaftPort) (iv : SyncIv) (packet : List Byte) (s : State) : ∃ t, execPairSyncPacket port iv packet s = .next t ∧ Keeps s t := by
  have h := Keeps.refl s
  unfold execPairSyncPacket
  try dsimp only
  repeat' first | refine ⟨_, rfl, ?_⟩ | (with_reducible first | assumption | apply State.arrivePacket_keeps)

theorem execRafterMailboxRequest_keeps (port : RaftPort) (packet : List Byte) (s : State) : ∃ t, execRafterMailboxRequest port packet s = .next t ∧ Keeps s t := by
  have h := Keeps.refl s
  unfold execRafterMailboxRequest
  try dsimp only
  repeat' first | refine ⟨_, rfl, ?_⟩ | (with_reducible first | assumption | apply State.arrivePacket_keeps)

theorem execRafterMailboxReply_keeps (port : RaftPort) (packet : List Byte) (s : State) : ∃ t, execRafterMailboxReply port packet s = .next t ∧ Keeps s t := by
  have h := Keeps.refl s
  unfold execRafterMailboxReply
  try dsimp only
  repeat' first | refine ⟨_, rfl, ?_⟩ | (with_reducible first | assumption | apply State.arrivePacket_keeps)

theorem execActivationPauseEnd_keeps (pauseUs : BitVec 32) (s : State) : ∃ t, execActivationPauseEnd pauseUs s = .next t ∧ Keeps s t := by
  have h := Keeps.refl s
  unfold execActivationPauseEnd
  try dsimp only
  repeat' (first
    | refine ⟨_, rfl, ?_⟩
    | (with_reducible first | assumption | apply State.endPause_keeps | apply State.serveLate_keeps | apply Keeps.fold | apply Keeps.onPurlin)
    | (intro _; rfl) | split | (intro _ _ _; try dsimp only) | (intro _; dsimp only; split <;> rfl))

theorem State.forgetSettings_keeps {s₀ s : State} (h : Keeps s₀ s) : Keeps s₀ (State.forgetSettings s) := by
  unfold State.forgetSettings
  try dsimp only
  repeat' first | (with_reducible first | assumption | apply Keeps.onPlace | apply Keeps.onTile | apply Keeps.onAlloc | apply Keeps.onCap)

theorem State.reboot_keeps {s₀ s : State} (h : Keeps s₀ s) : Keeps s₀ (State.reboot s) := by
  unfold State.reboot
  try dsimp only
  repeat' (first
    | (with_reducible first | assumption | apply State.setReady_keeps | apply State.tryBoot_keeps | apply State.onFw_keeps)
    | (intro _; exact Nat.le_refl _) | (intro _; simp; done) | split)

theorem State.notRestored_keeps {s₀ s : State} (h : Keeps s₀ s) (cause : Nat) : Keeps s₀ (State.notRestored s cause) := by
  unfold State.notRestored
  try dsimp only
  repeat' first | (with_reducible first | assumption | apply State.raiseAll_keeps)

theorem State.readSave_keeps {s₀ s : State} (h : Keeps s₀ s) (ns : Nat) : Keeps s₀ (State.readSave s ns) := by
  unfold State.readSave
  try dsimp only
  repeat' (first
    | (with_reducible first | assumption | apply State.freeSave_keeps | apply State.onChannel_keeps | apply State.upGroup_keeps | apply Keeps.fold)
    | (intro _ _ _; try dsimp only))

theorem State.loseDirectory_keeps {s₀ s : State} (h : Keeps s₀ s) : Keeps s₀ (State.loseDirectory s) := by
  unfold State.loseDirectory
  try dsimp only
  repeat' (first
    | (with_reducible first | assumption | apply State.lostEvent_keeps | apply State.loseCourse_keeps | apply Keeps.fold)
    | (intro _ _ _; try dsimp only))

theorem State.restore_keeps {s₀ s : State} (h : Keeps s₀ s) (image save keepList : Bool) : Keeps s₀ (State.restore s image save keepList) := by
  unfold State.restore
  try dsimp only
  repeat' (first
    | (with_reducible first | assumption | apply State.reboot_keeps | apply State.forgetSettings_keeps | apply Keeps.onHost | apply Keeps.onCtr | apply Keeps.onReg | apply Keeps.onCache | apply Keeps.onSram | apply Keeps.onXlat)
    | split)

theorem State.tellSideband_keeps {s₀ s : State} (h : Keeps s₀ s) : Keeps s₀ (State.tellSideband s) := by
  unfold State.tellSideband
  try dsimp only
  repeat' (first
    | (with_reducible first | assumption | apply Keeps.onConn | apply Keeps.onEaves | apply Keeps.emit) | (intro _; rfl) | split
    | (intro _; dsimp only; split <;> rfl))

theorem State.serveWaiting_keeps {s₀ s : State} (h : Keeps s₀ s) : Keeps s₀ (State.serveWaiting s) := by
  unfold State.serveWaiting
  try dsimp only
  repeat' (first
    | (with_reducible first | assumption | apply State.serveLate_keeps | apply Keeps.onEaves | apply Keeps.fold) | (intro _; rfl)
    | (intro _ _ _; try dsimp only) | (intro _; dsimp only; split <;> rfl))

theorem State.leaveWatch_keeps {s₀ s : State} (h : Keeps s₀ s) : Keeps s₀ s.leaveWatch := by
  unfold State.leaveWatch
  split
  · rename_i e
    exact State.deliverHeld_keeps (State.changeState_keeps h _ _ (Or.inr (by rw [e]; decide)) (Or.inl (by decide)))
  · exact h

theorem execWatchExitComplete_keeps (imageOk saveOk retentionOk directoryOk : Bool) (wakeNs exitUs : BitVec 32) (s : State) : ∃ t, execWatchExitComplete imageOk saveOk retentionOk directoryOk wakeNs exitUs s = .next t ∧ Keeps s t := by
  have h := Keeps.refl s
  unfold execWatchExitComplete
  try dsimp only
  repeat' (first
    | refine ⟨_, rfl, ?_⟩
    | (with_reducible first | assumption | apply State.serveWaiting_keeps | apply State.tellSideband_keeps | apply State.notRestored_keeps | apply State.leaveWatch_keeps | apply State.loseDirectory_keeps | apply State.restore_keeps | apply State.readSave_keeps | apply Keeps.onEaves)
    | (intro _; rfl) | split | (intro _; dsimp only; split <;> rfl))

end Sys2Proof.Machine
end

