-- ==== Sys2Proof/WellFormed.lean ====
section
/-! DEFINITION. Which commands are well formed: the lengths that the carriers fix. A command's own range checks, which
answer Invalid Input, are part of its meaning and not of this file. -/

namespace Sys2Proof

/-- A line of data is 64 bytes (R9, R290). -/
def lineOk (bs : List Byte) : Bool := bs.length == 64

/-- A mailbox payload is at most 4 KiB (R370). -/
def payloadOk (bs : List Byte) : Bool := decide (bs.length ≤ 4096)

/-- A path names a logical device of the port's mode only in its low bits; a relayed request carries an origin path of
1 to 3 (R378). -/
def Path.wf : Path → Bool
  | .rafter _ opath _ => decide (1 ≤ opath.toNat) && decide (opath.toNat ≤ 3)
  | _ => true

/-- A transport packet is a 32-byte header, a payload of at most 1,024 bytes in 16-byte units, and a 16-byte tag
(R330, R331). -/
def packetOk (bs : List Byte) : Bool := decide (48 ≤ bs.length) && decide (bs.length ≤ 1072) && bs.length % 16 == 0

/-- Well-formed commands: every data operand has the length that its carrier gives it. -/
def Instr.wf : Instr → Bool
  | .memwr _ d => lineOk d
  | .memwrptl _ d _ => lineOk d
  | .clearPoison p _ d => p.wf && lineOk d
  | .transferFw p _ _ _ d => p.wf && payloadOk d
  | .relayCommand p _ _ d => p.wf && decide (d.length ≤ 1008)
  | .tspSetKey _ _ _ w => w.length == 80
  | .tspReplaceKey _ _ _ w => w.length == 80
  | .loadContextKey p _ _ w => p.wf && w.length == 80
  | .establishWrappingKey p k => p.wf && k.length == 96
  | .forwardedPacketLanded _ b => packetOk b
  | .readRequestPacket _ b => packetOk b
  | .writeRequestPacket _ b => packetOk b
  | .readResponsePacket _ b => packetOk b
  | .writeCompletionPacket _ b => packetOk b
  | .ackPacket _ b => packetOk b
  | .pairSyncPacket _ _ b => packetOk b
  | .mirrorCopy _ c => lineOk c.data
  | .rafterMailboxRequest _ b => packetOk b
  | .rafterMailboxReply _ b => packetOk b
  | .samplerCycle l => l.length == 22
  | .sensorPoll g c => g.length == 16 && c.length == 3
  | _ => true

end Sys2Proof
end

