-- ==== Sys2Proof/Tests/Slice0.lean ====
section
/-! SUPPORT. The model's own tests: ill-formed commands, small steps, and states that meet the hypotheses of the statements. -/

namespace Sys2Proof.Machine

set_option Elab.async false

/-- A sled that is Active with its mailboxes ready. -/
def up : State := (State.reset.onEaves fun e => { e with st := .active }).onBoot fun b => { b with step := .running, readiness := 0x30 }

/-- The hypotheses of `Obligations.GeneralQueries`. -/
theorem test_meets_general_queries_1 : up.serves (.sideband none) 0x4000 ∧ up.serves (.sideband none) 0x0400 ∧ up.serves (.sideband none) 0x0401 ∧
    up.serves (.sideband none) 0x0100 ∧ up.serves (.sideband none) 0x0102 ∧ up.serves (.sideband none) 0x0300 := by decide

/-- The hypotheses of `Obligations.GeneralQueries`. -/
theorem test_meets_general_queries_2 : (0 : BitVec 32).toNat + (0 : BitVec 32).toNat ≤ effectsLog.length ∧ (0 : BitVec 32).toNat ≤ Path.limit (.sideband none) :=
  ⟨Nat.zero_le _, Nat.zero_le _⟩

/-- The hypotheses of `Obligations.GeneralSettings`. -/
theorem test_meets_general_settings_1 : up.serves (.sideband none) 0x0103 ∧ (∀ i < 5, bits (0 : BitVec 40).toNat (8 * i + 1) (8 * i) ≠ 3) ∧
    up.serves (.sideband none) 0x0301 ∧ up.serves (.sideband none) 0x0101 ∧
    (((up.arrives (.sideband none)).ld 0).log .warning).records = [] ∧ up.serves (.sideband none) (0xC6FF : BitVec 16).toNat := by decide

/-- The hypotheses of `Obligations.GeneralSettings`. -/
theorem test_meets_general_settings_2 : ((((up.onLd 0 fun d => d.setLog .warning { overflow := 1 }).arrives (.sideband none)).ld 0).log .warning).overflow ≠ 0 := by decide

/-- The hypotheses of `Obligations.BackgroundCommands`. -/
theorem test_meets_background_commands_1 : let p : Path := .sideband none
    let t := up.setBackground .sideband { opcode := 0xC202 }
    t.serves p 0x0002 ∧ t.serves p 0xC001 ∧ t.serves p 0x0005 ∧ (t.arrives p).backgroundOf (Path.carrier p) = some { opcode := 0xC202 } := by decide

/-- The hypotheses of `Obligations.BackgroundCommands`. -/
theorem test_meets_background_commands_2 : let p : Path := .sideband none
    let b : Background := { opcode := 0xC202, running := true, done := true }
    let t := up.setBackground .sideband b
    (t.arrives p).backgroundOf (Path.carrier p) = some b ∧ (t.arrives p).backgroundBusy (Path.carrier p) = true ∧ b.opcode ∈ [0xC083, 0xC107, 0xC202, 0xC183] ∧
    t.backgroundOf (Path.carrier p) = some b ∧ (0x4400 : Nat) ∉ [0xC083, 0xC107, 0xC202, 0xC183] := by decide

/-- The hypotheses of `Obligations.DynamicCapacityMoves`. -/
theorem test_meets_dynamic_capacity_moves_1 : let e : Extent := { dpa := 0, blocks := 1 }
    up.serves (.primary 0 0) 0x4802 ∧ up.serves (.primary 0 0) 0x4803 ∧ extBlocks [e] = some [0] ∧ up.serves (.fabric (some 0)) 0x5604 ∧
    up.serves (.fabric (some 0)) 0x5605 := by decide

/-- The hypotheses of `Obligations.DynamicCapacityMoves`. -/
theorem test_meets_dynamic_capacity_moves_2 : let e : Extent := { dpa := 0, blocks := 1 }
    let t := ({ up with small := true } : State).onCap fun c => { c with joined := 0xFFFF }
    let a := t.arrives (.fabric (some 0))
    t.serves (.fabric (some 0)) 0x5604 ∧ extBlocks [e] = some [0] ∧ a.ldExists 0 = true ∧ [0].any (a.extTaken 0) = false ∧
      (a.poolBlocks [0].length).length = [0].length ∧ a.blocksTaken + [0].length ≤ a.offerTotal := by decide +kernel

/-- The hypotheses of `Obligations.DynamicCapacityMoves`. -/
theorem test_meets_dynamic_capacity_moves_3 : let t := (up.onCap fun c => { c with memActive := true, joined := 1 }).onXlat fun x => { x with dir := [(256, { st := .bound, extent := 300 })] }
    let a := t.arrives (.fabric (some 0))
    t.serves (.fabric (some 0)) 0x5605 ∧ extBlocks [{ dpa := 0x12C0000000, blocks := 1 }] = some [300] ∧
      ∀ x ∈ [300], a.staticExt 0 x = false ∧ (a.blockAt 0 x).isSome := by decide

/-- The hypotheses of `Obligations.ReleaseWaitAndThrottle`. -/
theorem test_meets_release_wait_and_throttle_1 : (up.onCap fun c => { c with wait := some { named := [(0, 300)] } }).cap.wait = some { named := [(0, 300)] } ∧
    (up.onCap fun c => { c with wait := some {} }).cap.wait = some {} := by decide

/-- The hypotheses of `Obligations.ReleaseWaitAndThrottle`. -/
theorem test_meets_release_wait_and_throttle_2 : let t := up.onPlace fun p => { p with divisor := 2, lastFree := 2 ^ 40 }
    let u := up.onPlace fun p => { p with divisor := 64 }
    t.place.divisor ≠ 0 ∧ t.free < t.place.lastFree ∧ t.place.divisor < 64 ∧ u.place.divisor ≠ 0 ∧ u.place.lastFree ≤ u.free := by decide

/-- The hypotheses of `Obligations.SanitizeAndErase`. -/
theorem test_meets_sanitize_and_erase_1 : let p : Path := .primary 0 0
    let a := (up.arrives p).startBackground p 0x4400
    Path.backgrounds p = true ∧ (up.arrives p).backgroundBusy (Path.carrier p) = false ∧ up.serves p 0x4400 ∧ up.serves p 0x4401 ∧
      ∀ b ∈ a.blocksOf (a.issuing p), a.walksFull b = false := by decide

/-- The hypotheses of `Obligations.SanitizeAndErase`. -/
theorem test_meets_sanitize_and_erase_2 : let p : Path := .primary 0 0
    let t := up.onXlat fun x => { x with dir := [(256, { st := .bound, extent := 300, walks := 3 })] }
    let a := (t.arrives p).startBackground p 0x4400
    Path.backgrounds p = true ∧ (t.arrives p).backgroundBusy (Path.carrier p) = false ∧ t.serves p 0x4400 ∧
      ∃ b ∈ a.blocksOf (a.issuing p), a.walksFull b = true := by decide

/-- The hypotheses of `Obligations.DeviceResets`. -/
theorem test_meets_device_resets : up.ldExists 0 = true ∧ ((up.onLd 0 fun x => { x with drain := some {} }).ld 0).drain = some {} ∧
    (up.onLd 0 fun x => { x with drain := some {} }).ldIdle 0 = true := by decide

/-- The hypotheses of `Obligations.PoisonCommands`. -/
theorem test_meets_poison_commands_1 : let p : Path := .primary 0 0
    let t := up.onXlat fun x => { x with dir := [(0, { st := .bound, extent := 0 })] }
    let a := t.arrives p
    t.serves p 0x4301 ∧ t.serves p 0x4302 ∧ t.serves p 0x4300 ∧ a.courseOf (a.issuing p) 64 = some 0 ∧ (64 : BitVec 64).toNat % 64 = 0 ∧
      a.lineListed 0 0 1 = false ∧ (a.ld 0).injected < 64 ∧ ((a.loadBatten 0 0).view 0).tier ≠ .thatched := by decide +kernel

/-- The hypotheses of `Obligations.PoisonCommands`. -/
theorem test_meets_poison_commands_2 : let p : Path := .primary 0 0
    let t := (up.onXlat fun x => { x with dir := [(0, { st := .bound, extent := 0 })] }).onLd 0 fun d => { d with poison := [{ dpa := 4096, len := 64, injected := true }] }
    let a := t.arrives p
    t.serves p 0x4301 ∧ a.courseOf (a.issuing p) 64 = some 0 ∧ a.lineListed 0 0 1 = false ∧ 64 ≤ (a.ld 0).injected := by decide +kernel

/-- The hypotheses of `Obligations.CapacityCommands`. -/
theorem test_meets_capacity_commands : let p : Path := .sideband none
    up.serves p 0xC040 ∧ up.serves p 0xC041 ∧ up.serves p 0xC042 ∧ up.serves p 0xC043 ∧ up.serves p 0xC044 ∧ up.serves p 0xC045 ∧
      (up.arrives p).ownsRid p 0 = true ∧ Path.privileged p = true ∧ 100 ≤ (150 : BitVec 16).toNat ∧ (150 : BitVec 16).toNat ≤ 240 ∧
      (up.arrives p).host.gfam = false ∧ (up.arrives p).ldExists 0 = true := by decide

/-- The hypotheses of `Obligations.ClearingWalks`. -/
theorem test_meets_clearing_walks_1 : let t := up.onXlat fun x => { x with clearing := some { block := 1, w := 5 } }
    let u := up.onXlat fun x => { x with clearing := some { block := 1, w := 65535 } }
    t.xlat.clearing = some { block := 1, w := 5 } ∧ 5 ≠ 0 ∧ 5 + 1 ≠ blockCourses ∧ u.xlat.clearing = some { block := 1, w := 65535 } ∧ 65535 + 1 = blockCourses := by decide

/-- The hypotheses of `Obligations.ClearingWalks`. -/
theorem test_meets_clearing_walks_2 : let t := up.onXlat fun x => { x with dir := [(3, { st := .bound, walks := 1 })] }
    t.xlat.clearing = none ∧ t.xlat.rebuild = none ∧ t.beginRebuild = t ∧ (∀ w ∈ t.xlat.swaps, w.drain = none) ∧ t.xlat.discards = [] ∧ t.nextWalk = some 3 := by decide

/-- The hypotheses of `Obligations.DiscardWalks`. -/
theorem test_meets_discard_walks : let b : Background := { opcode := 0xC083, running := true, abort := true }
    let t := (up.onXlat fun x => { x with discards := [{ path := some (.primary 0 0), courses := 1 }] }).setBackground (.primary 0) b
    t.xlat.clearing = none ∧ t.xlat.rebuild = none ∧ t.beginRebuild = t ∧ (∀ w ∈ t.xlat.swaps, w.drain = none) ∧
      t.xlat.discards = [{ path := some (.primary 0 0), courses := 1 }] ∧ t.abortWanted (some (.primary 0 0)) 0xC083 = true := by decide

/-- The hypotheses of `Obligations.TableWalks`. -/
theorem test_meets_table_walks_1 : let w : Swap := { block := 3, placed := true, fill := some 7, drain := some 9, bound := true }
    let w' : Swap := { block := 3, placed := true, fill := some 65535, drain := none, bound := true }
    let t := up.onXlat fun x => { x with swaps := [w] }
    let u := up.onXlat fun x => { x with swaps := [w'], rebuild := some { block := 5, w := 65535 } }
    up.hubRuns = true ∧ t.xlat.swaps.find? (fun w => w.placed && w.fill.isSome) = some w ∧ 7 + 1 < blockCourses ∧
      t.xlat.swaps.find? (·.drain.isSome) = some w ∧ t.xlat.rebuild = none ∧ t.xlat.clearing = none ∧ 9 ≠ 0 ∧ 9 + 1 < blockCourses ∧
      u.xlat.swaps.find? (fun w => w.placed && w.fill.isSome) = some w' ∧ 65535 + 1 = blockCourses ∧ u.xlat.rebuild = some { block := 5, w := 65535 } := by decide

/-- The hypotheses of `Obligations.TableWalks`. -/
theorem test_meets_table_walks_2 : let t := up.onXlat fun x => { x with clearing := some {} }
    t.xlat.swaps = [] ∧ t.xlat.clearing.isSome ∧ t.retryFills = t ∧ t.flash.pass = none := by decide

/-- The hypotheses of `Obligations.TranslationCommands`. -/
theorem test_meets_translation_commands_1 : let p : Path := .sideband none
    let t := up.onXlat fun x => { x with dir := [(3, { st := .bound })] }
    let a := t.arrives p
    t.serves p 0xC080 ∧ t.serves p 0xC081 ∧ t.serves p 0xC082 ∧ t.serves p 0xC084 ∧ Path.privileged p = true ∧ Path.backgrounds p = true ∧
      a.backgroundBusy (Path.carrier p) = false ∧ 3 < (a.startBackground p 0xC082).blocks ∧ ((a.startBackground p 0xC082).dirOf 3).st ≠ .unassigned ∧
      8 ≤ (8 : BitVec 16).toNat ∧ (10 : BitVec 8).toNat ≤ 90 ∧ 1 ≤ (50 : BitVec 8).toNat ∧ (50 : BitVec 8).toNat ≤ 50 := by decide +kernel

/-- The hypotheses of `Obligations.TranslationCommands`. -/
theorem test_meets_translation_commands_2 : ((up.arrives (.sideband none)).namedCourse (.sideband none) (1 : BitVec 8).toNat (7 : BitVec 64).toNat).toOption = some 7 := by decide +kernel

/-- The hypotheses of `Obligations.TranslationCommands`. -/
theorem test_meets_translation_commands_3 : let p : Path := .primary 0 0
    let t := up.onXlat fun x => { x with dir := [(0, { st := .bound, extent := 0 })] }
    let a := t.arrives p
    let b := a.startBackground p 0xC083
    let blocks := (wholeExts 0 1).filterMap (b.blockAt (b.issuing p))
    let d : Discard := Discard.skip { path := some p, ld := b.issuing p, dpa := 0, courses := 1, total := 1, whole := blocks.length } (1 / blockCourses + 1)
    t.serves p 0xC083 ∧ Path.backgrounds p = true ∧ a.backgroundBusy (Path.carrier p) = false ∧ b.rangeOk (b.issuing p) 0 1 = true ∧
      blocks.any b.walksFull = false ∧ d.courses ≠ 0 := by decide +kernel

/-- The hypotheses of `Obligations.PlacementScan`. -/
theorem test_meets_placement_scan_1 : let t := up.onXlat fun x => { x with dir := [(2, { st := .bound })] }
    (State.reset).hubRuns = false ∧ t.hubRuns = true ∧ t.boundFrom t.place.scan = some 131072 ∧
      (t.onPlace fun p => { p with scan := 196608 }).boundFrom 196608 = none ∧ t.boundFrom 0 = some 131072 := by decide +kernel

/-- The hypotheses of `Obligations.PlacementScan`. -/
theorem test_meets_placement_scan_2 : let t := up.onXlat fun x => { x with dir := [(2, { st := .bound })] }
    ((t.readTableSlot 131072 0).view 131072).tier = .absent ∧
    (((t.commit 131072 { tier := .raw }).readTableSlot 131072 0).view 131072).tier ≠ .absent := by decide +kernel

/-- The hypotheses of `Obligations.PlacementAndThatching`. -/
theorem test_meets_placement_and_thatching : let t := ((up.onBoot fun b => { b with readiness := 0xFFFFFFFF }).onSpare fun p => { p with strongOk := true }).onJob 3 fun j => { j with controller := true, st := .stopped, reason := 5 }
    t.strongReady = true ∧ t.hubRuns = true ∧ t.therm.controller < 2 ∧ (t.job 3).controller = true ∧ (t.job 3).st = .stopped ∧ (t.job 3).reason = 5 ∧
      t.eaves.st = .active ∧ t.purlin.paused = false ∧ (t.onPurlin fun p => { p with paused := true }).hubRuns = true := by decide +kernel

/-- The hypotheses of `Obligations.PlacementCommands`. -/
theorem test_meets_placement_commands_1 : let p : Path := .sideband none
    let t := up.onJob 300 fun j => { j with st := .stopped }
    let u := up.onJob 300 fun j => { j with st := .running }
    t.serves p 0xC100 ∧ t.serves p 0xC101 ∧ t.serves p 0xC102 ∧ t.serves p 0xC104 ∧ t.serves p 0xC105 ∧ u.serves p 0xC106 ∧ Path.privileged p = true ∧
      PlacementPolicy.ok { occupancy := 85, coldMax := 8, rawMin := 32, tile := 24, ftTarget := 20000, scanRate := 16000, share := 10, cap := 75, ceiling := 15 } = true ∧
      t.place.divisor = 0 ∧ (63 : BitVec 8).toNat < 64 ∧ (2 : BitVec 8).toNat ≤ 2 ∧ (t.arrives p).ownJob p 300 = true ∧ ((t.arrives p).job 300).st = .stopped ∧
      ((u.arrives p).job 300).st = .running := by decide

/-- The hypotheses of `Obligations.PlacementCommands`. -/
theorem test_meets_placement_commands_2 : let p : Path := .primary 0 0
    let t := up.onXlat fun x => { x with dir := [(0, { st := .bound, extent := 0 })] }
    let a := t.arrives p
    let b := a.startBackground p 0xC107
    t.serves p 0xC103 ∧ t.serves p 0xC107 ∧ a.rangeOk (a.issuing p) 0 4 = true ∧ (List.range 768).find? (fun i => (Sparse.find a.place.jobs (256 + i)).isNone) = some 0 ∧
      Path.backgrounds p = true ∧ a.backgroundBusy (Path.carrier p) = false ∧ b.rangeOk (b.issuing p) 0 4 = true ∧ b.thatchedIn (b.issuing p) 0 4 = [] := by decide +kernel

/-- The hypotheses of `Obligations.TileCodingCommands`. -/
theorem test_meets_tile_coding_commands_1 : let p : Path := .sideband none
    up.serves p 0xC0C0 ∧ up.serves p 0xC0C1 ∧ up.serves p 0xC0C2 ∧ up.serves p 0xC0C3 ∧ up.serves p 0xC0C4 ∧ Path.privileged p = true ∧ (7 : BitVec 8).toNat < 8 ∧
      (1 : BitVec 8).toNat < 2 := by decide

/-- The hypotheses of `Obligations.TileCodingCommands`. -/
theorem test_meets_tile_coding_commands_2 : let p : Path := .primary 0 0
    let t := up.onXlat fun x => { x with dir := [(0, { st := .bound, extent := 0 })] }
    let a := t.arrives p
    t.serves p 0xC0C2 ∧ t.serves p 0xC0C5 ∧ a.rangeOk (a.issuing p) 0 1 = true ∧ (∀ i < 8, i ≠ 7 → (a.phiozRange (a.issuing p) i).overlaps 0 1 = false) ∧
      (a.namedCourse p 0 0).toOption = some 0 ∧ (a.view 0).tier = .absent := by decide +kernel

/-- The hypotheses of `Obligations.TileCacheCommands`. -/
theorem test_meets_tile_cache_commands_1 : let p : Path := .sideband none
    up.serves p 0xC140 ∧ up.serves p 0xC141 ∧ up.serves p 0xC142 ∧ up.serves p 0xC143 ∧ Path.privileged p = true ∧ (6143 : BitVec 16).toNat < 6144 := by decide

/-- The hypotheses of `Obligations.TileCacheCommands`. -/
theorem test_meets_tile_cache_commands_2 : let p : Path := .primary 0 0
    let t := up.onXlat fun x => { x with dir := [(0, { st := .bound, extent := 0 })] }
    t.serves p 0xC141 ∧ (t.arrives p).rangeOk ((t.arrives p).issuing p) 0 1 = true := by decide +kernel

/-- The hypotheses of `Obligations.OnchipMemoryTest`. -/
theorem test_meets_onchip_memory_test : let p : Path := .sideband none
    let t := (up.onBoot fun b => { b with readiness := 0xFFFFFFFF }).onSram fun m => { m with enable := true }
    State.reset.regionTests = false ∧ t.regionTests = true ∧ up.serves p 0xC400 ∧ up.serves p 0xC401 ∧ Path.privileged p = true ∧
      10 ≤ (10 : BitVec 32).toNat ∧ (10000000 : BitVec 32).toNat ≤ 10000000 := by decide

/-- The hypotheses of `Obligations.RegisterAccesses`. -/
theorem test_meets_register_accesses : let t := (up.onHost fun h => { h with hp0 := { h.hp0 with inReset := false, up := true } }).onReg fun r => { r with doorbells := [(5, { hold := 7 })] }
    t.eaves.exiting = false ∧ t.mmioServes .hp0 = true ∧ t.mmioServes .hp1 = false ∧ (t.doorbell 5).hold ≠ 0 := by decide

/-- The hypotheses of `Obligations.CountersAndTrace`. -/
theorem test_meets_counters_and_trace : let p : Path := .sideband none
    up.hubRuns = true ∧ Path.privileged p = true ∧ up.serves p 0xC440 ∧ up.serves p 0xC441 ∧ up.serves p 0xC442 ∧ up.serves p 0xC443 ∧ up.serves p 0xC444 ∧
      up.serves p 0xC445 ∧ qualifierOk 0x12 15 = true ∧ (up.arrives p).sourceRid p = none ∧ (239 : BitVec 16).toNat ≤ 239 ∧
      (2048 : BitVec 16).toNat + (2048 : BitVec 16).toNat ≤ 4096 ∧ (0xFFF : BitVec 16).toNat ≤ 0xFFF := by decide

/-- The hypotheses of `Obligations.ThermalAndConnector`. -/
theorem test_meets_thermal_and_connector_1 : let p : Path := .sideband none
    let t := (up.onPower fun x => { x with sw := .on }).onConn fun c => { c with locate := .timed, alert := true }
    t.eaves.st = .active ∧ t.firmwareRuns = true ∧ t.power.sw = .on ∧ shutdownMark 18 ≤ (230 : BitVec 16).toInt ∧ shutdownMark 0 ≤ (220 : BitVec 16).toInt ∧
      t.serves p 0xC4C0 ∧ t.serves p 0xC480 ∧ t.serves p 0xC481 ∧ Path.privileged p = true ∧ t.conn.locate = .timed ∧ t.conn.alert = true ∧
      t.conn.inForce.sbmode = false ∧ State.reset.eaves.st ≠ .active := by decide

/-- The hypotheses of `Obligations.ThermalAndConnector`. -/
theorem test_meets_thermal_and_connector_2 : let t := (up.onEaves fun e => { e with retention := true }).onConn fun c => { c with inForce := { c.inForce with sbmode := true } }
    t.takesAddress = true ∧ t.conn.dynamic = none := by decide

/-- The hypotheses of `Obligations.PowerPathInputs`. -/
theorem test_meets_power_path_inputs_1 : State.reset.power.auxIn = false ∧ State.reset.power.present = false ∧ State.reset.power.mainIn = false := by decide

/-- The hypotheses of `Obligations.PowerPathInputs`. -/
theorem test_meets_power_path_inputs_2 : let t := up.onPower fun p => { p with present := true, auxIn := true, mainIn := true, removedAt := some 5 }
    t.power.present = true ∧ t.power.auxIn = true ∧ t.power.mainIn = true ∧ t.power.removedAt ≠ none := by decide

/-- The hypotheses of `Obligations.PowerPathInputs`. -/
theorem test_meets_power_path_inputs_3 : (up.onPower fun p => { p with sw := .delay }).power.sw = .delay ∧ (up.onPower fun p => { p with sw := .ramp }).power.sw = .ramp ∧
      (up.onPower fun p => { p with sw := .rails }).power.sw = .rails := by decide

/-- The hypotheses of `Obligations.TripsAndLatch`. -/
theorem test_meets_trips_and_latch_1 : let s := up.onPower fun p => { p with sw := .ramp, count := 3, foldback := true }
    s.power.sw = .ramp ∧ s.power.sw.closed = true ∧ s.power.foldback = true := by decide

/-- The hypotheses of `Obligations.TripsAndLatch`. -/
theorem test_meets_trips_and_latch_2 : (up.onPower fun p => { p with sw := .rails }).power.sw = .rails ∧ (up.onPower fun p => { p with sw := .on }).power.sw = .on ∧
      (up.onPower fun p => { p with sw := .on }).power.sw.closed = true ∧ (up.onPower fun p => { p with sw := .on }).power.foldback = false := by decide

/-- The hypotheses of `Obligations.TripsAndLatch`. -/
theorem test_meets_trips_and_latch_3 : let s := (up.onEaves fun e => { e with retention := true }).onPower fun p => { p with sw := .retryWait, tripWait := true, present := true, mainIn := true, auxIn := true, count := 2 }
    s.power.tripWait = true ∧ s.power.sw = .retryWait ∧ (s.onPower fun p => { p with tripWait := false }).mayStart = true := by decide

/-- The hypotheses of `Obligations.PowerPathCommands`. -/
theorem test_meets_power_path_commands : let p : Path := .sideband none
    let s := up.onPower fun x => { x with latched := true, sw := .latched }
    s.eaves.st = .active ∧ s.service p 0xC3C0 true = .serve ∧ s.service p 0xC3C1 true = .serve ∧ s.service p 0xC3C2 true = .serve ∧ s.service p 0xC3C3 true = .serve ∧
      s.service p 0xC3C4 true = .serve ∧ Path.privileged p = true ∧ (s.arrives p).power.latched = true ∧ (up.arrives p).power.latched = false ∧
      (s.arrives p).power.mainMa.toNat + 500 ≤ 30 * 100 ∧ (s.onEaves fun e => { e with st := .offAux, retention := true }).eaves.st = .offAux := by decide

/-- The hypotheses of `Obligations.SleepEntries`. -/
theorem test_meets_sleep_entries_1 : let s := up.onBoot fun b => { b with step := .running }
    s.eaves.st = .active ∧ s.boot.step ≠ .off ∧ s.eaves.entry = none ∧ s.eaves.retry = none ∧ s.linksRest .drowse = true ∧ (s.onEaves fun e => { e with drowseOn := true }).idle = true := by decide +kernel

/-- The hypotheses of `Obligations.SleepEntries`. -/
theorem test_meets_sleep_entries_2 : let s := (up.onEaves fun e => { e with drowseOn := true, watchOn := true }).onLink fun l =>
      { l with ports := [(0, { enabled := false }), (1, { enabled := false }), (2, { enabled := false }), (3, { enabled := false })] }
    s.eaves.st = .active ∧ s.firmwareRuns = true ∧ s.purlin.paused = false ∧ s.eaves.entry = none ∧ s.watchReady = true ∧ s.consentWanted = 0 := by decide +kernel

/-- The hypotheses of `Obligations.SleepEntries`. -/
theorem test_meets_sleep_entries_3 : let s := up.onEaves fun e => { e with entry := some { target := .drowse, next := 15 } }
    let u := up.onEaves fun e => { e with entry := some { target := .drowse, next := 0 } }
    s.sleepRefusal .drowse (sleepOrder.getD 15 0) = 0 ∧ u.sleepRefusal .drowse (sleepOrder.getD 0 0) = 0 ∧
      (s.onEaves fun e => { e with entry := none, retry := some .drowse, drowseOn := true }).eaves.retry = some .drowse ∧
      (s.onEaves fun e => { e with entry := none, retry := some .watch, watchOn := true }).eaves.retry = some .watch := by decide +kernel

/-- The hypotheses of `Obligations.SamplerAndEaves`. -/
theorem test_meets_sampler_and_eaves : let s := up.onEaves fun e => { e with st := .drowse, gated := [5], retention := true, crystal := true }
    s.eaves.st = .drowse ∧ s.gated (5 : BitVec 8).toNat = true ∧ s.eaves.retention = true ∧ s.eaves.crystal = true ∧
      (∀ x ∈ s.eaves.sampled.zipIdx, x.1.crossed x.2 ((List.replicate 19 (0 : BitVec 16) ++ [12000, 3300, 0]).getD x.2 0) = 0) := by decide +kernel

/-- The hypotheses of `Obligations.PowerStateCommands`. -/
theorem test_meets_power_state_commands_1 : let p : Path := .sideband none
    up.serves p 0xC380 ∧ up.serves p 0xC381 ∧ up.serves p 0xC382 ∧ up.serves p 0xC383 ∧ up.serves p 0xC384 ∧ up.serves p 0xC385 ∧ up.serves p 0xC303 ∧
      Path.privileged p = true ∧ below 21 5 6 = true ∧ below 0 (-3) 2 = true ∧ sleepBlock (19 : BitVec 8).toNat = true := by decide

/-- The hypotheses of `Obligations.PowerStateCommands`. -/
theorem test_meets_power_state_commands_2 : let p : Path := .primary 0 0
    let s := up.onHost fun h => { h with hp0 := { h.hp0 with inReset := false, up := true } }
    s.serves p 0xC381 := by decide

/-- The hypotheses of `Obligations.PacketArrivals`. -/
theorem test_meets_packet_arrivals_1 : let s := (up.onLink fun l => { l with ports := [(0, { phase := .up, lanes := 0xFF })], peers := [(7, { hasRecv := true, expect := 9 })] }).onCasc fun c =>
      { c with sledId := 5, map := { c.map with members := [(5, {}), (7, {})] } }
    let packet (kind dst hops : Nat) : List Byte := ({ kind, dst, hops, src := 7, seq := 9 } : Header).toBytes
    let meets (kind dst hops : Nat) : Prop := headerOk (packet kind dst hops) = true ∧ (Header.ofBytes (packet kind dst hops)).kind = kind ∧ kindOk kind = true ∧
      (Header.ofBytes (packet kind dst hops)).dst = dst ∧ (Header.ofBytes (packet kind dst hops)).hops = hops
    s.awake = true ∧ s.hopUp 0 = true ∧ (s.rport 0).foreign = false ∧ s.me = 5 ∧ headerOk (zeros 31 ++ [1]) = false ∧ meets 1 9 1 ∧ meets 1 7 0 ∧ meets 1 7 1 ∧
      meets 1 5 1 ∧ meets 2 5 1 ∧ meets 3 5 1 ∧ meets 4 5 1 ∧ meets 5 5 1 ∧ meets 6 5 1 ∧ meets 7 5 1 ∧ Sparse.find s.casc.map.members 9 = none ∧
      (Sparse.find s.casc.map.members 7).isSome = true ∧ (Sparse.find s.casc.map.members 5).isSome = true := by decide +kernel

/-- The hypotheses of `Obligations.PacketArrivals`. -/
theorem test_meets_packet_arrivals_2 : let s := (up.onLink fun l => { l with ports := [(0, { phase := .up, lanes := 0xFF })], peers := [(7, { hasRecv := true, expect := 9 })] }).onCasc fun c =>
      { c with sledId := 5, map := { c.map with members := [(5, {}), (7, {})] } }
    (((s.countBytes 2 32 0).wakeDrowse 3).takeSeq 7 9).2 = true := by decide +kernel

/-- The hypotheses of `Obligations.ResumptionOfService`. -/
theorem test_meets_resumption_of_service : let s := up.onPurlin fun p => { p with paused := true }
    let u := up.onEaves fun e => { e with st := .watch, exiting := true }
    s.purlin.paused = true ∧ u.eaves.st = .watch ∧ u.eaves.exiting = true := by decide

/-- The hypotheses of `Obligations.RafterHops`. -/
theorem test_meets_rafter_hops_1 : let s := up.onLink fun l => { l with ports := [(0, { phase := .up, lanes := 0xFF, own := [[1]] }), (1, { phase := .training }), (2, { phase := .down }),
        (3, { egress := [{ bytes := [2] }] })] }
    s.awake = true ∧ s.hopUp 0 = true ∧ (s.rport 0).foreign = false ∧ ((s.rport 0).pick.map fun x => x.1) = some [1] ∧ (s.rport 1).phase = .training ∧
      (s.rport 2).phase = .down ∧ (0xC0 : BitVec 8).toNat ∈ [0x03, 0x0C, 0x30, 0xC0] ∧ (s.rport 3).egress ≠ [] := by decide

/-- The hypotheses of `Obligations.RafterHops`. -/
theorem test_meets_rafter_hops_2 : let s := up.onLink fun l => { l with peers := [(1, { st := .live, hasRecv := true, ackDue := true }), (2, { st := .syncing })] }
    s.awake = true ∧ (s.peer 1).st = .live ∧ (s.peer 1).hasRecv = true ∧ (s.peer 1).ackDue = true ∧ (s.peer 2).st = .syncing := by decide

/-- The hypotheses of `Obligations.RafterCommands`. -/
theorem test_meets_rafter_commands : let p : Path := .sideband none
    up.serves p 0xC280 ∧ up.serves p 0xC281 ∧ up.serves p 0xC282 ∧ up.serves p 0xC283 ∧ Path.privileged p = true ∧ (1023 : BitVec 16).toNat ≤ 1023 ∧
      (3 : BitVec 8).toNat ≤ 3 ∧ 3 < (4 : BitVec 8).toNat ∧ 1023 < (1024 : BitVec 16).toNat := by decide

/-- The hypotheses of `Obligations.ChannelWork`. -/
theorem test_meets_channel_work_1 : let s := up.onDram fun d => { d with channels := [(3, { trained := true, retraining := true, retried := true }), (4, { trained := true })], turns := [4], groups := [(0, { st := .live })] }
    s.executes 4 = true ∧ (s.channel 4).retraining = false ∧ (s.channel 3).retraining = true ∧ (s.channel 3).retried = true ∧ s.dram.turns = 4 :: [] ∧
      (s.onDram fun d => { d with channels := [(4, { trained := true })] }).anyRetraining = false ∧ s.dram.driftPs < (100 : BitVec 16).toNat := by decide +kernel

/-- The hypotheses of `Obligations.ChannelWork`. -/
theorem test_meets_channel_work_2 : let s := up.onDram fun d => { d with channels := [(3, { trained := true, retraining := true }), (4, { trained := true, asleep := true }), (5, { trained := true, inFlight := [{ fetch := 1, slot := 0, index := 0, data := [], check := [] }] })], fetches := [(1, {})] }
    (s.channel 3).retraining = true ∧ (s.channel 3).retried = false ∧ s.executes 4 = false ∧ (s.channel 4).asleep = true ∧ (s.channel 4).trained = true ∧
      (s.channel 4).outOfService = false ∧ (s.channel 5).inFlight.length = 1 ∧ (s.fetch 1).isSome = true := by decide +kernel

/-- The hypotheses of `Obligations.SleepOfChannels`. -/
theorem test_meets_sleep_of_channels : let s := up.onDram fun d => { d with channels := [(3, { trained := true })], groups := [(0, { st := .live, enable := true }), (1, { st := .poweredDown, waking := true })] }
    s.executes 3 = true ∧ (s.channel 3).idle = true ∧ (s.channel 3).buffer = [] ∧ (s.group 0).st = .live ∧ (s.group 0).enable = true ∧
      (∀ c ∈ groupChannels 0, (s.channel c).idle = true) ∧ (s.group 1).st = .poweredDown ∧ (s.group 1).waking = true := by decide +kernel

/-- The hypotheses of `Obligations.ChannelCommands`. -/
theorem test_meets_channel_commands : let p : Path := .sideband none
    let s := up.onDram fun d => { d with channels := [(127, { trained := true })], groups := [(15, { st := .live })] }
    let b := (s.arrives p).startBackground p 0xC1C7
    s.serves p 0xC1C0 ∧ s.serves p 0xC1C1 ∧ s.serves p 0xC1C2 ∧ s.serves p 0xC1C3 ∧ s.serves p 0xC1C4 ∧ s.serves p 0xC1C5 ∧ s.serves p 0xC1C6 ∧ s.serves p 0xC1C7 ∧
      Path.privileged p = true ∧ Path.backgrounds p = true ∧ (s.arrives p).backgroundBusy (Path.carrier p) = false ∧ b.channelCode 127 ∉ [0, 5, 6] ∧
      (b.channel 127).asleep = false ∧ ((s.arrives p).small && bitAt 5 27) = false ∧
      (∃ m0 ∈ s.dram.masks, maskValid 0 m0 = true) ∧ maskValid 1 (s.dram.masks.getD 1 0) = true ∧ maskValid 2 (s.dram.masks.getD 2 0) = true := by decide +kernel

/-- The hypotheses of `Obligations.StripesAndScrubs`. -/
theorem test_meets_stripes_and_scrubs_1 : let s := (up.onDram fun d => { d with channels := [(2, { trained := true, rebuilds := [{ slot := 0, fetch := 1, index := 0, cause := 1 }], queue := [.refresh] })], groups := [(0, { st := .live })], fetches := [(1, { batten := { strong := true } })] })
    ((s.channel 2).rebuilds.head?.map fun x => x.fetch) = some 1 ∧ ((s.fetch 1).map fun f => (f.batten.strong, s.stripeBusy (f.place 0).1 ((f.place 0).2 / 8))) = some (true, false) ∧
      s.fetch 1 ≠ none ∧ ((s.channel 2).queue.findIdx? fun e => match e with | .reread _ _ _ _ => true | _ => false) = none ∧ s.executes 2 = true ∧
      40 * s.pressureCapacity ≤ s.free * 1000 := by decide +kernel

/-- The hypotheses of `Obligations.StripesAndScrubs`. -/
theorem test_meets_stripes_and_scrubs_2 : let s := (up.setReady rdyPatrol true).onSpare fun p => { p with scrubs := [(3, { path := none, courses := 2, total := 2 })] }
    s.eaves.st = .active ∧ s.spare.patrol = true ∧ s.ready rdyPatrol = true ∧ s.spare.overdue = false ∧
      ((Sparse.find s.spare.scrubs (3 : LdId).toNat).map fun x => (s.abortWanted x.path opRangeScrub, s.courseOf 3 x.dpa, x.courses)) = some (false, none, 2) := by decide +kernel

/-- The hypotheses of `Obligations.StripesAndScrubs`. -/
theorem test_meets_stripes_and_scrubs_3 : let p : Path := .primary 0 0
    let s := (up.onPurlin fun x => { x with background := [(Path.carrier p, { opcode := opRangeScrub, running := true, abort := true })] }).onSpare fun x =>
      { x with scrubs := [(3, { path := some p })] }
    (Sparse.find s.spare.scrubs (3 : LdId).toNat).map (fun x => s.abortWanted x.path opRangeScrub) = some true := by decide +kernel

/-- The hypotheses of `Obligations.SparingCommands`. -/
theorem test_meets_sparing_commands_1 : let p : Path := .sideband none
    let b := (up.arrives p).startBackground p opRetireStorage
    up.serves p 0xC200 ∧ up.serves p 0xC201 ∧ up.serves p 0xC203 ∧ up.serves p 0xC204 ∧ up.serves p 0xC205 ∧ up.serves p 0xC206 ∧ up.serves p 0xC207 ∧ up.serves p 0xC208 ∧
      Path.privileged p = true ∧ Path.backgrounds p = true ∧ (up.arrives p).backgroundBusy (Path.carrier p) = false ∧ b.namedStorage 3 127 0 0 0 = some (.channel 127 4) ∧
      (b.namedStorage 1 0 1 7 (2 ^ 19 - 1)).isSome = true ∧ isCheckSlot 5 = false ∧ ((up.arrives p).small && bitAt 5 27) = false ∧
      (up.arrives p).spare.ringBase ≤ (0 : BitVec 32).toNat := by decide +kernel

/-- The hypotheses of `Obligations.SparingCommands`. -/
theorem test_meets_sparing_commands_2 : let p : Path := .primary 0 0
    let s := (up.onHost fun h => { h with hp0 := { h.hp0 with inReset := false, up := true } }).onXlat fun x => { x with dir := [(0, { st := .bound })] }
    let b := (s.arrives p).startBackground p 0xC202
    s.serves p 0xC202 ∧ Path.backgrounds p = true ∧ (s.arrives p).backgroundBusy (Path.carrier p) = false ∧ b.issuing p = 0 ∧ b.rangeOk 0 0 1 = true ∧
      Sparse.find b.spare.scrubs (b.issuing p).toNat = none := by decide +kernel

/-- The hypotheses of `Obligations.QueuesAndMonitors`. -/
theorem test_meets_queues_and_monitors : let s := up.onReg fun r => { r with landed := [default] }
    s.reg.landed = default :: [] ∧ s.storeRoom s.reg.usedRafter = true ∧ s.hubRuns = true ∧ Sparse.wf {} s.reg.histograms = true ∧ Sparse.wf 0 s.reg.pins = true ∧ s.purlin.paused = false ∧ State.reset.hubRuns = false := by decide +kernel

/-- The hypotheses of `Obligations.RegulationCommands`. -/
theorem test_meets_regulation_commands_1 : let p : Path := .sideband none
    let a := up.arrives p
    up.serves p 0xC240 ∧ up.serves p 0xC241 ∧ up.serves p 0xC242 ∧ up.serves p 0xC243 ∧ up.serves p 0xC244 ∧ up.serves p 0xC245 ∧ up.serves p 0xC246 ∧
      Path.privileged p = true ∧ a.ownsRid p 5 = true ∧ a.mayRebind p 1023 = true ∧ burstOk 1 = true ∧ burstOk 32767 = true ∧
      (0 : BitVec 24).toNat ≤ (a.classRow 63).guarantee := by decide +kernel

/-- The hypotheses of `Obligations.RegulationCommands`. -/
theorem test_meets_regulation_commands_2 : let p : Path := .sideband none
    let a := (up.onReg fun r => { r with rates := { r.rates with b := some 10 } }).arrives p
    (a.classRow 3).guarantee < (0xFFFFFF : BitVec 24).toNat ∧ a.reg.rates.b = some 10 ∧
      256 * 10 < a.guarantees (fun _ => true) - (a.classRow 3).guarantee + (0xFFFFFF : BitVec 24).toNat := by decide +kernel

/-- The hypotheses of `Obligations.RegulationCommands`. -/
theorem test_meets_regulation_commands_3 : let x := (bits (0x3F2010 : BitVec 24).toNat 7 0, bits (0x3F2010 : BitVec 24).toNat 15 8, bits (0x3F2010 : BitVec 24).toNat 23 16)
    (2 : BitVec 8).toNat ≤ x.1 ∧ x.1 ≤ x.2.1 ∧ x.2.1 ≤ x.2.2 ∧ x.2.2 ≤ 63 := by decide

/-- The hypotheses of `Obligations.FirmwareTransfers`. -/
theorem test_meets_firmware_transfers_1 : let p : Path := .sideband none
    let a := up.arrives p
    up.serves p 0x0200 ∧ up.serves p 0x0201 ∧ up.serves p 0x0202 ∧ up.serves p 0xC301 ∧ up.serves p 0xC302 ∧ Path.privileged p = true ∧ Path.backgrounds p = true ∧
      a.purlin.fw.activation = none ∧ a.purlin.fw.trial ≠ .inTrial ∧ isSlot 2 = true ∧ a.runningSlot ≠ some 2 ∧ a.purlin.fw.transfer = none ∧
      a.activationRefused 2 = true := by decide +kernel

/-- The hypotheses of `Obligations.FirmwareTransfers`. -/
theorem test_meets_firmware_transfers_2 : let p : Path := .sideband none
    let s := up.onPurlin fun x => { x with fw := { x.fw with slot2 := .valid, transfer := some { slot := 2, next := 128 } } }
    let a := s.arrives p
    s.serves p 0x0201 ∧ s.serves p 0x0202 ∧ a.purlin.fw.activation = none ∧ a.purlin.fw.trial ≠ .inTrial ∧
      (a.purlin.fw.transfer.map fun t => (t.slot, t.next)) = some (2, 1 * 128) ∧ a.activationRefused 2 = false ∧
      ((a.startBackground p 0x0202).activationRefused 2, (a.startBackground p 0x0202).ready rdyRecovery) = (false, false) ∧
      a.backgroundBusy (Path.carrier p) = false ∧
      ((a.onFw fun f => { f.program 2 128 [7] with transfer := some { slot := 2, next := 129 } }).imageFault 2).isSome = true := by decide +kernel

/-- The hypotheses of `Obligations.TrialsAndWatchdogs`. -/
theorem test_meets_trials_and_watchdogs : let s := up.onPurlin fun x => { x with fw := { x.fw with trial := .inTrial, trialRollBack := true, activation := some { slot := 2, path := none, kind := .command } } }
    (s.purlin.fw.activation.map fun x => x.paused) = some false ∧ (s.imageFault 2).isSome = true ∧ s.purlin.fw.trial = .inTrial ∧ s.firmwareRuns = true ∧
      s.purlin.paused = false ∧ s.hubRuns = true ∧ s.purlin.fw.trialRollBack = true ∧ s.purlin.log.readOnly = false ∧ (895 : BitVec 10).toNat < 896 := by decide +kernel

/-- The hypotheses of `Obligations.MailboxCommands`. -/
theorem test_meets_mailbox_commands_1 : let p : Path := .sideband none
    let s := (up.setReady rdyCascade true).onCasc fun c => { c with map := { c.map with routes := [(7, 1)] } }
    s.serves p 0xC000 ∧ s.serves p 0xC300 ∧ s.serves p 0xC002 ∧ Path.privileged p = true ∧ s.ready rdyCascade = true ∧ up.ready rdyCascade = false ∧
      (s.arrives p).purlin.totals.length = 4 ∧
      (Sparse.find s.casc.map.routes 7).isSome = true ∧ (s.peer 7).st ≠ .unreachable ∧ 1023 < (1024 : BitVec 16).toNat ∧ (1023 : BitVec 16).toNat ≤ 1023 := by decide +kernel

/-- The hypotheses of `Obligations.MailboxCommands`. -/
theorem test_meets_mailbox_commands_2 : let p : Path := .primary 0 0
    let s := up.onHost fun h => { h with hp0 := { h.hp0 with inReset := false, up := true } }
    s.serves p 0xC002 ∧ Path.privileged p = false := by decide

/-- The hypotheses of `Obligations.BringUpSteps`. -/
theorem test_meets_bring_up_steps_1 : let s := (up.setReady rdyMailbox true |>.setReady rdyFlashing true).onBoot fun b => { b with step := .sramTested }
    s.boot.step = .sramTested ∧ s.admits = true ∧ (State.advance 17 s).ready rdySettled = false ∧ (State.advance 17 s).nextGroup = some 0 := by decide +kernel

/-- The hypotheses of `Obligations.BringUpSteps`. -/
theorem test_meets_bring_up_steps_2 : let x : Admission := { group := 3, speed := 2, trained := false, passed := 0 }
    let s := up.onBoot fun b => { b with admission := some x }
    s.boot.admission = some x ∧ x.group = (3 : GroupId).toNat ∧ enoughChannels 0x3F 2 = true ∧ enoughChannels 0x3F 1 = false ∧ enoughChannels 0x1F 2 = false ∧
      (up.onBoot fun b => { b with admission := some { x with trained := true } }).boot.admission = some { x with trained := true } := by decide

/-- The hypotheses of `Obligations.BringUpSteps`. -/
theorem test_meets_bring_up_steps_3 : let s := ((up.setReady rdyMailbox true).setReady rdyFlashing true |>.setReady rdySettled true).onCap fun c => { c with withheld := 1, joined := 2 }
    let s := s.onBoot fun b => { b with reasons := [(0, 1)] }
    s.admits = true ∧ (State.advance 17 s).ready rdySettled = true ∧ (State.advance 17 s).nextRetry = some 0 := by decide +kernel

/-- The hypotheses of `Obligations.BringUpCommands`. -/
theorem test_meets_bring_up_commands_1 : let p : Path := .sideband none
    let s := ((up.setReady rdySettled true).onCap fun c => { c with withheld := 2, joined := 1 }).onBoot fun b => { b with reasons := [(1, 1)], retried := 2 }
    let b := (s.arrives p).startBackground p opRetryGroup
    s.serves p 0xC340 ∧ s.serves p 0xC341 ∧ s.serves p 0xC342 ∧ Path.privileged p = true ∧ Path.backgrounds p = true ∧
      (s.arrives p).backgroundBusy (Path.carrier p) = false ∧ b.ready rdySettled = true ∧ b.groupWithheld 1 = true ∧ Sparse.get 0 b.boot.reasons 1 ≠ 5 ∧
      b.boot.admission = none ∧ b.nextRetry = none ∧ ((s.arrives p).boot.heldOut ||| BitVec.ofNat 16 (2 ^ 15)) ≠ 0xFFFF := by decide +kernel

/-- The hypotheses of `Obligations.BringUpCommands`. -/
theorem test_meets_bring_up_commands_2 : (0x7FFF ||| BitVec.ofNat 16 (2 ^ 15)) = (0xFFFF : BitVec 16) := by decide

/-- The hypotheses of `Obligations.HostRequests`. -/
theorem test_meets_host_requests_1 : let s := up.onHost fun h => { h with hp0 := { h.hp0 with inReset := false, up := true } }
    let m : MemReq := { port := .hp0, ldid := 0, pbr := 0, addr := 0x40, ckid := 0, tag := 0 }
    let w := s.wakeDrowse 1
    s.portServes m.port = true ∧ w.storeRoom (w.usedBy (portNat m.port)) = true ∧ s.eaves.exiting = false ∧
      (w.ld (w.ldOf m.port m.ldid).toNat).drain = none ∧ w.courseOf (w.ldOf m.port m.ldid) 0x40 = none ∧ w.cascadeCourse (w.ldOf m.port m.ldid) 0x40 = none := by decide +kernel

/-- The hypotheses of `Obligations.HostRequests`. -/
theorem test_meets_host_requests_2 : let s := ((up.onHost fun h => { h with hp0 := { h.hp0 with inReset := false, up := true }, lds := [(1, { drain := some {} })] }).onXlat fun x =>
      { x with dir := [(0, { st := .bound, extent := 0 })] }).onCasc fun c => { c with extents := [{ ld := 0, dpaBlock := 1, blocks := 1, base := 0, accepted := true }] }
    let v := s.wakeDrowse 1
    s.portServes .hp0 = true ∧ v.storeRoom (v.usedBy 0) = true ∧ s.eaves.exiting = false ∧ (v.ld 0).drain = none ∧ v.courseOf 0 0x40 = some 0 ∧
      v.courseOf 0 blockBytes = none ∧ v.cascadeCourse 0 blockBytes = some 0 ∧ (v.ld 1).drain ≠ none := by decide +kernel

/-- The hypotheses of `Obligations.HostRequests`. -/
theorem test_meets_host_requests_3 : let s := up.onReg fun r => { r with queues := [(5, { requests := [{ origin := .sled }] })] }
    s.reg.inFlight.length < 4096 ∧ s.issueBarred = false ∧ ((s.queue 5).requests.map fun r => r.origin) = [.sled] := by decide +kernel

/-- The hypotheses of `Obligations.HostLinks`. -/
theorem test_meets_host_links : let s := up.onHost fun h => { h with hp0 := { h.hp0 with inReset := false, up := true } }
    s.absentPort .hp0 = false ∧ s.absentPort .hp1 = false ∧ (s.port .hp0).inReset = false ∧ s.boot.step ≠ .off ∧ s.eaves.st = .active ∧ (s.port .hp0).up = true ∧
      (s.port .hp0).l2 = false := by decide

/-- The hypotheses of `Obligations.KeyCommands`. -/
theorem test_meets_key_commands_1 : let p : Path := .sideband none
    let s := up.setReady rdyFlashing true
    let a := s.arrives p
    let b := (s.onCasc fun c => { c with role := .ridge }).arrives p |>.startBackground p 0xC188
    s.serves p 0xC181 ∧ s.serves p 0xC182 ∧ s.serves p 0xC183 ∧ s.serves p 0xC185 ∧ s.serves p 0xC188 ∧ Path.privileged p = true ∧ Path.backgrounds p = true ∧
      a.backgroundBusy (Path.carrier p) = false ∧ a.ready rdyFlashing = true ∧ a.mayName (a.scope p) 5 = true ∧ (a.ctx 5).courses = 0 ∧
      b.casc.role = .ridge ∧ b.flash.rotation = none ∧ b.ready rdyFlashing = true := by decide +kernel

/-- The hypotheses of `Obligations.KeyCommands`. -/
theorem test_meets_key_commands_2 : let s := up
    (s.arrives (.sideband none)).ready rdyFlashing = false ∧ s.serves (.sideband none) 0xC181 ∧ s.serves (.sideband none) 0xC182 ∧ s.serves (.sideband none) 0xC183 ∧
      Crypto.onCurve (Crypto.pointOf (slice (zeros 96) 0 96)) = false := by decide +kernel

/-- The hypotheses of `Obligations.KeyCommands`. -/
theorem test_meets_key_commands_3 : Crypto.onCurve (Crypto.pointOf (slice (Crypto.bytesOfPoint (some Crypto.g384)) 0 96)) = true := by decide +kernel

/-- The hypotheses of `Obligations.ContextCommands`. -/
theorem test_meets_context_commands_1 : let p : Path := .sideband none
    let s := up.setReady rdyFlashing true
    let a := s.arrives p
    s.serves p 0xC180 ∧ s.serves p 0xC184 ∧ s.serves p 0xC186 ∧ s.serves p 0xC187 ∧ a.mayName (a.scope p) 0 = true ∧ a.ready rdyFlashing = true ∧
      ((a.ctx 0).gen (a.ctx 0).cur).st = .loaded ∧ ((a.ctx 0).gen (!(a.ctx 0).cur)).st ≠ .retiring ∧ (a.ctx 0).g0.counter = 0 ∧ (a.ctx 0).g1.counter = 0 ∧ Sparse.wf {} a.flash.contexts = true ∧
      2 ^ 32 ≤ (2 ^ 40 : BitVec 64).toNat ∧ (2 ^ 40 : BitVec 64).toNat ≤ 2 ^ 40 ∧ 2 ^ 40 < (2 ^ 40 + 1 : BitVec 64).toNat := by decide +kernel

/-- The hypotheses of `Obligations.ContextCommands`. -/
theorem test_meets_context_commands_2 : let p : Path := .sideband none
    let s := (up.setReady rdyFlashing true).onFlash fun f => { f with contexts := [(1, { g0 := { st := .loaded }, g1 := { st := .retiring } })] }
    let x := (s.arrives p).ctx 1
    (x.gen x.cur).st = .loaded ∧ (x.gen (!x.cur)).st = .retiring ∧ s.serves p 0xC186 ∧ (s.arrives p).mayName ((s.arrives p).scope p) 1 = true := by decide +kernel

/-- The hypotheses of `Obligations.ContextCommands`. -/
theorem test_meets_context_commands_3 : let s := up.onFlash fun f => { f with pass := some { ctx := 3 }, destroys := [{ ctx := 3, path := none, owned := 0 }] }
    (s.flash.pass.map fun r => s.boundFrom r.w) = some none ∧ (s.flash.destroys.map fun d => (s.abortWanted d.path 0xC183, s.boundFrom d.w)) = [(false, none)] := by decide +kernel

/-- The hypotheses of `Obligations.ContextCommands`. -/
theorem test_meets_context_commands_4 : let s (b : Batten) := (up.onFlash fun f => { f with pass := some { ctx := 3 }, destroys := [{ ctx := 3, path := none, owned := 1 }] }).onXlat fun x =>
      { x with dir := [(0, { st := .bound })], cache := [(0, { batten := b })] }
    let s0 := s {}
    let s1 := s { tier := .raw, ctx := 3 }
    let s2 := s { tier := .raw, ctx := 3, gen := true }
    (s0.flash.pass.map fun r => (s0.boundFrom r.w, (s0.cachedBatten 0).isSome, (s0.view 0).tier)) = some (some 0, true, .absent) ∧
      (s1.view 0).tier ≠ .absent ∧ (s1.view 0).ctx.toNat = 3 ∧ (s1.view 0).gen = (s1.ctx 3).cur ∧ (s2.view 0).tier ≠ .absent ∧ (s2.view 0).gen ≠ (s2.ctx 3).cur ∧
      (s2.flash.destroys.map fun d => (s2.abortWanted d.path 0xC183, s2.boundFrom d.w)) = [(false, some 0)] := by decide +kernel

/-- The hypotheses of `Obligations.SecureLinksAndTsp`. -/
theorem test_meets_secure_links_and_tsp : let s := ((up.setReady rdyFlashing true).onHost fun h => { h with hp0 := { h.hp0 with inReset := false, up := true } }).onFlash fun f =>
      { f with ide0 := { f.ide0 with cxlRunning := true } }
    s.eaves.exiting = false ∧ s.portServes .hp0 = true ∧ (s.ide .hp0).cxlRunning = true ∧ s.portServes (ldPort 0) = true ∧ s.ldExists 0 = true ∧ s.ready rdyFlashing = true ∧
      s.mayName (some 0) (8191 : BitVec 13).toNat = true ∧ ((zeros 1 ++ [4] : List Byte).getD 1 0).toNat = 4 := by decide +kernel

/-- The hypotheses of `Obligations.CascadeMessages`. -/
theorem test_meets_cascade_messages_1 : let s := (up.onLink fun l => { l with ports := [(0, { phase := .up, lanes := 0xFF })] }).onCasc fun c => { c with eligible := false, best := some { term := 1, id := 2 } }
    s.awake = true ∧ s.hopUp 0 = true ∧ s.casc.role ≠ .ridge ∧ s.casc.best ≠ none ∧ s.ownClaim = none ∧ s.casc.joined = false ∧ s.anyHop = true := by decide +kernel

/-- The hypotheses of `Obligations.CascadeMessages`. -/
theorem test_meets_cascade_messages_2 : let s := (up.onLink fun l => { l with ports := [(0, { phase := .up, lanes := 0xFF })] }).onCasc fun c => { c with eligible := true }
    s.casc.joined = false ∧ s.anyHop = true ∧ s.ownClaim ≠ none ∧ s.casc.best = none := by decide +kernel

/-- The hypotheses of `Obligations.CascadeMessages`. -/
theorem test_meets_cascade_messages_3 : let s := (up.onLink fun l => { l with ports := [(0, { phase := .up, lanes := 0xFF })], peers := [(7, { hasRecv := true, expect := 9 })] }).onCasc fun c =>
      { c with role := .ridge, deputy := some 2, probes := [7] }
    s.awake = true ∧ s.hopUp 0 = true ∧ s.casc.role = .ridge ∧ s.casc.deputy = some 2 ∧ (7 : SledId) ∈ s.casc.probes ∧ ((s.wakeDrowse 3).takeSeq 7 9).2 = true := by decide +kernel

/-- The hypotheses of `Obligations.CascadeMessages`. -/
theorem test_meets_cascade_messages_4 : let s := (up.setReady rdyCascade true).onCasc fun c => { c with joined := true, role := .member, ridge := 4, sledId := 5, term := 3, highest := 3 }
    s.casc.joined = true ∧ s.casc.role = .member ∧ s.casc.ridge = 4 ∧ s.casc.highest ≤ (3 : BitVec 32).toNat ∧ s.casc.term = (3 : BitVec 32).toNat ∧
      (s.onCasc fun c => { c with role := .deputy }).casc.role = .deputy := by decide +kernel

/-- The hypotheses of `Obligations.CascadeCommands`. -/
theorem test_meets_cascade_commands_1 : let p : Path := .sideband none
    let s := (up.setReady rdyCascade true).onCasc fun c =>
      { c with role := .ridge, map := { c.map with ranges := [(0, { kind := .concatenated, base := 0, length := 4, first := 0 })] } }
    let a := s.arrives p
    s.serves p 0xC2C0 ∧ s.serves p 0xC2C1 ∧ s.serves p 0xC2C2 ∧ s.serves p 0xC2C3 ∧ s.serves p 0xC2C4 ∧ s.serves p 0xC2C5 ∧ a.cascadePath p = true ∧ a.casc.role = .ridge ∧
      a.ready rdyCascade = true ∧ a.ldExists 0 = true ∧ 256 + 4 ≤ a.maxBlocks ∧ (∀ i, i < 4 → (a.casc.map.rangeAt i).isSome = true ∧ a.extTaken 0 (256 + i) = false) ∧
      (up.arrives p).casc.role ≠ .ridge := by decide +kernel

/-- The hypotheses of `Obligations.CascadeCommands`. -/
theorem test_meets_cascade_commands_2 : let p : Path := .sideband none
    let s := (up.setReady rdyCascade true).onCasc fun c =>
      { c with role := .ridge, sledId := 5, map := { c.map with members := [(7, {})], ranges := [(1, { kind := .mirrored, base := 0, length := 4, first := 0 })] } }
    let a := s.arrives p
    (a.rangeChange a.latestMap 2 1 default []).toOption.isSome = true ∧ (a.rangeChange a.latestMap 2 0 default []).toOption = none := by decide +kernel

/-- The hypotheses of `Obligations.StepRunsTheFront`. -/
theorem test_meets_step_runs_the_front : let s : State := { State.reset with pending := [.stripeLockGrant, .requestIssue] }
    s.pending = .stripeLockGrant :: [.requestIssue] ∧ State.reset.pending = [] ∧ State.reset.hubRuns = false := by decide

/-- The hypotheses of `Obligations.StaleBattens`. -/
theorem test_meets_stale_battens : let s := up.onXlat fun x => { x with dir := [(0, { st := .bound, epoch := 1 })], cache := [(0, { batten := { tier := .raw, epoch := 0 } })] }
    (s.batten 0).stale (s.dirOf (0 / blockCourses)) = true := by decide +kernel

/-- The hypotheses of `Obligations.ContextOfARequest`. -/
theorem test_meets_context_of_a_request : (up.onHost fun h => { h with hp0 := { h.hp0 with rate := .g64 } }).host.hp0.rate = .g64 ∧ (up.onHost fun h => { h with hp0 := { h.hp0 with rate := .g32 } }).host.hp0.rate ≠ .g64 := by decide

/-- The hypotheses of `Obligations.ZigZagMaps`. -/
theorem test_meets_zig_zag_maps : 1 ≤ 1 ∧ TileCode.zigzag 1 1 = 1 ∧ TileCode.unzigzag 8 (TileCode.zigzag 8 200) = 200 := by decide

/-- The hypotheses of `Obligations.StepsKeepSoundness`. -/
theorem test_meets_steps_keep_soundness : (up.onPower fun p => { p with sw := .on }).Sound ∧ ∃ t, step { (up.onPower fun p => { p with sw := .on }) with pending := [.tripCountReset] } = .next t :=
  ⟨⟨by decide, by decide, by decide⟩, _, rfl⟩


/-! ## Ill-formed commands are refused -/

theorem test_wf_line : Instr.wf (.memwr ⟨.hp0, 0, 0, 0, 0, 0⟩ [0]) = false := by decide

theorem test_wf_payload : Instr.wf (.transferFw (.primary 0 0) 1 0 0 (List.replicate 4097 0)) = false := by decide +kernel

theorem test_wf_path : Instr.wf (.clearPoison (.rafter 1 0 2) 0 (List.replicate 64 0)) = false := by decide

theorem test_wf_packet : Instr.wf (.ackPacket 0 (List.replicate 47 0)) = false := by decide

theorem test_wf_key : Instr.wf (.loadContextKey (.primary 0 0) 0 false (List.replicate 79 0)) = false := by decide

theorem test_wf_relay : Instr.wf (.relayCommand (.primary 0 0) 1 0 (List.replicate 1009 0)) = false := by decide +kernel

theorem test_wf_samples : Instr.wf (.samplerCycle []) = false := by decide

/-! ## The worked examples of the spec -/

/-- The course of the worked example of spec/02_battens_and_tiers.md. -/
def exampleBatten : Batten :=
  { tier := .tiled, ctx := 0x42, cls := 5, heat := 0x15, epoch := 1, len := 25, base := 0x2504080E5,
    sizes := [2, 2, 1, 0, 0, 3, 2, 2, 4, 1, 1, 2, 0, 0, 3, 2] }

/-- spec/02_battens_and_tiers.md: the batten reads 8042_0545_4880_D284_A01A_4A08_101C_A819h. -/
theorem test_batten_bits : exampleBatten.toBits = 0x804205454880D284A01A4A08101CA819 := by decide

/-- spec/02_battens_and_tiers.md: channel CH037, lath 0102h, slot 00E5h, data index 215. -/
theorem test_slot_address : slotAddress 37 0x102 0xE5 = 0x2504080E5 ∧ dataIndex 0x2504080E5 = 215 := by decide

/-- spec/02_battens_and_tiers.md: tile 7 starts at index 225, which lies at F0h; the last data slot is FEh. -/
theorem test_light_slots : lightSlot 0x2504080E5 10 % 16384 = 0xF0 ∧ lightSlot 0x2504080E5 24 % 16384 = 0xFE := by decide

/-- spec/02_battens_and_tiers.md: tile 5 starts at offset 5, tile 6 at offset 8. -/
theorem test_tile_offsets : exampleBatten.offset 5 = 5 ∧ exampleBatten.offset 6 = 8 := by decide

/-- spec/07_lpddr4x_channels.md: row 8,256, CS0, bank 2, check slot 2_5040_80EFh. -/
theorem test_bank_hash : slotRow 0x2504080E5 = 8256 ∧ slotRank 0x2504080E5 = 0 ∧ slotBank State.reset.dram.masks 0x2504080E5 = 2 ∧
    checkSlot 0x2504080E5 = 0x2504080EF := by decide

/-- spec/08_codes_scrub_sparing.md: an anchor on CH037 in a lath whose [3:0] is 2h. -/
theorem test_stripe_members : (List.range 10).map (memberChannel (slotAddress 37 0x102 0xE5)) = [37, 38, 39, 32, 33, 21, 22, 23, 16, 17] := by
  decide

/-- spec/06_flashing.md: the tweak of slot 0 of tile 5, under key generations 0 and 1. -/
theorem test_tweak : courseTweak false .tiled 20 5 0x1234567 = 0x0002140141234567 ∧
    courseTweak true .tiled 20 5 0x1234567 = 0x0006140141234567 := by decide

/-- spec/05_tile_cache.md: tile number 305,419,893 lies in set 1,653 with tag 49,710. -/
theorem test_tile_set : tileNumber 0x1234567 5 = 305419893 ∧ tileSet 305419893 = 1653 ∧ tileTag 305419893 = 49710 := by decide

/-- The table of 32-bit offsets of the worked example of spec/03_tile_coding.md. -/
def offsetTable : List Byte := (List.range 64).flatMap fun i => le 4 (0x10400 + 0x40 * i)

/-- spec/03_tile_coding.md: under P2 the first residues are 133,120 and 128, and the rest are 0. -/
theorem test_residues : TileCode.residues 2 false 0 [] (TileCode.wordsOf false offsetTable) = [133120, 128] ++ List.replicate 62 0 := by
  decide +kernel

/-- spec/03_tile_coding.md: the coded form is 28 bytes, header 40h, body 12h 00h 41h and at its fourth byte 40h, then zeros. -/
theorem test_coded_form : (TileCode.encodeAs ⟨2, false, false, 0⟩ offsetTable).drop 4 = [0x40, 0x12, 0x00, 0x41, 0x40] ++ zeros 19 := by
  decide +kernel

/-- spec/03_tile_coding.md: the Phioz home form of the same tile, up to its tile check. -/
theorem test_phioz_home : (TileCode.phiozHome offsetTable).map (·.take 124) =
    some ([0x00, 0x00, 0x04, 0x01, 0x00] ++ List.replicate 63 0x40 ++ zeros 56) := by
  decide +kernel

/-! ## Steps -/

/-- An empty queue lets a hub cycle pass (notes/assumptions/2.md). -/
theorem test_idle : (match step State.reset with | .next t => t.clock | _ => 0) = 1 := by decide +kernel

/-- A command at the front of the queue leaves it. -/
theorem test_front : (match step { State.reset with pending := [.mainInWindow, .prsntAssert] } with | .next t => t.pending | _ => []) =
    [.prsntAssert] := by decide +kernel

/-- Main input within its window is recorded (R439). -/
theorem test_main : (match exec .mainInWindow State.reset with | .next t => t.power.mainIn | _ => false) = true := by decide +kernel

end Sys2Proof.Machine
end

section
/-! What no command changes: the frame of `exec` over all its commands. -/

namespace Sys2Proof.Machine

/-- Every command answers a next state, and keeps what `Keeps` names: one line for each meaning. -/
theorem exec_keeps (c : Instr) (s : State) : ∃ t, exec c s = .next t ∧ Keeps s t :=
  match c with
  | .memrd _ => execMemrd_keeps _ s
  | .memrddata _ => execMemrddata_keeps _ s
  | .memwr _ _ => execMemwr_keeps _ _ s
  | .memwrptl _ _ _ => execMemwrptl_keeps _ _ _ s
  | .memspecrd r => execMemspecrd_keeps r s
  | .sanitize _ => execSanitize_keeps _ s
  | .secureErase _ => execSecureErase_keeps _ s
  | .injectPoison _ _ => execInjectPoison_keeps _ _ s
  | .clearPoison _ _ _ => execClearPoison_keeps _ _ _ s
  | .getPoisonList _ _ _ => execGetPoisonList_keeps _ _ _ s
  | .identifyMemoryDevice _ => execIdentifyMemoryDevice_keeps _ s
  | .getSupportedLogs _ => execGetSupportedLogs_keeps _ s
  | .getLog _ _ _ _ => execGetLog_keeps _ _ _ _ s
  | .getEventRecords _ _ => execGetEventRecords_keeps _ _ s
  | .clearEventRecords _ _ _ _ => execClearEventRecords_keeps _ _ _ _ s
  | .getEventInterruptPolicy _ => execGetEventInterruptPolicy_keeps _ s
  | .setEventInterruptPolicy _ _ => execSetEventInterruptPolicy_keeps _ _ s
  | .getTimestamp _ => execGetTimestamp_keeps _ s
  | .setTimestamp _ _ => execSetTimestamp_keeps _ _ s
  | .backgroundOperationStatus _ => execBackgroundOperationStatus_keeps _ s
  | .requestAbortBackgroundOperation _ => execRequestAbortBackgroundOperation_keeps _ s
  | .backgroundCommandComplete _ => execBackgroundCommandComplete_keeps _ s
  | .getCapacityStatus _ => execGetCapacityStatus_keeps _ s
  | .setOvercommitRatio _ _ => execSetOvercommitRatio_keeps _ _ s
  | .setDefaultContext _ _ _ => execSetDefaultContext_keeps _ _ _ s
  | .getDefaultContext _ _ => execGetDefaultContext_keeps _ _ s
  | .setReleaseWait _ _ => execSetReleaseWait_keeps _ _ s
  | .setGrowthDevice _ _ => execSetGrowthDevice_keeps _ _ s
  | .getBatten _ _ _ => execGetBatten_keeps _ _ _ s
  | .getTranslationStatus _ => execGetTranslationStatus_keeps _ s
  | .rebuildBattenBlock _ _ => execRebuildBattenBlock_keeps _ _ s
  | .discardCourseRange _ _ _ => execDiscardCourseRange_keeps _ _ _ s
  | .setCompactionPolicy _ _ _ _ => execSetCompactionPolicy_keeps _ _ _ _ s
  | .getTileCodingStatus _ => execGetTileCodingStatus_keeps _ s
  | .setWriteGather _ _ => execSetWriteGather_keeps _ _ s
  | .setPhiozRange _ _ _ _ _ => execSetPhiozRange_keeps _ _ _ _ _ s
  | .getPhiozRange _ _ => execGetPhiozRange_keeps _ _ s
  | .setPhiozConversion _ _ _ => execSetPhiozConversion_keeps _ _ _ s
  | .getTileForm _ _ _ _ => execGetTileForm_keeps _ _ _ _ s
  | .getPlacementStatus _ => execGetPlacementStatus_keeps _ s
  | .setPlacementPolicy _ _ => execSetPlacementPolicy_keeps _ _ s
  | .setClassPlacement _ _ _ _ _ => execSetClassPlacement_keeps _ _ _ _ _ s
  | .startThatchingJob _ _ _ _ _ _ _ => execStartThatchingJob_keeps _ _ _ _ _ _ _ s
  | .getThatchingJob _ _ => execGetThatchingJob_keeps _ _ s
  | .resumeThatchingJob _ _ _ => execResumeThatchingJob_keeps _ _ _ s
  | .stopThatchingJob _ _ _ => execStopThatchingJob_keeps _ _ _ s
  | .warmCourseRange _ _ _ => execWarmCourseRange_keeps _ _ _ s
  | .getTileCacheStatus _ => execGetTileCacheStatus_keeps _ s
  | .invalidateTileCacheRange _ _ _ _ => execInvalidateTileCacheRange_keeps _ _ _ _ s
  | .setTileCachePolicy _ _ _ => execSetTileCachePolicy_keeps _ _ _ s
  | .getTileCacheSet _ _ => execGetTileCacheSet_keeps _ _ s
  | .getFlashingStatus _ => execGetFlashingStatus_keeps _ s
  | .establishWrappingKey _ _ => execEstablishWrappingKey_keeps _ _ s
  | .loadContextKey _ _ _ _ => execLoadContextKey_keeps _ _ _ _ s
  | .destroyContextKey _ _ _ => execDestroyContextKey_keeps _ _ _ s
  | .getContext _ _ => execGetContext_keeps _ _ s
  | .setContextAttributes _ _ _ _ => execSetContextAttributes_keeps _ _ _ _ s
  | .startRekey _ _ => execStartRekey_keeps _ _ s
  | .setWriteCounterLimit _ _ _ => execSetWriteCounterLimit_keeps _ _ _ s
  | .rotateRafterKey _ => execRotateRafterKey_keeps _ s
  | .getChannelStatus _ _ => execGetChannelStatus_keeps _ _ s
  | .getGroupStatus _ _ => execGetGroupStatus_keeps _ _ s
  | .setGroupPowerPolicy _ _ _ _ _ => execSetGroupPowerPolicy_keeps _ _ _ _ _ s
  | .setTrainingPolicy _ _ _ _ _ => execSetTrainingPolicy_keeps _ _ _ _ _ s
  | .setDramSpeed _ _ => execSetDramSpeed_keeps _ _ s
  | .setBankHashMasks _ _ _ _ => execSetBankHashMasks_keeps _ _ _ _ s
  | .getAddressMap _ _ => execGetAddressMap_keeps _ _ s
  | .retrainChannel _ _ _ => execRetrainChannel_keeps _ _ _ s
  | .getCodeStatus _ => execGetCodeStatus_keeps _ s
  | .getSpareStatus _ => execGetSpareStatus_keeps _ s
  | .startRangeScrub _ _ _ _ _ => execStartRangeScrub_keeps _ _ _ _ _ s
  | .setPatrolPolicy _ _ _ => execSetPatrolPolicy_keeps _ _ _ s
  | .getFaultRecords _ _ _ => execGetFaultRecords_keeps _ _ _ s
  | .setRetirementPolicy _ _ _ _ _ _ => execSetRetirementPolicy_keeps _ _ _ _ _ _ s
  | .retireStorage _ _ _ _ _ _ => execRetireStorage_keeps _ _ _ _ _ _ s
  | .clearRetirement _ _ _ _ _ _ => execClearRetirement_keeps _ _ _ _ _ _ s
  | .injectSlotError _ _ _ _ _ => execInjectSlotError_keeps _ _ _ _ _ s
  | .getRegulationStatus _ => execGetRegulationStatus_keeps _ s
  | .setQueueRegulation _ _ => execSetQueueRegulation_keeps _ _ s
  | .getQueue _ _ _ => execGetQueue_keeps _ _ _ s
  | .setClassRegulation _ _ _ _ _ _ => execSetClassRegulation_keeps _ _ _ _ _ _ s
  | .setClassGuarantee _ _ _ _ => execSetClassGuarantee_keeps _ _ _ _ s
  | .setUrgencySource _ _ _ _ _ => execSetUrgencySource_keeps _ _ _ _ _ s
  | .setHistogramMonitor _ _ _ _ _ _ => execSetHistogramMonitor_keeps _ _ _ _ _ _ s
  | .getRafterPortStatus _ _ => execGetRafterPortStatus_keeps _ _ s
  | .getTransportPair _ _ => execGetTransportPair_keeps _ _ s
  | .setTransportPolicy _ _ _ _ => execSetTransportPolicy_keeps _ _ _ _ s
  | .setRafterPort _ _ _ => execSetRafterPort_keeps _ _ _ s
  | .getCascadeStatus _ => execGetCascadeStatus_keeps _ s
  | .setCascadeRange _ _ _ _ _ => execSetCascadeRange_keeps _ _ _ _ _ s
  | .getCascadeRange _ _ => execGetCascadeRange_keeps _ _ s
  | .addCascadeExtent _ _ _ _ _ _ => execAddCascadeExtent_keeps _ _ _ _ _ _ s
  | .getCascadeRoute _ _ => execGetCascadeRoute_keeps _ _ s
  | .setCascadePolicy _ _ _ _ => execSetCascadePolicy_keeps _ _ _ _ s
  | .getFwInfo _ => execGetFwInfo_keeps _ s
  | .transferFw _ _ _ _ _ => execTransferFw_keeps _ _ _ _ _ s
  | .activateFwOnline _ _ => execActivateFwOnline_keeps _ _ s
  | .activateFwOffline _ _ => execActivateFwOffline_keeps _ _ s
  | .getSledIdentity _ => execGetSledIdentity_keeps _ s
  | .getBackgroundResult _ => execGetBackgroundResult_keeps _ s
  | .relayCommand _ _ _ _ => execRelayCommand_keeps _ _ _ _ s
  | .getPurlinStatus _ => execGetPurlinStatus_keeps _ s
  | .getFirmwareStatus _ => execGetFirmwareStatus_keeps _ s
  | .setFirmwarePolicy _ _ _ _ => execSetFirmwarePolicy_keeps _ _ _ _ s
  | .getLogStoreStatus _ => execGetLogStoreStatus_keeps _ s
  | .getBringupStatus _ => execGetBringupStatus_keeps _ s
  | .retryGroupAdmission _ _ => execRetryGroupAdmission_keeps _ _ s
  | .setGroupAdmission _ _ _ => execSetGroupAdmission_keeps _ _ _ s
  | .getPowerState _ => execGetPowerState_keeps _ s
  | .setWatchConsent _ _ _ => execSetWatchConsent_keeps _ _ _ s
  | .setPowerStatePolicy _ _ _ _ _ _ => execSetPowerStatePolicy_keeps _ _ _ _ _ _ s
  | .setWatchThresholds _ _ _ _ _ _ => execSetWatchThresholds_keeps _ _ _ _ _ _ s
  | .getWatchSamples _ => execGetWatchSamples_keeps _ s
  | .getSleepRefusals _ _ => execGetSleepRefusals_keeps _ _ s
  | .getPowerPathStatus _ => execGetPowerPathStatus_keeps _ s
  | .setPowerPathPolicy _ _ _ _ _ => execSetPowerPathPolicy_keeps _ _ _ _ _ s
  | .clearPowerLatch _ => execClearPowerLatch_keeps _ s
  | .getPowerReadings _ _ _ => execGetPowerReadings_keeps _ _ _ s
  | .getTripRecords _ => execGetTripRecords_keeps _ s
  | .getOnchipMemoryStatus _ => execGetOnchipMemoryStatus_keeps _ s
  | .setMemoryTestPolicy _ _ _ => execSetMemoryTestPolicy_keeps _ _ _ s
  | .setGeneralCounter _ _ _ _ _ _ => execSetGeneralCounter_keeps _ _ _ _ _ _ s
  | .clearCounters _ _ => execClearCounters_keeps _ _ s
  | .setBandwidthWindow _ _ => execSetBandwidthWindow_keeps _ _ s
  | .setTracePolicy _ _ _ _ _ => execSetTracePolicy_keeps _ _ _ _ _ s
  | .setCounterAccess _ _ _ _ => execSetCounterAccess_keeps _ _ _ _ s
  | .readCounterArea _ _ _ _ _ => execReadCounterArea_keeps _ _ _ _ _ s
  | .getConnectorStatus _ => execGetConnectorStatus_keeps _ s
  | .setLocateIndicator _ _ => execSetLocateIndicator_keeps _ _ s
  | .getThermalStatus _ => execGetThermalStatus_keeps _ s
  | .undefinedVendorOpcode _ _ => execUndefinedVendorOpcode_keeps _ _ s
  | .unsupportedM2sOpcode port op => execUnsupportedM2sOpcode_keeps port op s
  | .requestIssue => execRequestIssue_keeps s
  | .perstAssert _ => execPerstAssert_keeps _ s
  | .perstRelease _ _ => execPerstRelease_keeps _ _ s
  | .hostLinkUp _ _ => execHostLinkUp_keeps _ _ s
  | .linkL1Entry _ => execLinkL1Entry_keeps _ s
  | .linkL2Entry _ => execLinkL2Entry_keeps _ s
  | .linkElectricalIdleExit _ => execLinkElectricalIdleExit_keeps _ s
  | .blockFillComplete _ => execBlockFillComplete_keeps _ s
  | .addDcResponse _ _ => execAddDcResponse_keeps _ _ s
  | .releaseDcCapacity _ _ => execReleaseDcCapacity_keeps _ _ s
  | .fmInitiateDcAdd _ _ _ => execFmInitiateDcAdd_keeps _ _ _ s
  | .fmInitiateDcRelease _ _ => execFmInitiateDcRelease_keeps _ _ s
  | .releaseWaitExpiry => execReleaseWaitExpiry_keeps s
  | .writeThrottleStep => execWriteThrottleStep_keeps s
  | .ldReset _ => execLdReset_keeps _ s
  | .cxlReset _ _ => execCxlReset_keeps _ _ s
  | .fmUnbindLd _ => execFmUnbindLd_keeps _ s
  | .ldDrainComplete _ => execLdDrainComplete_keeps _ s
  | .eventRatePeriodEnd _ _ => execEventRatePeriodEnd_keeps _ _ s
  | .doorbellUrgencyWrite _ _ _ => execDoorbellUrgencyWrite_keeps _ _ _ s
  | .doorbellUrgencyHoldWrite _ _ _ => execDoorbellUrgencyHoldWrite_keeps _ _ _ s
  | .urgencyHoldExpiry _ => execUrgencyHoldExpiry_keeps _ s
  | .groupChgClear _ => execGroupChgClear_keeps _ s
  | .pressureChgClear _ => execPressureChgClear_keeps _ s
  | .registerWrite _ _ _ => execRegisterWrite_keeps _ _ _ s
  | .gatedBlockMmio _ _ _ => execGatedBlockMmio_keeps _ _ _ s
  | .runMoveStart _ => execRunMoveStart_keeps _ s
  | .runMoveCommit _ => execRunMoveCommit_keeps _ s
  | .placementRetry => execPlacementRetry_keeps s
  | .clearingWalkStep => execClearingWalkStep_keeps s
  | .tableFillStep => execTableFillStep_keeps s
  | .drainWalkStep => execDrainWalkStep_keeps s
  | .tableRebuildStep => execTableRebuildStep_keeps s
  | .watermarkStallEnd => execWatermarkStallEnd_keeps s
  | .gatherWindowExpiry _ => execGatherWindowExpiry_keeps _ s
  | .gatherClose _ => execGatherClose_keeps _ s
  | .thatchBundleTake _ => execThatchBundleTake_keeps _ s
  | .thatchBundleCommit _ => execThatchBundleCommit_keeps _ s
  | .thatchJobAutoResume _ => execThatchJobAutoResume_keeps _ s
  | .promotionCommit _ => execPromotionCommit_keeps _ s
  | .placementScanVisit => execPlacementScanVisit_keeps s
  | .recode _ => execRecode_keeps _ s
  | .thresholdAdjust => execThresholdAdjust_keeps s
  | .rekeyPassCourse => execRekeyPassCourse_keeps s
  | .destroyDiscardWalkStep => execDestroyDiscardWalkStep_keeps s
  | .ideIntegrityFailure _ => execIdeIntegrityFailure_keeps _ s
  | .cxlIdeKm _ _ => execCxlIdeKm_keeps _ _ s
  | .pcieIdeKm _ _ => execPcieIdeKm_keeps _ _ s
  | .spdmGetCertificate _ _ _ => execSpdmGetCertificate_keeps _ _ _ s
  | .tspSetKey _ _ _ _ => execTspSetKey_keeps _ _ _ _ s
  | .tspReplaceKey _ _ _ _ => execTspReplaceKey_keeps _ _ _ _ s
  | .tspClearKey _ _ _ => execTspClearKey_keeps _ _ _ s
  | .tspUnsupportedRequest _ _ _ => execTspUnsupportedRequest_keeps _ _ _ s
  | .queueHeadExecute _ => execQueueHeadExecute_keeps _ s
  | .slotReadComplete _ => execSlotReadComplete_keeps _ s
  | .bufferDrain _ => execBufferDrain_keeps _ s
  | .refreshDue _ => execRefreshDue_keeps _ s
  | .mr4Poll _ _ => execMr4Poll_keeps _ _ s
  | .zqCalibrationDue _ _ _ => execZqCalibrationDue_keeps _ _ _ s
  | .dqsCheckDue _ _ => execDqsCheckDue_keeps _ _ s
  | .writeDqRetrainTurn _ _ => execWriteDqRetrainTurn_keeps _ _ s
  | .writeDqRetrainDone _ _ _ => execWriteDqRetrainDone_keeps _ _ _ s
  | .channelSelfRefreshEntry _ => execChannelSelfRefreshEntry_keeps _ s
  | .groupPowerDownEntry _ _ => execGroupPowerDownEntry_keeps _ _ s
  | .groupWakeComplete _ _ => execGroupWakeComplete_keeps _ _ s
  | .groupTrainingAttemptDone _ _ _ _ _ _ => execGroupTrainingAttemptDone_keeps _ _ _ _ _ _ s
  | .stripeRebuild _ => execStripeRebuild_keeps _ s
  | .stripeLockGrant => execStripeLockGrant_keeps s
  | .rereadClassify _ => execRereadClassify_keeps _ s
  | .retirementMovesResume => execRetirementMovesResume_keeps s
  | .patrolRead => execPatrolRead_keeps s
  | .patrolLapOverdue => execPatrolLapOverdue_keeps s
  | .rangeScrubStep _ => execRangeScrubStep_keeps _ s
  | .landedRequestEnterStore => execLandedRequestEnterStore_keeps s
  | .histogramSample => execHistogramSample_keeps s
  | .deliverableRateInterval => execDeliverableRateInterval_keeps s
  | .urgencyPinChange _ _ => execUrgencyPinChange_keeps _ _ s
  | .laneParityError _ _ => execLaneParityError_keeps _ _ s
  | .downNoticeReceived _ => execDownNoticeReceived_keeps _ s
  | .hopTrainingDone _ _ => execHopTrainingDone_keeps _ _ s
  | .portRetryTimer _ _ => execPortRetryTimer_keeps _ _ s
  | .forwardedPacketLanded _ _ => execForwardedPacketLanded_keeps _ _ s
  | .forwardAgeDrop _ => execForwardAgeDrop_keeps _ s
  | .egressPacketSend _ => execEgressPacketSend_keeps _ s
  | .readRequestPacket _ _ => execReadRequestPacket_keeps _ _ s
  | .writeRequestPacket _ _ => execWriteRequestPacket_keeps _ _ s
  | .readResponsePacket _ _ => execReadResponsePacket_keeps _ _ s
  | .writeCompletionPacket _ _ => execWriteCompletionPacket_keeps _ _ s
  | .ackPacket _ _ => execAckPacket_keeps _ _ s
  | .pairSyncPacket _ _ _ => execPairSyncPacket_keeps _ _ _ s
  | .ackTimer _ => execAckTimer_keeps _ s
  | .replayTimer _ => execReplayTimer_keeps _ s
  | .pairUnreachable _ => execPairUnreachable_keeps _ s
  | .ridgeClaimMessage _ _ => execRidgeClaimMessage_keeps _ _ s
  | .ridgeClaimTimeout => execRidgeClaimTimeout_keeps s
  | .heartbeatSend => execHeartbeatSend_keeps s
  | .heartbeatReceived src term => execHeartbeatReceived_keeps src term s
  | .heartbeatTimeout => execHeartbeatTimeout_keeps s
  | .mapChangeAck _ _ => execMapChangeAck_keeps _ _ s
  | .joinRequest _ _ => execJoinRequest_keeps _ _ s
  | .joinComplete _ => execJoinComplete_keeps _ s
  | .routeUpdate _ _ _ _ => execRouteUpdate_keeps _ _ _ _ s
  | .memberProbeTimeout _ => execMemberProbeTimeout_keeps _ s
  | .mirrorCopy _ _ => execMirrorCopy_keeps _ _ s
  | .resilverStep _ _ => execResilverStep_keeps _ _ s
  | .rafterMailboxRequest _ _ => execRafterMailboxRequest_keeps _ _ s
  | .rafterMailboxReply _ _ => execRafterMailboxReply_keeps _ _ s
  | .coreWatchdogExpiry _ => execCoreWatchdogExpiry_keeps _ s
  | .activationStaged => execActivationStaged_keeps s
  | .activationPauseEnd _ => execActivationPauseEnd_keeps _ s
  | .healthWindowEnd => execHealthWindowEnd_keeps s
  | .logStoreUpdate _ _ _ => execLogStoreUpdate_keeps _ _ _ s
  | .firmwareBoot _ => execFirmwareBoot_keeps _ s
  | .groupAdmission => execGroupAdmission_keeps s
  | .groupJoin _ _ => execGroupJoin_keeps _ _ s
  | .drowseIdleTimer => execDrowseIdleTimer_keeps s
  | .watchEntryStart => execWatchEntryStart_keeps s
  | .sleepBlockAnswer _ => execSleepBlockAnswer_keeps _ s
  | .sleepAnswerTimeout => execSleepAnswerTimeout_keeps s
  | .sleepBackoffRetry => execSleepBackoffRetry_keeps s
  | .watchExitComplete _ _ _ _ _ _ => execWatchExitComplete_keeps _ _ _ _ _ _ s
  | .samplerCycle _ => execSamplerCycle_keeps _ s
  | .sidebandAddressMatch _ => execSidebandAddressMatch_keeps _ s
  | .crystalStop => execCrystalStop_keeps s
  | .timeBaseSave => execTimeBaseSave_keeps s
  | .purlinGatedAccess _ => execPurlinGatedAccess_keeps _ s
  | .auxPowerUp => execAuxPowerUp_keeps s
  | .prsntAssert => execPrsntAssert_keeps s
  | .prsntDeassert => execPrsntDeassert_keeps s
  | .auxExcursion => execAuxExcursion_keeps s
  | .mainExcursion _ _ => execMainExcursion_keeps _ _ s
  | .mainInWindow => execMainInWindow_keeps s
  | .insertionDelayEnd => execInsertionDelayEnd_keeps s
  | .rampPowerGood => execRampPowerGood_keeps s
  | .railsGood _ => execRailsGood_keeps _ s
  | .rampTimeout _ => execRampTimeout_keeps _ s
  | .railsTimeout _ => execRailsTimeout_keeps _ s
  | .regulatorFault _ => execRegulatorFault_keeps _ s
  | .foldbackEntry => execFoldbackEntry_keeps s
  | .soaTimerExpiry _ => execSoaTimerExpiry_keeps _ s
  | .fastTrip _ => execFastTrip_keeps _ s
  | .tripRetry => execTripRetry_keeps s
  | .tripCountReset => execTripCountReset_keeps s
  | .holdupEnd => execHoldupEnd_keeps s
  | .powerConversion _ => execPowerConversion_keeps _ s
  | .regionTestInterval _ _ => execRegionTestInterval_keeps _ _ s
  | .regionTestAbandon => execRegionTestAbandon_keeps s
  | .bandwidthWindowEnd => execBandwidthWindowEnd_keeps s
  | .strapPoll _ => execStrapPoll_keeps _ s
  | .locateTimeout => execLocateTimeout_keeps s
  | .wakeHoldTimeout => execWakeHoldTimeout_keeps s
  | .alertResponseAddress => execAlertResponseAddress_keeps s
  | .i3cSetdasa _ => execI3cSetdasa_keeps _ s
  | .i3cEntdaa _ => execI3cEntdaa_keeps _ s
  | .sensorPoll _ _ => execSensorPoll_keeps _ _ s
  | .thermalShutdown _ _ => execThermalShutdown_keeps _ _ s
  | .thermalCooldownEnd => execThermalCooldownEnd_keeps s
  | .hostLinkDown _ => execHostLinkDown_keeps _ s
  | .linkL1Exit _ => execLinkL1Exit_keeps _ s
  | .foldbackExit => execFoldbackExit_keeps s
  | .unreachablePairReport src member => execUnreachablePairReport_keeps src member s
  | .linkKeyConfirmation _ _ _ _ => execLinkKeyConfirmation_keeps _ _ _ _ s
  | .ridgeTermAnnounce _ _ _ => execRidgeTermAnnounce_keeps _ _ _ s
  | .cascadeMapUpdate _ _ => execCascadeMapUpdate_keeps _ _ s

/-- Settles O60: what `exec_keeps` says of the queue, the clock, the part, the serial number and the fused version (R52, R382). -/
theorem commandsKeepTheFrame : Obligations.CommandsKeepTheFrame := by
  intro c s
  obtain ⟨t, ht, hk⟩ := exec_keeps c s
  exact ⟨t, ht, hk.queue, hk.clock, hk.small, hk.serial, hk.fused⟩

end Sys2Proof.Machine
end

section
/-! How a command that its path serves answers, and the fields of the payloads it answers with. -/

namespace Sys2Proof

/-- A table of numbers of `k` bytes each. -/
theorem length_flatMap_le (k : Nat) (l : List Nat) : (l.flatMap fun n => le k n).length = l.length * k := by
  induction l with
  | nil => simp only [List.flatMap_nil, List.length_nil, Nat.zero_mul]
  | cons n l ih => rw [List.flatMap_cons, List.length_append, ih, le_length, List.length_cons, Nat.succ_mul, Nat.add_comm]

end Sys2Proof

namespace Sys2Proof.Machine

/-- A command that arrives on a path which serves it answers what its effect leaves of the state it arrived in (R370, R376). -/
theorem exec_of_arrive {c i : Instr} {p : Path} {op : Nat} {s t : State} {f : State → State × ReturnCode × List Byte} {rc : ReturnCode}
    {out : List Byte} (hx : exec c s = .next (s.arrive i p op false f)) (h : s.serves p op) (hf : f (s.arrives p) = (t, rc, out)) :
    exec c s = .next (t.answered p op rc out) := by
  rw [hx, State.arrive_serves h, hf]

/-- A command whose effect changes nothing answers from the state. -/
theorem answers_of_arrive {c i : Instr} {p : Path} {op : Nat} {s : State} {f : State → State × ReturnCode × List Byte}
    {post : State → List Byte → Prop} {out : List Byte} (hx : exec c s = .next (s.arrive i p op false f)) (h : s.serves p op)
    (hf : f (s.arrives p) = (s.arrives p, .success, out)) (hp : post (s.arrives p) out) : Answers c p op s post :=
  ⟨out, exec_of_arrive hx h hf, hp⟩

/-- A dynamic capacity command answers through the own mailbox of its logical device, with no output (R34). -/
theorem exec_of_dcCommand {c i : Instr} {l : LdId} {op : Nat} {s : State} {f : State → State × ReturnCode} {r : State × ReturnCode}
    (hx : exec c s = .next (s.dcCommand i l op f)) (h : s.serves (.primary l 0) op) (hf : f (s.arrives (.primary l 0)) = r) :
    exec c s = .next (r.1.answered (.primary l 0) op r.2 []) := by
  subst hf
  exact exec_of_arrive (f := fun a => ((f a).1, (f a).2, [])) hx h rfl

/-- A background command that its work refuses leaves nothing behind but its arrival (R376). -/
theorem State.background_refuses {s : State} {p : Path} {op : Nat} {rc : ReturnCode} (h : s.serves p op) (hp : Path.backgrounds p = true)
    (hb : (s.arrives p).backgroundBusy (Path.carrier p) = false) (i : Instr) (f : State → State × Option ReturnCode)
    (hf : (f ((s.arrives p).startBackground p op)).2 = some rc) :
    s.background i p op f = (s.arrives p).answered p op rc [] := by
  simp [State.background, State.arrive_serves h, hp, hb, hf]

end Sys2Proof.Machine
end

section
/-! The general mailbox commands: identify, logs, events, timestamp, sled identity, Purlin status and relaying (R20, R49, R366, R378, R391). -/

namespace Sys2Proof.Machine

@[simp] theorem Firmware.norBytes_length (f : Firmware) (i n : Nat) : (f.norBytes i n).length = n := by simp [Firmware.norBytes]

@[simp] theorem State.runningRevision_length (s : State) : s.runningRevision.length = 16 := by
  unfold State.runningRevision Firmware.revision
  split
  · split <;> simp
  · simp

theorem Path.limit_le (p : Path) : Path.limit p ≤ 4096 := by
  cases p <;> simp [Path.limit]

/-- Settles O1: each query leaves the state it arrived in, and its fields lie where its payload's parts begin. -/
theorem generalQueries : Obligations.GeneralQueries := by
  intro s p
  refine ⟨fun h => ?_, fun h => ?_, fun offset length h hin hlim => ?_, fun log h => ?_, fun h => ?_, fun h => ?_⟩
  · refine answers_of_arrive rfl h rfl ?_
    simp [Fields, fieldLe_append_right]
  · refine answers_of_arrive rfl h rfl ?_
    simp [Fields, fieldLe_append_right]
  · refine answers_of_arrive rfl h ?_ rfl
    simp [Nat.not_lt.2 hin, Nat.not_lt.2 hlim]
  · have hlimit := Path.limit_le p
    refine answers_of_arrive rfl h rfl ⟨?_, ?_, ?_⟩
    · simp [fieldLe_append_right]
    · simp only [List.append_assoc, fieldLe_append_right, le_length, zeros_length, fieldLe_le_append, List.length_take,
        Nat.reduceLeDiff, Nat.reduceSub, Nat.le_refl, Nat.sub_self]
      exact Nat.mod_eq_of_lt (by omega)
    · exact List.drop_left' (by simp)
  · refine answers_of_arrive rfl h rfl ?_
    simp [Fields]
  · refine answers_of_arrive rfl h rfl ?_
    simp [Fields]

/-- Settles O2: each setting takes the branch of its effect that its hypothesis names. -/
theorem generalSettings : Obligations.GeneralSettings := by
  intro s p
  refine ⟨fun settings h hcodes => ?_, fun value h => ?_, fun log handles h => ?_, fun log handles h => ?_, fun code subject => rfl,
    fun opcode h => ?_⟩
  · exact exec_of_arrive rfl h (if_neg (by simpa using hcodes))
  · exact exec_of_arrive rfl h rfl
  · intro a x hhandles
    exact exec_of_arrive rfl h (if_pos hhandles)
  · intro a x hover
    refine exec_of_arrive rfl h ((if_neg hover).trans ?_)
    simp [a, x, EventLogState.cleared]
  · exact exec_of_arrive rfl h rfl

/-- A sled that a relayed command reaches: this sled is in a cascade, whose map has a route to a sled that is not unreachable (R366). -/
def State.relayReaches (s : State) (target : Nat) : Prop :=
  s.ready rdyCascade = true ∧ (Sparse.find s.casc.map.routes target).isSome = true ∧ (s.peer target).st ≠ .unreachable

theorem State.not_relayReaches_iff {s : State} {target : Nat} : ¬ s.relayReaches target ↔
    (!s.ready rdyCascade) = true ∨ (Sparse.find s.casc.map.routes target).isNone = true ∨ (s.peer target).st = .unreachable := by
  simp only [State.relayReaches, Classical.not_and_iff_not_or_not, Classical.not_not, ne_eq, Bool.not_eq_true', Bool.not_eq_true,
    Option.isSome_eq_false_iff]

section Relay
variable {s : State} {p : Path} (target op : BitVec 16) (payload : List Byte) (h : s.serves p 0xC002)
include h

/-- Relay Command belongs to the privileged paths (R371). -/
theorem relayCommand_of_unprivileged (hp : Path.privileged p = false) : exec (.relayCommand p target op payload) s =
    .next (s.command (.relayCommand p target op payload) p 0xC002 fun s => refuse s .unsupported) := by
  change execRelayCommand p target op payload s = _
  simp [execRelayCommand, h, hp]

theorem relayCommand_of_out_of_range (hp : Path.privileged p = true) (hbad : 1023 < target.toNat ∨ 1008 < payload.length) :
    exec (.relayCommand p target op payload) s =
      .next (s.command (.relayCommand p target op payload) p 0xC002 fun s => refuse s .invalidInput) := by
  change execRelayCommand p target op payload s = _
  simp [execRelayCommand, h, hp, hbad]

theorem relayCommand_of_not_reached (hp : Path.privileged p = true) (hgood : ¬(1023 < target.toNat ∨ 1008 < payload.length))
    (hno : ¬ s.relayReaches target.toNat) : exec (.relayCommand p target op payload) s =
      .next (s.command (.relayCommand p target op payload) p 0xC002 fun s => (s, .retryRequired, le 2 1 ++ zeros 6)) := by
  change execRelayCommand p target op payload s = _
  simp only [execRelayCommand, h, hp, if_neg hgood, if_pos (State.not_relayReaches_iff.1 hno)]
  rfl

/-- A command relayed to a sled that is reached waits for its reply under the next tag (R378). -/
theorem relayCommand_of_reached (hp : Path.privileged p = true) (hgood : ¬(1023 < target.toNat ∨ 1008 < payload.length))
    (hyes : s.relayReaches target.toNat) : exec (.relayCommand p target op payload) s =
      let a := s.arrives p
      .next (((a.onPurlin fun x =>
        { x with nextTag := (a.purlin.nextTag + 1) % 65536
                 relays := x.relays ++ [{ path := p, target := BitVec.ofNat 10 target.toNat, tag := a.purlin.nextTag }] }).enqueueSend
          target.toNat { kind := 6 } (mailboxPayload 1 (Path.relayOrigin p) op.toNat a.me a.purlin.nextTag 0 payload) true (.control 1)).onPurlin
            fun x => { x with served := x.served + 1 }) := by
  change execRelayCommand p target op payload s = _
  simp only [execRelayCommand, State.deferred, h, hp, if_neg hgood, if_neg (mt State.not_relayReaches_iff.2 (not_not_intro hyes))]
  rfl

end Relay

/-- Settles O43: the two queries by their payloads, Relay Command by its path, its range and the reach of its target. -/
theorem mailboxCommands : Obligations.MailboxCommands := by
  intro s p a
  refine ⟨fun h => ?_, fun h => ?_, fun target op payload h => ⟨fun hp => ?_, fun hp => ⟨fun hbad => ?_, ?_⟩⟩⟩
  · refine answers_of_arrive rfl h rfl ?_
    simp [fieldLe_append_right, stepping]
  · refine answers_of_arrive rfl h rfl ⟨?_, ?_, fun hcores => ?_⟩
    · exact fieldLe_le_append ..
    · simp [fieldLe_append_right]
    · have hbytes : ((s.arrives p).purlin.totals.flatMap fun n => le 2 n).length = 8 := by rw [length_flatMap_le, hcores]
      simp only [List.forall_mem_cons, List.append_assoc, fieldLe_append_right, le_length, hbytes, fieldLe_le_append, Nat.reduceLeDiff,
        Nat.reduceSub, Nat.sub_self, Nat.le_refl, List.not_mem_nil, false_implies, implies_true, and_self]
  · exact exec_of_arrive (relayCommand_of_unprivileged target op payload h hp) h rfl
  · exact exec_of_arrive (relayCommand_of_out_of_range target op payload h hp hbad) h rfl
  · rintro ⟨htarget, hlength⟩ reached
    have hgood : ¬(1023 < target.toNat ∨ 1008 < payload.length) := by omega
    exact ⟨fun hno => exec_of_arrive (relayCommand_of_not_reached target op payload h hp hgood hno) h rfl,
      fun hyes => relayCommand_of_reached target op payload h hp hgood hyes⟩

end Sys2Proof.Machine
end

section
/-! Capacity as hosts and the fabric manager move it, sanitize, resets and poison (R31 to R48, R88, R211, R526). -/

namespace Sys2Proof.Machine

/-- Settles O4: each command takes the branch in which its extents are well formed and its blocks may be taken. -/
theorem dynamicCapacityMoves : Obligations.DynamicCapacityMoves := by
  intro s
  refine ⟨?_, ?_, ?_, ?_, fun block => rfl⟩
  · rintro ld es exts ⟨h, hes⟩ r
    exact exec_of_dcCommand rfl h (by rw [hes])
  · rintro ld es exts ⟨h, hes⟩ r
    exact exec_of_dcCommand rfl h (by rw [hes])
  · rintro ld region e exts a l ⟨h, hes, hregion, hld, hfree, hblocks, htotal⟩
    simp only [a, l] at hld hfree hblocks htotal
    refine exec_of_arrive rfl h ?_
    simp only [hes]
    exact if_neg (by simpa [hblocks, htotal] using And.intro (And.intro hregion hld) hfree)
  · rintro ld e exts a l ⟨h, hes, hheld⟩
    simp only [a, l] at hheld
    refine exec_of_arrive rfl h ?_
    simp only [hes]
    refine if_neg ?_
    rw [Bool.not_eq_true, Bool.not_eq_false', List.all_eq_true]
    intro x hx
    obtain ⟨hdynamic, haccepted⟩ := hheld x hx
    rw [hdynamic, haccepted]
    rfl

/-- Settles O5: the wait by its named extents, the throttle by whether the free capacity fell (R38, R302). -/
theorem releaseWaitAndThrottle : Obligations.ReleaseWaitAndThrottle := by
  intro s
  refine ⟨?_, ?_, ?_, ?_⟩
  · rintro w ⟨hw, hnamed⟩
    change execReleaseWaitExpiry s = _
    simp [execReleaseWaitExpiry, hw, hnamed]
  · rintro w ⟨hw, hnamed⟩
    change execReleaseWaitExpiry s = _
    simp [execReleaseWaitExpiry, hw, hnamed]
  · rintro ⟨hon, hfell, hlow⟩
    change execWriteThrottleStep s = _
    simp [execWriteThrottleStep, hon, hfell, hlow]
  · rintro ⟨hon, hstays⟩
    have hno : ¬(s.free < s.place.lastFree ∧ s.place.divisor < 64) := by omega
    change execWriteThrottleStep s = _
    simp [execWriteThrottleStep, hon, hno]

theorem State.sanitizeCommand_begins {s : State} {p : Path} (op : Nat) (h : ∀ b ∈ s.blocksOf (s.issuing p), s.walksFull b = false) :
    s.sanitizeCommand p op = ((s.sanitizeLd (s.issuing p)).finishBackground (some p) op .success [], none) := by
  have hany : (s.blocksOf (s.issuing p)).any s.walksFull = false := by simpa using h
  simp [State.sanitizeCommand, hany]

theorem State.sanitizeCommand_busy {s : State} {p : Path} (op : Nat) (h : ∃ b ∈ s.blocksOf (s.issuing p), s.walksFull b = true) :
    s.sanitizeCommand p op = (s, some .busy) := by
  have hany : (s.blocksOf (s.issuing p)).any s.walksFull = true := List.any_eq_true.2 h
  simp [State.sanitizeCommand, hany]

/-- Settles O6: Sanitize and Secure Erase are one background work, which begins unless a block has three walks pending (R40, R88). -/
theorem sanitizeAndErase : Obligations.SanitizeAndErase := by
  intro s p hp hb op c hc h
  obtain ⟨i, hx⟩ : ∃ i, exec c s = .next (s.background i p op fun s => s.sanitizeCommand p op) := by
    obtain ⟨rfl, rfl⟩ | ⟨rfl, rfl⟩ := hc <;> exact ⟨_, rfl⟩
  intro a
  refine ⟨fun hfree => ?_, fun hfull => ?_⟩
  · have hf := State.sanitizeCommand_begins op hfree
    rw [Begins, hx, State.background_begins h hp hb _ _ (by rw [hf]), hf]
  · rw [TurnedAway, hx, State.background_refuses h hp hb _ _ (by rw [State.sanitizeCommand_busy op hfull])]

/-- Settles O7: the resets of a device that exists, and the end of a drain with nothing left in flight (R43, R44). -/
theorem deviceResets : Obligations.DeviceResets := by
  intro s ld
  refine ⟨fun hld => ⟨if_pos hld, if_pos hld, fun clear => if_pos hld⟩, ?_⟩
  rintro d ⟨hd, hidle⟩
  change execLdDrainComplete ld s = _
  simp [execLdDrainComplete, hd, hidle]

/-- Settles O8: the DPA names a course and a line of it, and the list, its limit or the course's tier picks the branch (R46, R48, R211). -/
theorem poisonCommands : Obligations.PoisonCommands := by
  intro s p dpa c a l
  refine ⟨?_, ?_, fun data => ?_, fun length h => ?_⟩
  · rintro ⟨h, hc, haligned, hlisted, hroom⟩
    simp only [a, l] at hc hlisted hroom
    refine exec_of_arrive rfl h ?_
    simp only [hc]
    simp [haligned, hlisted, Nat.not_le.2 hroom, a, l]
  · rintro ⟨h, hc, haligned, hlisted, hfull⟩
    simp only [a, l] at hc hlisted hfull
    refine exec_of_arrive rfl h ?_
    simp only [hc]
    simp [haligned, hlisted, hfull, refuse]
  · rintro ⟨h, hc, haligned, htier⟩ b ctx
    simp only [a, l] at hc htier
    refine exec_of_arrive rfl h ?_
    simp only [hc]
    simp [haligned, htier, b, ctx, a, l]
  · refine answers_of_arrive rfl h rfl ?_
    simp only [List.append_assoc, fieldLe_append_right, le_length, List.length_cons, List.length_nil, fieldLe_le_append, List.length_take,
      Nat.reduceAdd, Nat.reduceLeDiff, Nat.reduceSub, Nat.le_refl, Nat.sub_self]
    exact Nat.mod_eq_of_lt (by omega)

/-- Settles O9: the two queries by their payloads, each setting by its path and its range (R31, R36, R38, R371). -/
theorem capacityCommands : Obligations.CapacityCommands := by
  intro s p a
  refine ⟨fun h => ?_, ?_, ?_, fun hp => ⟨?_, ?_, ?_⟩⟩
  · refine answers_of_arrive rfl h rfl ?_
    simp [Fields, fieldLe_append_right, State.acceptedBlocks]
  · rintro rid ⟨h, hrid⟩
    refine answers_of_arrive rfl h (if_neg (by simpa using hrid)) ?_
    simp [Fields, fieldLe_append_right]
  · rintro rid ctx ⟨h, hrid⟩
    refine exec_of_arrive rfl h ((if_neg (by simpa using hrid)).trans ?_)
    simp [a]
  · rintro ratio ⟨h, hlow, hhigh⟩ b excess t
    refine exec_of_arrive rfl h ((if_pos hp).trans ((if_neg (by omega)).trans ?_))
    simp [a, b, excess, t, b2n]
  · rintro ms ⟨h, hlow, hhigh⟩
    exact exec_of_arrive rfl h ((if_pos hp).trans (if_neg (by omega)))
  · rintro ld ⟨h, hgfam, hld⟩
    exact exec_of_arrive rfl h ((if_pos hp).trans ((if_neg (by simpa using hgfam)).trans (if_neg (by simpa using hld))))

end Sys2Proof.Machine
end

section
/-! The host links, and the requests that come over them (R21 to R29, R43, R289 to R294, R395 to R420). -/

namespace Sys2Proof.Machine

@[simp] theorem State.port_onPort (s : State) (p : HostPort) (f : PortState → PortState) : (s.onPort p f).port p = f (s.port p) := by
  cases p <;> rfl

@[simp] theorem State.port_linkBit (s : State) (p q : HostPort) (v : Bool) : (s.linkBit p v).port q = s.port q := by
  cases p <;> rfl

/-- Settles O47: each edge of PERST# and of a link takes the branch of a port that is there (R22, R395, R420, R422). -/
theorem hostLinks : Obligations.HostLinks := by
  intro s port
  refine ⟨?_, ?_, ?_, ?_, rfl, fun hup => ⟨fun hl2 => ?_, ?_⟩, rfl, fun hport => ?_⟩
  · intro t u
    exact ⟨fun hgone => if_pos hgone, fun hport => if_neg (ne_true_of_eq_false hport)⟩
  · rintro refclk ⟨rfl, hport⟩
    exact if_neg (ne_true_of_eq_false hport)
  · rintro refclk rfl
    change execPerstRelease .hp0 refclk s = _
    simp [execPerstRelease, State.absentPort]
  · rintro rate ⟨hport, hreset, hboot, hactive⟩
    refine ⟨_, ?_, rfl, ?_, ?_⟩
    · change execHostLinkUp port rate s = _
      simp [execHostLinkUp, hport, hreset, hboot, hactive]
    · rw [State.port_linkBit, State.port_onPort]
    · rw [State.port_linkBit, State.port_onPort]
  · exact if_pos (by simp [hup, hl2])
  · exact if_pos hup
  · exact if_neg (ne_true_of_eq_false hport)

/-- Settles O56: both conditions of the CKID's use, and each way to miss one (R28). -/
theorem contextOfARequest : Obligations.ContextOfARequest := by
  intro s p ckid rid
  refine ⟨fun hrate hckid => ?_, fun hckid => ?_, fun hrate => ?_⟩
  · exact if_pos ⟨hrate, hckid⟩
  · exact if_neg fun h => h.2 hckid
  · exact if_neg fun h => hrate h.1

/-! ## The intake of a host port -/

/-- The logical device that a host request names, once the request has woken the sled from Drowse (R25 to R27, R419). -/
def State.reqLd (s : State) (m : MemReq) : LdId := (s.wakeDrowse 1).ldOf m.port m.ldid

/-- The state in which a host request is looked at: awake, and without the consent of its device (R417). -/
def State.reqState (s : State) (m : MemReq) : State :=
  (s.wakeDrowse 1).onEaves fun e =>
    { e with consent := e.consent &&& ~~~ BitVec.ofNat 32 (2 ^ (s.reqLd m).toNat), wholeConsent := e.wholeConsent && !(s.wakeDrowse 1).host.gfam }

/-- The same state with the bytes of a write counted on its port (R469). -/
def State.reqCounted (s : State) (m : MemReq) (kind : ReqKind) : State :=
  if kind = .read then s.reqState m else (s.reqState m).countBytes (portNat m.port) 64 0

/-- The request that enters the store for a host's, but for its course: the context, class and urgency of its source (R28, R201, R306). -/
def State.hostRequest (s : State) (m : MemReq) (kind : ReqKind) (data : List Byte) (enables : BitVec 64) : Request :=
  let b := s.reqState m
  let l := s.reqLd m
  let rid := (s.wakeDrowse 1).ridOf m.port m.ldid m.pbr
  let ctx := b.contextOf m.port m.ckid rid.toNat
  let base := b.baseClass ctx l rid.toNat
  let u := b.urgencyOf rid.toNat
  let dpa := m.addr.toNat / 64 * 64
  { kind, origin := .host m.port m.tag, ld := l, rid := rid.setWidth 16, ctx, cls := BitVec.ofNat 6 (b.effClass rid.toNat base.toNat u), base,
    dpa, line := dpa / 64 % 64, data := slice data 0 64, enables, arrived := b.clock, urgency := u }

/-- Is a cascade course served by another sled, or by none (R357)? -/
def State.servedAway (s : State) (x : Nat) (read : Bool) : Bool :=
  match s.resolve x read with
  | some (d, _) => decide (d ≠ s.me)
  | none => true

theorem State.servedAway_eq (s : State) (x : Nat) (read : Bool) :
    s.servedAway x read = match s.resolve x read with | some y => decide (y.1 ≠ s.me) | none => true := by
  unfold State.servedAway
  cases s.resolve x read <;> rfl

/-- A host request enters the store where an accepted extent holds its line or the cascade window does, else it is not decoded (R58, R359). -/
def State.enterHost (s : State) (m : MemReq) (r : Request) : State :=
  match s.courseOf r.ld r.dpa with
  | some k => s.enqueue { r with course := k }
  | none =>
    match s.cascadeCourse r.ld r.dpa with
    | some x => s.enqueue { r with cascade := true, global := x, remote := s.servedAway x (r.kind == .read) }
    | none => s.emit (.decodeError m.port m.tag)

theorem State.enterHost_of_course {s : State} {k : Nat} (m : MemReq) (r : Request) (h : s.courseOf r.ld r.dpa = some k) :
    s.enterHost m r = s.enqueue { r with course := k } := by
  simp only [State.enterHost, h]

theorem State.enterHost_of_cascade {s : State} {x : Nat} {away : Bool} (m : MemReq) (r : Request) (h : s.courseOf r.ld r.dpa = none)
    (hx : s.cascadeCourse r.ld r.dpa = some x) (haway : s.servedAway x (r.kind == .read) = away) :
    s.enterHost m r = s.enqueue { r with cascade := true, global := x, remote := away } := by
  simp only [State.enterHost, h, hx, haway]

theorem State.enterHost_of_none {s : State} (m : MemReq) (r : Request) (h : s.courseOf r.ld r.dpa = none)
    (hx : s.cascadeCourse r.ld r.dpa = none) : s.enterHost m r = s.emit (.decodeError m.port m.tag) := by
  simp only [State.enterHost, h, hx]

section Accept
variable {s : State} {m : MemReq} (kind : ReqKind) (data : List Byte) (enables : BitVec 64) (hport : s.portServes m.port = true)
  (hroom : (s.wakeDrowse 1).storeRoom ((s.wakeDrowse 1).usedBy (portNat m.port)) = true)
include hport hroom

/-- A draining device discards the request and counts it (R43). -/
theorem State.accept_draining (hdrain : ((s.reqState m).ld (s.reqLd m).toNat).drain ≠ none) : s.accept m kind data enables =
    (s.reqState m).onLd (s.reqLd m).toNat fun x => { x with drain := x.drain.map fun d => { d with discarded := d.discarded + 1 } } := by
  have hsome : ((s.reqState m).ld (s.reqLd m).toNat).drain.isSome = true := Option.isSome_iff_ne_none.2 hdrain
  exact (if_neg (by simp [hport])).trans ((if_neg (by simp [hroom])).trans (if_pos hsome))

theorem State.accept_serving (hdrain : ((s.reqState m).ld (s.reqLd m).toNat).drain = none) :
    s.accept m kind data enables = (s.reqCounted m kind).enterHost m (s.hostRequest m kind data enables) := by
  have hnone : ¬((s.reqState m).ld (s.reqLd m).toNat).drain.isSome = true := by simp [hdrain]
  refine (if_neg (by simp [hport])).trans ((if_neg (by simp [hroom])).trans ((if_neg hnone).trans ?_))
  rfl

end Accept

/-- One issue slot with room in the translation unit and no throttle: the head of the queue chosen is issued, a host's at the course that
its DPA names now (R58, R294). -/
theorem State.issue_head {s : State} {qn : Nat} {strict out : Bool} {r : Request} {rest : List Request}
    (hroom : s.reg.inFlight.length < 4096) (hstage : s.issueBarred = false) (hchoose : s.choose = some (qn, strict, out))
    (hhead : (s.queue qn).requests = r :: rest) :
    s.issue =
      let owner := match r.origin with | .host _ _ => some r.ld | _ => none
      let u := s.takeHead qn strict out r
      let t := u.onReg fun g => { g with inFlight := g.inFlight ++ [(r.id, owner, false)], lastIssue := some u.clock }
      match r.origin with
      | .host p tag => if r.cascade then t.serve r else match t.courseOf r.ld r.dpa with
        | some c => t.serve { r with course := c }
        | none => (t.landed r).emit (.decodeError p tag)
      | _ => t.serve r := by
  have hfree : (decide (4096 ≤ s.reg.inFlight.length) || s.issueBarred) = false := by simp [hroom, hstage]
  simp only [State.issue, hfree, hchoose, hhead]
  cases r.origin <;> rfl

/-- Settles O46: the four requests of a port are one intake, which the device's drain, its extents and the cascade window decide. -/
theorem hostRequests : Obligations.HostRequests := by
  intro s m
  refine ⟨?_, rfl, ?_, ?_⟩
  · intro op hport
    change execUnsupportedM2sOpcode m.port op s = _
    simp [execUnsupportedM2sOpcode, hport]
  · rintro qn strict out r rest ⟨hroom, hstage, hchoose, hhead⟩ owner t
    exact congrArg _ (State.issue_head hroom hstage hchoose hhead)
  · intro w l rid b dpa request v away Arrives
    rintro ⟨hport, hroom, hexit⟩
    have hawake : ¬(s.eaves.st = .watch ∧ s.eaves.exiting = true) := by simp [hexit]
    have key (c : Instr) (kind : ReqKind) (data : List Byte) (enables : BitVec 64)
        (hx : exec c s = .next (s.afterExit c fun s => s.accept m kind data enables)) :
        Arrives c (s.reqCounted m kind) (s.hostRequest m kind data enables) := by
      rw [State.afterExit, if_neg hawake] at hx
      refine ⟨fun hdrain => ?_, fun hdrain => hx.trans (congrArg _ (State.accept_draining kind data enables hport hroom hdrain))⟩
      rw [hx, State.accept_serving kind data enables hport hroom hdrain]
      let r := s.hostRequest m kind data enables
      exact ⟨fun k hk => congrArg _ (State.enterHost_of_course m r hk),
        fun x hx => congrArg _ (State.enterHost_of_cascade m r hx.1 hx.2 (State.servedAway_eq ..)),
        fun hno => congrArg _ (State.enterHost_of_none m r hno.1 hno.2)⟩
    refine ⟨key _ .read [] 0 rfl, key _ .read [] 0 rfl, fun data => key _ .write data _ rfl, fun data enables => ?_⟩
    have hv : s.reqCounted m (if enables = BitVec.allOnes 64 then .write else .partialWrite) = v := by split <;> rfl
    exact hv ▸ key (.memwrptl m data enables) _ data enables rfl

end Sys2Proof.Machine
end

section
/-! Translation: stale battens, clearing walks and the translation commands (R59, R61, R64, R88, R89, R91, R93, R94). -/

namespace Sys2Proof.Machine

/-! ## Stale battens -/

/-- A batten is stale when it names slots under an epoch that is not its block's (R64). -/
theorem Batten.stale_iff (b : Batten) (e : DirEntry) : b.stale e = true ↔ b.tier ≠ .absent ∧ b.epoch ≠ e.epoch := by
  simp [Batten.stale]

/-- A lookup never sees a stale batten, whatever the state of its block (R64). -/
theorem State.view_of_stale {s : State} {course : Nat} (h : (s.batten course).stale (s.dirOf (course / blockCourses)) = true) :
    s.view course = {} := by
  simp [State.view, h]

/-- Settles O55: the two halves of what stale says, and the empty batten that a lookup sees in its place. -/
theorem staleBattens : Obligations.StaleBattens := by
  intro s course
  exact ⟨Batten.stale_iff .., fun h => congrArg Batten.tier (State.view_of_stale h)⟩

/-! ## Clearing walks -/

/-- The state in which a clearing walk looks at a course: its table slot is read where the slot's first course is not cached (R78, R89). -/
theorem State.clearStale_eq (s : State) (c source : Nat) :
    let t := if (s.cachedBatten c).isSome ∨ c % 4 ≠ 0 then s else s.readTableSlot c source
    s.clearStale c source = if (t.batten c).stale (t.dirOf (c / blockCourses)) then (t.freeCourse c, true) else (t, false) := by
  cases hcached : s.cachedBatten c with
  | some x => simp [State.clearStale, hcached]
  | none =>
    by_cases hfirst : c % 4 = 0
    · simp [State.clearStale, hcached, hfirst]
    · simp [State.clearStale, hcached, hfirst]

section Walk
variable {s : State} {w : Clearing}

/-- A walk past its first course goes on from what clearing that course leaves (R89). -/
theorem State.walkStep_of_more (hbegun : w.w ≠ 0) (hmore : w.w + 1 ≠ blockCourses) :
    s.walkStep w =
      let r := s.clearStale (w.block * blockCourses + w.w) 11
      r.1.onXlat fun x => { x with clearing := some { w with w := w.w + 1, freed := w.freed + if r.2 then 1 else 0 } } := by
  simp only [State.walkStep, if_neg hbegun, if_neg hmore]
  rfl

/-- At the block's last course the walk ends: the walks it found pending are settled, and event 0206h reports its runs (R89). -/
theorem State.walkStep_at_end (hbegun : w.w ≠ 0) (hlast : w.w + 1 = blockCourses) :
    s.walkStep w =
      let r := s.clearStale (w.block * blockCourses + w.w) 11
      let t := (r.1.onXlat fun x => { x with clearing := none }).onDir w.block fun e => { e with walks := e.walks - BitVec.ofNat 2 w.recorded }
      t.raise 0x0206 .informational 0xFFFF (le 2 w.block ++ le 4 (w.freed + if r.2 then 1 else 0)) (t.blockLogs w.block) := by
  simp only [State.walkStep, if_neg hbegun, if_pos hlast]
  rfl

end Walk

theorem exec_clearingWalkStep_of_walk {s : State} {w : Clearing} (hw : s.xlat.clearing = some w) :
    exec .clearingWalkStep s = .next (s.walkStep w) := by
  change execClearingWalkStep s = _
  simp only [execClearingWalkStep, hw, done]

/-- Where nothing that goes before a walk is there, the lowest block with walks pending begins one (R89, R92). -/
theorem exec_clearingWalkStep_of_idle {s : State} {b : Nat} (hclearing : s.xlat.clearing = none) (hrebuild : s.xlat.rebuild = none)
    (hwaiting : s.beginRebuild = s) (hdrain : ∀ w ∈ s.xlat.swaps, w.drain = none) (hdiscards : s.xlat.discards = [])
    (hnext : s.nextWalk = some b) :
    exec .clearingWalkStep s = .next (s.walkStep { block := b, recorded := (s.dirOf b).walks.toNat }) := by
  have hdrains : s.xlat.swaps.any (·.drain.isSome) = false := by
    rw [List.any_eq_false]
    intro w hw
    simp [hdrain w hw]
  change execClearingWalkStep s = _
  simp [execClearingWalkStep, hclearing, hrebuild, hwaiting, hdrains, hdiscards, hnext, done]

/-- Settles O10: a walk under way by whether its course is the block's last, its clearing by the batten's epoch, and its beginning. -/
theorem clearingWalks : Obligations.ClearingWalks := by
  intro s
  refine ⟨?_, s.clearStale_eq, ?_⟩
  · intro w hw hbegun c r n
    rw [exec_clearingWalkStep_of_walk hw]
    exact ⟨fun hmore => congrArg _ (State.walkStep_of_more hbegun hmore), fun hlast => congrArg _ (State.walkStep_at_end hbegun hlast)⟩
  · intro b hclearing hrebuild hwaiting hdrain hdiscards hnext
    exact exec_clearingWalkStep_of_idle hclearing hrebuild hwaiting hdrain hdiscards hnext

/-! ## The translation commands -/

/-- Where a course is named, its name is no error (R94). -/
theorem State.namedCourse_of_toOption {s : State} {p : Path} {kind addr c : Nat} (h : (s.namedCourse p kind addr).toOption = some c) :
    s.namedCourse p kind addr = .ok c := by
  cases hn : s.namedCourse p kind addr with
  | error rc => simp [hn, Except.toOption] at h
  | ok k => simpa [hn, Except.toOption] using h

section Background
variable {c i : Instr} {p : Path} {op : Nat} {s t : State} {f : State → State × Option ReturnCode}

/-- A background command begins with what its work, once accepted, leaves (R376). -/
theorem begins_of_background (hx : exec c s = .next (s.background i p op f)) (h : s.serves p op) (hp : Path.backgrounds p = true)
    (hb : (s.arrives p).backgroundBusy (Path.carrier p) = false) (hf : f ((s.arrives p).startBackground p op) = (t, none)) :
    Begins c p op s t := by
  rw [Begins, hx, State.background_begins h hp hb i f (by rw [hf]), hf]

/-- The same for a background command of the privileged paths (R371, R376). -/
theorem begins_of_privilegedBackground (hx : exec c s = .next (s.privilegedBackground i p op f)) (h : s.serves p op)
    (hp : Path.privileged p = true) (hq : Path.backgrounds p = true) (hb : (s.arrives p).backgroundBusy (Path.carrier p) = false)
    (hf : f ((s.arrives p).startBackground p op) = (t, none)) : Begins c p op s t := by
  rw [Begins, hx, State.privilegedBackground_begins h hp hq hb i f (by rw [hf]), hf]

end Background

/-- Settles O13: the two queries by their payloads, each background command by the block or the range it takes, and the policy by its
ranges (R59, R61, R88, R91, R93, R94). -/
theorem translationCommands : Obligations.TranslationCommands := by
  intro s p a
  refine ⟨?_, fun h => ?_, ?_, ?_, ?_⟩
  · rintro kind addr c ⟨h, hc⟩
    refine answers_of_arrive rfl h (by rw [State.namedCourse_of_toOption hc]) ?_
    simp [Fields, fieldLe_append_right]
  · refine answers_of_arrive rfl h rfl ?_
    simp [Fields, fieldLe_append_right]
  · rintro block ⟨h, hp, hq, hb, hblock, hassigned⟩
    exact begins_of_privilegedBackground rfl h hp hq hb ((if_neg (Nat.not_le.2 hblock)).trans (if_neg hassigned))
  · rintro dpa courses b blocks d ⟨h, hp, hb, hrange, hwalks, hleft⟩
    refine begins_of_background rfl h hp hb ?_
    exact (if_neg (by simpa using hrange)).trans ((if_neg (ne_true_of_eq_false hwalks)).trans (if_neg hleft))
  · rintro low victim share ⟨h, hp, hlow, hlow', hvictim, hvictim', hshare, hshare'⟩
    exact exec_of_arrive rfl h ((if_pos hp).trans (if_neg (by omega)))

end Sys2Proof.Machine
end

section
/-! Tile coding: the zig-zag map of a residue (R102), and the tile coding commands (R114, R115, R126, R127, R371). -/

namespace Sys2Proof.TileCode

/-! ## The zig-zag map -/

/-- The arithmetic shift by all places but one spreads the sign bit (R102). -/
theorem sshiftRight_width_sub_one {E : Nat} (r : BitVec E) :
    r.sshiftRight (E - 1) = if r.msb then BitVec.allOnes E else 0#E := by
  apply BitVec.eq_of_getLsbD_eq
  intro i hi
  have hsign : (r.sshiftRight (E - 1)).getLsbD i = r.msb := by
    rw [BitVec.getLsbD_sshiftRight, BitVec.msb_eq_getLsbD_last]
    split
    · rw [show E - 1 + i = E - 1 by omega]
      simp [hi]
    · simp [hi]
  rw [hsign]
  cases r.msb <;> simp [hi]

/-- Minus the lowest bit spreads that bit (R102). -/
theorem neg_and_one {E : Nat} (z : BitVec E) (hE : 1 ≤ E) :
    -(z &&& 1#E) = if z.toNat % 2 = 0 then 0#E else BitVec.allOnes E := by
  have hbit : z &&& 1#E = BitVec.ofNat E (z.toNat % 2) := by
    apply BitVec.eq_of_toNat_eq
    rw [BitVec.toNat_and, BitVec.toNat_ofNat, Nat.one_mod_two_pow hE, Nat.and_one_is_mod, BitVec.toNat_ofNat, Nat.mod_mod_of_dvd']
    exact Nat.pow_dvd_pow 2 hE
  rw [hbit]
  rcases Nat.mod_two_eq_zero_or_one z.toNat with heven | hodd
  · simp [heven]
  · simp [hodd, BitVec.neg_one_eq_allOnes]

theorem zigzag_of_lt {E r : Nat} (h : r < 2 ^ (E - 1)) : zigzag E r = 2 * r := if_pos h
theorem zigzag_of_le {E r : Nat} (h : 2 ^ (E - 1) ≤ r) : zigzag E r = 2 * (2 ^ E - r) - 1 := if_neg (Nat.not_lt.2 h)
theorem unzigzag_of_even {E z : Nat} (h : z % 2 = 0) : unzigzag E z = z / 2 := if_pos h
theorem unzigzag_of_odd {E z : Nat} (h : z % 2 = 1) : unzigzag E z = 2 ^ E - (z + 1) / 2 := if_neg (by omega)

/-- The map on numbers is the map on bits: a residue with its sign bit clear is doubled, one with it set is doubled and complemented. -/
theorem zigzag_eq_toNat {E : Nat} (r : BitVec E) (hE : 1 ≤ E) :
    zigzag E r.toNat = ((r <<< 1) ^^^ r.sshiftRight (E - 1)).toNat := by
  have hpow := Nat.two_pow_pred_mul_two hE
  have hr := r.isLt
  rw [sshiftRight_width_sub_one]
  cases hsign : r.msb with
  | false =>
    have hlow : r.toNat < 2 ^ (E - 1) := by simpa [BitVec.msb_eq_decide] using hsign
    have hdouble : 2 * r.toNat % 2 ^ E = 2 * r.toNat := Nat.mod_eq_of_lt (by omega)
    simp [zigzag_of_lt hlow, Nat.shiftLeft_eq, Nat.mul_comm _ 2, hdouble]
  | true =>
    have hhigh : 2 ^ (E - 1) ≤ r.toNat := by simpa [BitVec.msb_eq_decide] using hsign
    have hdouble : 2 * r.toNat % 2 ^ E = 2 * r.toNat - 2 ^ E := by
      rw [Nat.mod_eq_sub_mod (by omega), Nat.mod_eq_of_lt (by omega)]
    rw [zigzag_of_le hhigh, if_pos rfl, BitVec.xor_allOnes, BitVec.toNat_not, BitVec.toNat_shiftLeft, Nat.shiftLeft_eq, Nat.pow_one,
      Nat.mul_comm r.toNat, hdouble]
    omega

theorem unzigzag_lt {E z : Nat} (hz : z < 2 ^ E) : unzigzag E z < 2 ^ E := by
  rcases Nat.mod_two_eq_zero_or_one z with heven | hodd
  · rw [unzigzag_of_even heven]; omega
  · rw [unzigzag_of_odd hodd]; omega

/-- The inverse on numbers is the inverse on bits: an even `z` is halved, an odd one is halved and complemented. -/
theorem unzigzag_eq_toNat {E : Nat} (z : BitVec E) (hE : 1 ≤ E) :
    unzigzag E z.toNat = ((z >>> 1) ^^^ (-(z &&& 1#E))).toNat := by
  rw [neg_and_one z hE]
  rcases Nat.mod_two_eq_zero_or_one z.toNat with heven | hodd
  · rw [unzigzag_of_even heven, if_pos heven]
    simp [Nat.shiftRight_eq_div_pow]
  · rw [unzigzag_of_odd hodd, if_neg (by omega), BitVec.xor_allOnes, BitVec.toNat_not, BitVec.toNat_ushiftRight,
      Nat.shiftRight_eq_div_pow]
    omega

/-- Residues below the half go to the even numbers, the others to the odd ones, and the inverse tells them apart by that. -/
theorem unzigzag_zigzag {E r : Nat} (hr : r < 2 ^ E) : unzigzag E (zigzag E r) = r := by
  rcases Nat.lt_or_ge r (2 ^ (E - 1)) with hlow | hhigh
  · rw [zigzag_of_lt hlow, unzigzag_of_even (by omega)]
    omega
  · rw [zigzag_of_le hhigh, unzigzag_of_odd (by omega)]
    omega

theorem zigzag_unzigzag {E z : Nat} (hE : 1 ≤ E) (hz : z < 2 ^ E) : zigzag E (unzigzag E z) = z := by
  have hpow := Nat.two_pow_pred_mul_two hE
  rcases Nat.mod_two_eq_zero_or_one z with heven | hodd
  · rw [unzigzag_of_even heven, zigzag_of_lt (by omega)]
    omega
  · rw [unzigzag_of_odd hodd, zigzag_of_le (by omega)]
    omega

/-- Settles O57: the maps on numbers are those on bits, and undo each other below `2 ^ E`, where the remainders change nothing (R102). -/
theorem zigZagMaps : Obligations.ZigZagMaps := by
  intro E r hE
  have hr := r.isLt
  rw [Nat.mod_eq_of_lt (unzigzag_lt hr), unzigzag_zigzag hr, Nat.mod_eq_of_lt hr]
  exact ⟨zigzag_eq_toNat r hE, unzigzag_eq_toNat r hE, rfl, zigzag_unzigzag hE hr⟩

end Sys2Proof.TileCode

namespace Sys2Proof.Machine

/-! ## The tile coding commands -/

/-- A tile of a raw course is in the plain form, a line to a slot (R119). -/
theorem Batten.plainForm_of_raw {b : Batten} (h : b.tier = .raw) (t : Nat) : b.plainForm t = true := by
  simp [Batten.plainForm, h]

/-- Settles O18: the counters and a Phioz entry by their payloads, each setting by its path and its range, and a tile's form by the
tier of its course (R114, R115, R126, R127, R371). -/
theorem tileCodingCommands : Obligations.TileCodingCommands := by
  intro s p a
  refine ⟨fun b => ⟨rfl, rfl⟩, fun h => ?_, ?_, ?_, ?_, ?_, ?_, ?_⟩
  · refine answers_of_arrive rfl h rfl ?_
    simp [fieldLe_append_right]
  · rintro w ⟨h, hp⟩
    exact exec_of_arrive rfl h (if_pos hp)
  · rintro e dpa n ⟨h, he⟩
    exact exec_of_arrive rfl h ((if_neg (by simp [he])).trans (if_pos rfl))
  · rintro e dpa n ⟨h, he, hrange, hapart⟩ claimed
    have hmeets : ((List.range 8).any fun i => i != e.toNat && (a.phiozRange (a.issuing p) i).overlaps dpa.toNat n.toNat) = false := by
      simpa using hapart
    refine exec_of_arrive rfl h ((if_neg (by simp [he])).trans ((if_neg (by decide)).trans
      ((if_neg (by simpa using hrange)).trans ((if_neg (ne_true_of_eq_false hmeets)).trans ?_))))
    simp [b2n, claimed, a]
  · rintro e ⟨h, he⟩
    refine answers_of_arrive rfl h (if_neg (Nat.not_le.2 he)) ?_
    simp [Fields, fieldLe_append_right, b2n]
  · rintro ctx allow ⟨h, hp, hallow⟩
    exact exec_of_arrive rfl h ((if_pos hp).trans (if_neg (Nat.not_le.2 hallow)))
  · rintro tile addr c tier form ⟨h, hc, htier, hform⟩ t
    have ht : ¬16 ≤ t := by omega
    refine exec_of_arrive rfl h ?_
    rw [show (0 : BitVec 8).toNat = 0 from rfl, State.namedCourse_of_toOption hc]
    simp only [a] at htier
    simp only [List.mem_cons, Prod.mk.injEq, List.not_mem_nil, or_false] at hform
    obtain ⟨rfl, rfl⟩ | ⟨rfl, rfl⟩ | ⟨rfl, rfl⟩ := hform
    · simp [ht, htier, a, t]
    · simp [ht, htier, Batten.plainForm_of_raw htier, a, t]
    · simp [ht, htier, a, t]

end Sys2Proof.Machine
end

section
/-! The placement scan, thatching and the thresholds (R140 to R142, R147, R152 to R154, R418, R514). -/

namespace Sys2Proof.Machine

/-! ## The placement scan -/

/-- A walk over the bound blocks stays at its place where that place's block is bound; else it moves up to the first course of a
bound block further on (R152). -/
theorem State.boundFrom_some {s : State} {c d : Nat} (h : s.boundFrom d = some c) :
    (c = d ∧ (s.dirOf (d / blockCourses)).st = .bound) ∨ (d < c ∧ ∃ e ∈ s.xlat.dir, e.2.st = .bound ∧ c = e.1 * blockCourses) := by
  by_cases hbound : (s.dirOf (d / blockCourses)).st = .bound
  · rw [State.boundFrom, if_pos hbound] at h
    exact .inl ⟨(Option.some.inj h).symm, hbound⟩
  · rw [State.boundFrom, if_neg hbound] at h
    cases hfind : s.xlat.dir.find? fun e => decide (d / blockCourses < e.1) && e.2.st == .bound with
    | none => simp [hfind] at h
    | some e =>
      obtain rfl : e.1 * blockCourses = c := by simpa [hfind] using h
      obtain ⟨hlater, hst⟩ : d / blockCourses < e.1 ∧ e.2.st = .bound := by simpa using List.find?_some hfind
      exact .inr ⟨(Nat.div_lt_iff_lt_mul (by decide)).1 hlater, e, List.mem_of_find?_eq_some hfind, hst, rfl⟩

/-- The scan stands still while the hub does not run (R418). -/
theorem exec_placementScanVisit_of_halted {s : State} (hhub : s.hubRuns = false) : exec .placementScanVisit s = .next s :=
  if_pos (by simp [hhub])

section Scan
variable {s : State} {c : Nat} (hhub : s.hubRuns = true)
include hhub

/-- Within a lap the scan visits the next bound course and moves on past it (R152). -/
theorem exec_placementScanVisit_of_some (hnext : s.boundFrom s.place.scan = some c) :
    exec .placementScanVisit s = .next ((s.visit c).onPlace fun p => { p with scan := c + 1 }) := by
  change execPlacementScanVisit s = _
  simp [execPlacementScanVisit, hhub, hnext]

/-- Past the last bound course the lap ends, and the next one begins at the lowest bound course (R152). -/
theorem exec_placementScanVisit_of_none (hnext : s.boundFrom s.place.scan = none) (hfirst : s.boundFrom 0 = some c) :
    exec .placementScanVisit s =
      .next (((s.onPlace fun p => { p with lapMs := msOf (s.clock - p.lapStart), lapStart := s.clock }).visit c).onPlace
        fun p => { p with scan := c + 1 }) := by
  let lapEnd := s.onPlace fun p => { p with lapMs := msOf (s.clock - p.lapStart), lapStart := s.clock }
  have hfirst' : lapEnd.boundFrom 0 = some c := hfirst
  change execPlacementScanVisit s = _
  simp [execPlacementScanVisit, hhub, hnext, lapEnd, hfirst']

end Scan

/-- A visit leaves an absent course as it is; at most its table slot was read, to learn that it is absent (R152). -/
theorem State.visit_of_absent (s : State) (c : Nat) :
    let t := if (s.cachedBatten c).isSome then s else s.readTableSlot c 0
    (t.view c).tier = .absent → s.visit c = t :=
  fun habsent => if_pos habsent

/-- A course that is there has its heat halved before the rules look at it (R152, R153). -/
theorem State.visit_of_claimed (s : State) (c : Nat) :
    let t := if (s.cachedBatten c).isSome then s else s.readTableSlot c 0
    (t.view c).tier ≠ .absent →
      let u := t.commitHeat c fun b => { b with heat := b.heat / 2 }
      s.visit c = match u.scanAction c (u.view c) with
        | .none => u
        | .queue k => u.onPlace fun p => { p with recodes := Sparse.insert p.recodes c k }
        | .addBundle => u.addBundle (c - 3) :=
  fun hclaimed => if_neg hclaimed

/-- Settles O14: the scan by what `boundFrom` finds from its place, the walk's order, and a visit by whether the course is absent
(R152, R153). -/
theorem placementScan : Obligations.PlacementScan := by
  intro s
  refine ⟨exec_placementScanVisit_of_halted, ?_, ?_, fun c d => State.boundFrom_some, fun c => ⟨s.visit_of_absent c, s.visit_of_claimed c⟩⟩
  · intro c hhub hnext
    exact exec_placementScanVisit_of_some hhub hnext
  · intro c hhub hnext hfirst
    exact exec_placementScanVisit_of_none hhub hnext hfirst

/-! ## The thresholds -/

/-- Physical use is over a share of usable physical capacity (R154). -/
theorem State.occupied_iff (s : State) (percent : Nat) : s.occupied percent = true ↔ percent * s.pressureCapacity < s.inUse * 100 :=
  decide_eq_true_iff

/-- Under pressure the thresholds follow the stage alone (R154, R157). -/
theorem State.adjusted_of_stage {s : State} (ft : Nat) (hstage : 1 ≤ s.place.stage) :
    s.adjusted ft = (min (s.place.cold + 4) 127, 127) :=
  if_pos hstage

section Calm
variable {s : State} {ft : Nat} (hcalm : s.place.stage = 0)
include hcalm

theorem State.adjusted_of_touches (hover : s.place.policy.ftTarget < ft) :
    s.adjusted ft = (s.place.cold - 1, max (s.place.rawMark - 4) s.place.policy.rawMin) :=
  (if_neg (by omega)).trans (if_pos hover)

/-- At stage 0 with first touches within their target, occupancy alone decides (R154). -/
theorem State.adjusted_of_occupancy (hft : ft ≤ s.place.policy.ftTarget) :
    s.adjusted ft =
      if s.occupied s.place.policy.occupancy then (min (s.place.cold + 1) s.place.policy.coldMax, min (s.place.rawMark + 4) 127)
      else if s.inUse * 100 < (s.place.policy.occupancy - 5) * s.pressureCapacity then
        (s.place.cold - 1, max (s.place.rawMark - 4) s.place.policy.rawMin)
      else (s.place.cold, s.place.rawMark) :=
  (if_neg (by omega)).trans (if_neg (Nat.not_lt.2 hft))

end Calm

/-- Settles O16: pressure first, then first touches, then occupancy over its target, 5 points under it, or between (R154). -/
theorem thresholdRule : Obligations.ThresholdRule := by
  intro s ft p cold raw
  have hwithin (huse : s.inUse * 100 ≤ p.occupancy * s.pressureCapacity) : ¬s.occupied p.occupancy = true :=
    fun hover => Nat.not_lt.2 huse ((s.occupied_iff _).1 hover)
  refine ⟨State.adjusted_of_stage ft, State.adjusted_of_touches, ?_, ?_, ?_⟩
  · intro hcalm hft hover
    rw [State.adjusted_of_occupancy hcalm hft, if_pos ((s.occupied_iff _).2 hover)]
  · intro hcalm hft huse hunder
    rw [State.adjusted_of_occupancy hcalm hft, if_neg (hwithin huse), if_pos hunder]
  · intro hcalm hft huse hnear
    rw [State.adjusted_of_occupancy hcalm hft, if_neg (hwithin huse), if_neg (Nat.not_lt.2 hnear)]

/-! ## Thatch engines, controller jobs, re-codes and the adjustment -/

/-- A controller job runs again once what stopped it has cleared: Watch (reason 5) or the want of stripe laths (reason 6) (R140). -/
theorem exec_thatchJobAutoResume_of_cleared {s : State} {j : BitVec 10} (hcontroller : (s.job j.toNat).controller = true)
    (hstopped : (s.job j.toNat).st = .stopped)
    (hclear : ((s.job j.toNat).reason = 5 ∧ s.eaves.st = .active) ∨ ((s.job j.toNat).reason = 6 ∧ s.canStripe = true)) :
    exec (.thatchJobAutoResume j) s = .next (s.resumeJob j.toNat 0) := by
  have hcleared : ((s.job j.toNat).reason == 5 && s.eaves.st == .active || (s.job j.toNat).reason == 6 && s.canStripe) = true := by
    simpa using hclear
  exact congrArg _ (if_pos (by simp [hcontroller, hstopped, hcleared]))

/-- Settles O15: each command takes the branch whose gates its hypotheses open (R140 to R142, R147, R153, R154, R418, R514). -/
theorem placementAndThatching : Obligations.PlacementAndThatching := by
  intro s
  refine ⟨?_, fun e => ⟨rfl, rfl⟩, ?_, ?_, ?_, ?_⟩
  · rintro e ⟨hstrong, hhub, hcool⟩
    exact congrArg _ (if_pos (by simp [hstrong, hhub, hcool]))
  · rintro j ⟨hcontroller, hstopped, hclear⟩
    exact exec_thatchJobAutoResume_of_cleared hcontroller hstopped hclear
  · intro c hhub
    exact congrArg _ (if_pos hhub)
  · rintro ⟨hhub, hunpaused⟩
    exact congrArg _ ((if_neg (by simp [hhub])).trans (if_neg (by simp [hunpaused])))
  · rintro ⟨hhub, hpaused⟩
    exact congrArg _ ((if_neg (by simp [hhub])).trans (if_pos hpaused))

end Sys2Proof.Machine
end

section
/-! The tile cache commands (R166, R181, R182, R190). -/

namespace Sys2Proof.Machine

/-- Settles O19: the counters by their payload, an invalidation by its kind, the policy by its enable, and a set by its number (R166,
R181, R182, R190). -/
theorem tileCacheCommands : Obligations.TileCacheCommands := by
  intro s p a
  refine ⟨fun h => ?_, ?_, ?_, ?_, ?_⟩
  · refine answers_of_arrive rfl h rfl ?_
    simp [Fields, fieldLe_append_right, b2n]
  · rintro start n ⟨h, hp⟩ r
    have hkind : ¬2 < (2 : BitVec 8).toNat := by decide
    exact exec_of_arrive rfl h ((if_neg hkind).trans ((if_neg (by simp [hp])).trans (if_pos rfl)))
  · rintro start n ⟨h, hrange⟩ r
    have hkind : ¬2 < (0 : BitVec 8).toNat := by decide
    exact exec_of_arrive rfl h ((if_neg hkind).trans ((if_neg (by simp)).trans ((if_neg (by decide)).trans ((if_neg (by decide)).trans
      (if_neg (by simpa using hrange))))))
  · rintro m ⟨h, hp⟩
    exact ⟨exec_of_arrive rfl h (if_pos hp), exec_of_arrive rfl h (if_pos hp)⟩
  · rintro set ⟨h, hp, hset⟩
    exact answers_of_arrive rfl h ((if_pos hp).trans (if_neg (Nat.not_le.2 hset))) rfl

end Sys2Proof.Machine
end

section
/-! What a packet does that lands on a rafter port (R223, R326, R331, R336 to R338, R342, R378). -/

namespace Sys2Proof.Machine

/-! ## Landing -/

/-- The rows of the packets that land without a sync's counts: they differ in their names alone. -/
def landingRows (port : RaftPort) (packet : List Byte) : List Instr :=
  [.forwardedPacketLanded port packet, .readRequestPacket port packet, .writeRequestPacket port packet, .readResponsePacket port packet,
    .writeCompletionPacket port packet, .ackPacket port packet, .rafterMailboxRequest port packet, .rafterMailboxReply port packet]

theorem exec_of_mem_landingRows {port : RaftPort} {packet : List Byte} {c : Instr} (hc : c ∈ landingRows port packet) (s : State) :
    exec c s = .next (s.arrivePacket port none packet) := by
  simp only [landingRows, List.mem_cons, List.not_mem_nil, or_false] at hc
  obtain rfl | rfl | rfl | rfl | rfl | rfl | rfl | rfl := hc <;> rfl

/-- A packet that brings no mailbox message ends with its landing. -/
theorem State.arrivePacket_of_quiet {s t : State} {port : RaftPort} {iv : Option SyncIv} {packet : List Byte}
    (h : s.land port.toNat iv packet = (t, none)) : s.arrivePacket port iv packet = t := by
  simp only [State.arrivePacket, h]

/-- A mailbox or control message acts after its packet's landing (R378). -/
theorem State.arrivePacket_of_message {s t : State} {port : RaftPort} {iv : Option SyncIv} {packet : List Byte} {m : Message}
    (h : s.land port.toNat iv packet = (t, some m)) : s.arrivePacket port iv packet = t.takeMessage m := by
  simp only [State.arrivePacket, h]

section Landing
variable {s : State} {p : Nat} (iv : Option SyncIv) {packet : List Byte}
  (hport : s.awake = true ∧ s.hopUp p = true ∧ (s.rport p).foreign = false)
include hport

/-- A header whose check fails is drop reason 1 (R326). -/
theorem State.land_of_bad_header (hbad : headerOk packet = false) :
    s.land p iv packet = ((s.countBytes (2 + p) packet.length 0).dropPacket p 1, none) := by
  obtain ⟨hawake, hup, hours⟩ := hport
  simp [State.land, hawake, hup, hours, hbad]

variable (hheader : headerOk packet = true) (hkind : kindOk (Header.ofBytes packet).kind = true)
include hheader hkind

/-- A destination outside the cascade map is drop reason 2 (R326). -/
theorem State.land_of_unknown (hnone : Sparse.find (s.countBytes (2 + p) packet.length 0).casc.map.members (Header.ofBytes packet).dst = none) :
    s.land p iv packet = ((s.countBytes (2 + p) packet.length 0).dropPacket p 2, none) := by
  obtain ⟨hawake, hup, hours⟩ := hport
  simp [State.land, hawake, hup, hours, hheader, hkind, hnone]

variable (hmember : (Sparse.find (s.countBytes (2 + p) packet.length 0).casc.map.members (Header.ofBytes packet).dst).isSome = true)
include hmember

/-- A packet for a member with no hops left is drop reason 3 (R326). -/
theorem State.land_of_spent (hspent : (Header.ofBytes packet).hops = 0) :
    s.land p iv packet = ((s.countBytes (2 + p) packet.length 0).dropPacket p 3, none) := by
  obtain ⟨hawake, hup, hours⟩ := hport
  have hknown := Option.isNone_eq_false_iff.2 hmember
  simp [State.land, hawake, hup, hours, hheader, hkind, hknown, hspent]

variable (hhops : (Header.ofBytes packet).hops ≠ 0)
include hhops

/-- A packet for another member goes to that member's egress (R326, R327). -/
theorem State.land_of_other (hother : (Header.ofBytes packet).dst ≠ (s.countBytes (2 + p) packet.length 0).me) :
    s.land p iv packet = ((s.countBytes (2 + p) packet.length 0).forward p packet, none) := by
  obtain ⟨hawake, hup, hours⟩ := hport
  have hknown := Option.isNone_eq_false_iff.2 hmember
  simp [State.land, hawake, hup, hours, hheader, hkind, hknown, hhops, hother]

/-- A packet for this sled goes to its transport layer (R326). -/
theorem State.land_of_mine (hmine : (Header.ofBytes packet).dst = (s.countBytes (2 + p) packet.length 0).me) :
    s.land p iv packet = (s.countBytes (2 + p) packet.length 0).receive iv packet := by
  obtain ⟨hawake, hup, hours⟩ := hport
  have hknown := Option.isNone_eq_false_iff.2 hmember
  simp [State.land, hawake, hup, hours, hheader, hkind, hknown, hhops, ← hmine]

end Landing

/-! ## The transport layer -/

section Receive
variable {s b : State} {packet : List Byte}

/-- An ack packet acts on its pair, and alone leaves Drowse as it is (R337, R419). -/
theorem State.receive_ack (iv : Option SyncIv) (hkind : (Header.ofBytes packet).kind = 5) :
    s.receive iv packet = (s.takeAck (Header.ofBytes packet) packet, none) := by
  simp [State.receive, hkind]

/-- A pair sync ends Drowse and acts on its pair (R342, R419). -/
theorem State.receive_sync (iv : SyncIv) (hkind : (Header.ofBytes packet).kind = 7) :
    s.receive (some iv) packet = ((s.wakeDrowse 3).takeSync (Header.ofBytes packet) iv packet, none) := by
  simp [State.receive, hkind]

/-- What the payload of a packet opens to under its pair's epoch and wraps, as they stood before the packet was taken (R220, R336). -/
def State.opened (s b : State) (packet : List Byte) : Option (List Byte) :=
  let w := (s.wakeDrowse 3).peer (Header.ofBytes packet).src
  b.openPacket (Header.ofBytes packet) false w.recvEpoch w.recvWraps packet

variable (iv : Option SyncIv) (htaken : (s.wakeDrowse 3).takeSeq (Header.ofBytes packet).src (Header.ofBytes packet).seq = (b, true))
include htaken

/-- A request taken in sequence enters the store, its ack field acts, and its pair is settled (R331, R336). -/
theorem State.receive_request (hkind : (Header.ofBytes packet).kind = 1 ∨ (Header.ofBytes packet).kind = 2) :
    s.receive iv packet = (((b.takeRequest (Header.ofBytes packet) (s.opened b packet)).ackField (Header.ofBytes packet).src
      (Header.ofBytes packet)).settlePair (Header.ofBytes packet).src, none) := by
  obtain hkind | hkind := hkind <;> simp [State.receive, State.opened, hkind, htaken]

/-- A response taken in sequence settles the entry that waits for it (R336, R338). -/
theorem State.receive_response (hkind : (Header.ofBytes packet).kind = 3 ∨ (Header.ofBytes packet).kind = 4) :
    s.receive iv packet = (b.takeResponse (Header.ofBytes packet) (s.opened b packet), none) := by
  obtain hkind | hkind := hkind <;> simp [State.receive, State.opened, hkind, htaken]

/-- A mailbox or control packet taken in sequence hands its message on (R331, R338). -/
theorem State.receive_control (hkind : (Header.ofBytes packet).kind = 6) :
    s.receive iv packet = b.takeControl (Header.ofBytes packet) (s.opened b packet) := by
  simp [State.receive, State.opened, hkind, htaken]

end Receive

/-- Settles O30: where the packet lands by its header, and what the transport layer does by its kind (R223, R326, R331, R336 to R338,
R342, R378, R419). -/
theorem packetArrivals : Obligations.PacketArrivals := by
  intro s port packet iv hport h a Lands known mine
  have lands {t : State} (ht : s.arrivePacket port none packet = t) : Lands t := fun c hc => ht ▸ exec_of_mem_landingRows hc s
  have quiet {t : State} (ht : s.land port.toNat none packet = (t, none)) : Lands t := lands (State.arrivePacket_of_quiet ht)
  have received (i : Option SyncIv) : mine → s.land port.toNat i packet = a.receive i packet := by
    rintro ⟨⟨hheader, hkind, hmember⟩, hhops, hdst⟩
    exact State.land_of_mine i hport hheader hkind hmember hhops hdst
  refine ⟨?_, ?_, ?_, ?_, ?_, ?_, ?_⟩
  · exact fun hbad => quiet (State.land_of_bad_header none hport hbad)
  · rintro ⟨hheader, hkind, hnone⟩
    exact quiet (State.land_of_unknown none hport hheader hkind hnone)
  · rintro ⟨⟨hheader, hkind, hmember⟩, hspent⟩
    exact quiet (State.land_of_spent none hport hheader hkind hmember hspent)
  · rintro ⟨⟨hheader, hkind, hmember⟩, hhops, hother⟩
    exact quiet (State.land_of_other none hport hheader hkind hmember hhops hother)
  · rintro ⟨hmine, hack⟩
    exact quiet ((received none hmine).trans (State.receive_ack none hack))
  · rintro ⟨hmine, hsync⟩
    exact congrArg _ (State.arrivePacket_of_quiet ((received (some iv) hmine).trans (State.receive_sync iv hsync)))
  · rintro b ⟨hmine, htaken⟩ w o
    refine ⟨fun hkind => ?_, fun hkind => ?_, fun hkind => ?_⟩
    · exact quiet ((received none hmine).trans (State.receive_request none htaken hkind))
    · exact quiet ((received none hmine).trans (State.receive_response none htaken hkind))
    · have hland := (received none hmine).trans (State.receive_control none htaken hkind)
      cases hmessage : (b.takeControl h o).2 with
      | none => exact quiet (hland.trans (Prod.ext rfl hmessage))
      | some m => exact lands (State.arrivePacket_of_message (hland.trans (Prod.ext rfl hmessage)))

end Sys2Proof.Machine
end

section
/-! The flashing engine's keys and contexts (R203 to R218, R222, R226, R371, R376, R400). -/

namespace Sys2Proof.Machine

/-! ## Keys -/

/-- With FLASHING_READY set a key command runs (R400). -/
theorem State.keyed_of_ready {s : State} (h : s.ready rdyFlashing = true) (f : State → State × ReturnCode × List Byte) : s.keyed f = f s :=
  if_pos h

/-- Before FLASHING_READY a key command is Busy (R400). -/
theorem State.keyed_of_not_ready {s : State} (h : s.ready rdyFlashing = false) (f : State → State × ReturnCode × List Byte) :
    s.keyed f = refuse s .busy :=
  if_neg (ne_true_of_eq_false h)

theorem ctxToNat_eq_zero {ctx : BitVec 13} : ctx.toNat = 0 ↔ ctx = 0 :=
  BitVec.toNat_inj (y := 0)

/-- A context other than 0000h that a scope may name is one whose keys may be loaded and destroyed (R204, R218, R226). -/
theorem State.not_unnamed {s : State} {l : Option LdId} {ctx : BitVec 13} (hctx : ctx ≠ 0) (hname : s.mayName l ctx.toNat = true) :
    ¬(ctx.toNat = 0 ∨ (!s.mayName l ctx.toNat) = true) := by
  rintro (hzero | hunnamed)
  · exact hctx (ctxToNat_eq_zero.1 hzero)
  · simp [hname] at hunnamed

section Keyed
variable {c i : Instr} {p : Path} {op : Nat} {s t : State} {rc : ReturnCode} {out : List Byte}
  {f : State → State × ReturnCode × List Byte} (hx : exec c s = .next (s.command i p op fun s => s.keyed f)) (h : s.serves p op)
include hx h

theorem exec_of_keyed (hready : (s.arrives p).ready rdyFlashing = true) (hf : f (s.arrives p) = (t, rc, out)) :
    exec c s = .next (t.answered p op rc out) :=
  exec_of_arrive hx h ((State.keyed_of_ready hready f).trans hf)

theorem turnedAway_of_keyed (hready : (s.arrives p).ready rdyFlashing = false) : TurnedAway c p op s .busy :=
  exec_of_arrive hx h (State.keyed_of_not_ready hready f)

end Keyed

/-- Settles O48: each key command by FLASHING_READY and what it names, and a context's class and owner by whether they may change (R203,
R204, R206, R218, R222, R226, R371, R400). -/
theorem keyCommands : Obligations.KeyCommands := by
  intro s p a
  refine ⟨?_, ?_, ?_, ?_, ?_, ?_⟩
  · rintro key ⟨h, hready⟩ owner
    refine ⟨?_, fun hoff => ?_⟩
    · intro hcurve x
      have hon : ¬(!Crypto.onCurve (Crypto.pointOf owner)) = true := by simp [hcurve]
      exact exec_of_keyed rfl h hready (if_neg hon)
    · exact exec_of_keyed rfl h hready (if_pos (by rw [hoff, Bool.not_false]))
  · rintro ctx next wrapped ⟨h, hready⟩ x
    exact exec_of_keyed rfl h hready rfl
  · rintro ctx ⟨h, hready, hctx, hname⟩
    exact exec_of_keyed rfl h hready (if_neg (State.not_unnamed hctx hname))
  · rintro ctx b ⟨h, hp, hbusy, hready, hctx, hname⟩
    have hserves : ¬(!b.ready rdyFlashing) = true := by simp [hready]
    exact begins_of_background rfl h hp hbusy ((if_neg hserves).trans (if_neg (State.not_unnamed hctx hname)))
  · rintro key ctx next wrapped hready
    exact ⟨fun h => turnedAway_of_keyed rfl h hready, fun h => turnedAway_of_keyed rfl h hready, fun h => turnedAway_of_keyed rfl h hready⟩
  · intro hp b
    refine ⟨?_, ?_⟩
    · rintro ⟨h, hq, hbusy, hrole, hrotation, hready⟩
      have hfree : ¬(b.flash.rotation.isSome || !b.ready rdyFlashing) = true := by simp [hrotation, hready]
      exact begins_of_privilegedBackground rfl h hp hq hbusy ((if_neg (not_not_intro hrole)).trans (if_neg hfree))
    · rintro ctx cls owner ⟨h, hcls, hcourses⟩ x t
      have hstays (changes : Bool) : ¬((decide (ctx.toNat ≠ 0) && changes) = true ∧ 0 < x.courses) := by
        obtain rfl | hnone := hcourses
        · simp
        · simp [x, hnone]
      refine exec_of_arrive rfl h ((if_pos hp).trans ((if_neg (Nat.not_le.2 hcls)).trans ((if_neg (hstays _)).trans ?_)))
      simp only [ctxToNat_eq_zero]
      rfl

/-! ## Contexts -/

/-- A context reads as the change makes it, where the context table is in canonical form (R200). -/
theorem State.ctx_onCtx {s : State} (c : Nat) (f : Context → Context) (h : Sparse.wf {} s.flash.contexts = true) :
    (s.onCtx c f).ctx c = f (s.ctx c) :=
  (Sparse.get_set c c _ h).trans (if_pos rfl)

/-- The table slot of a course is read where its batten is not cached (R78). -/
def State.lookedUp (s : State) (c source : Nat) : State :=
  if (s.cachedBatten c).isSome then s else s.readTableSlot c source

/-! ## The rekey pass -/

section Rekey
variable {s : State} {r : RekeyPass} (hpass : s.flash.pass = some r)
include hpass

theorem State.rekeyStep_of_none (hend : s.boundFrom r.w = none) : s.rekeyStep = s.endRekey r := by
  simp only [State.rekeyStep, hpass, hend]

variable {c : Nat} (hnext : s.boundFrom r.w = some c)
include hnext

/-- A course that is absent or of another context is passed over (R216). -/
theorem State.rekeyStep_of_other (hother : ((s.lookedUp c 10).view c).tier = .absent ∨ ((s.lookedUp c 10).view c).ctx.toNat ≠ r.ctx) :
    s.rekeyStep = (s.lookedUp c 10).stepPass r c 0 0 := by
  simp only [State.rekeyStep, hpass, hnext]
  exact if_pos (by simpa [State.lookedUp] using hother)

variable (htier : ((s.lookedUp c 10).view c).tier ≠ .absent) (hctx : ((s.lookedUp c 10).view c).ctx.toNat = r.ctx)
include htier hctx

/-- A course under the current generation already is counted as skipped, a bundle at its first course or where a write had taken it early
(R216). -/
theorem State.rekeyStep_of_done (hgen : ((s.lookedUp c 10).view c).gen = ((s.lookedUp c 10).ctx r.ctx).cur) :
    s.rekeyStep =
      let t := s.lookedUp c 10
      let b := t.view c
      let u := if b.early then t.commit c { t.batten c with early := false } else t
      u.stepPass r c 0 (b2n (b.tier != .thatched || b.early || u.bundleLead c b)) := by
  simp only [State.rekeyStep, hpass, hnext]
  exact (if_neg (by simpa [State.lookedUp] using And.intro htier hctx)).trans (if_pos hgen)

/-- A course under the other generation is encrypted again, its bundle with it, unless a lock of theirs or a use of their run has the
pass wait (R215, R216). -/
theorem State.rekeyStep_of_due (hgen : ((s.lookedUp c 10).view c).gen ≠ ((s.lookedUp c 10).ctx r.ctx).cur) :
    s.rekeyStep =
      let t := s.lookedUp c 10
      let b := t.view c
      let cs := if b.tier = .thatched then t.bundleNamed c b else [c]
      if cs.any (fun x => t.gathered x || t.isLocked x || t.moveHolds x) || t.runBusy b.run then t
      else (foldState State.abandonMove t cs).rekeyCourse r c cs (t.ctx r.ctx).cur := by
  simp only [State.rekeyStep, hpass, hnext]
  exact (if_neg (by simpa [State.lookedUp] using And.intro htier hctx)).trans (if_neg hgen)

end Rekey

/-! ## The discard walk of a destroyed context -/

section Destroy
variable {s : State} {d : DestroyWalk} {rest : List DestroyWalk} (hwalk : s.flash.destroys = d :: rest)
include hwalk

theorem State.destroyStep_of_abort (habort : s.abortWanted d.path 0xC183 = true) : s.destroyStep = s.endDestroy d .aborted := by
  simp only [State.destroyStep, hwalk, opDestroyKey, habort, if_true]

variable (hgoes : s.abortWanted d.path 0xC183 = false)
include hgoes

theorem State.destroyStep_of_none (hend : s.boundFrom d.w = none) : s.destroyStep = s.endDestroy d .success := by
  simp [State.destroyStep, hwalk, hgoes, hend]

/-- The walk discards the course at its place where that is the context's, and ends where no bound course is left (R218, R377). -/
theorem State.destroyStep_of_some {c : Nat} (hnext : s.boundFrom d.w = some c) :
    s.destroyStep =
      let t := s.lookedUp c 11
      let u := if (t.view c).tier ≠ .absent ∧ (t.view c).ctx.toNat = d.ctx then t.discardCourse c else (t, false, false)
      let e := { d with w := c + 1, discarded := d.discarded + b2n u.2.1 }
      let x := u.1.onFlash fun f => { f with destroys := e :: rest }
      let v := x.progress d.path 0xC183 (x.boundPercent e.w)
      if v.boundFrom e.w = none then v.endDestroy e .success else v := by
  simp only [State.destroyStep, hwalk, opDestroyKey, hgoes, hnext, Bool.false_eq_true, if_false, Bool.and_eq_true, bne_iff_ne,
    beq_iff_eq, Option.isNone_iff_eq_none]
  rfl

end Destroy

/-- Settles O49: the two queries by their payloads, a rekey by the other generation, a limit by its range, and the two walks by what
`boundFrom` finds from their place and the course's batten (R212, R213, R215 to R218, R226, R377). -/
theorem contextCommands : Obligations.ContextCommands := by
  intro s p a
  refine ⟨fun h => ?_, ?_, ?_, ?_, ?_, ?_⟩
  · refine answers_of_arrive rfl h rfl ?_
    simp [fieldLe_append_right]
  · rintro ctx ⟨h, hname⟩
    refine answers_of_arrive rfl h (if_neg (by simpa using hname)) ?_
    simp [fieldLe_append_right]
  · rintro ctx x ⟨h, hready, hname, hloaded⟩
    have hnamed : ¬((!a.mayName (a.scope p) ctx.toNat) = true ∨ (x.gen x.cur).st ≠ .loaded) := by simp [hname, hloaded]
    refine ⟨fun hretiring => ?_, fun hfree => ?_⟩
    · exact exec_of_keyed rfl h hready ((if_neg hnamed).trans (if_pos hretiring))
    · exact exec_of_keyed rfl h hready ((if_neg hnamed).trans (if_neg hfree))
  · rintro ctx limit ⟨h, hname⟩
    refine ⟨?_, fun hout => ?_⟩
    · rintro ⟨hlow, hhigh⟩ c fresh t cur g marked u v w y reached
      have hin : ¬((!a.mayName (a.scope p) ctx.toNat) = true ∨ limit.toNat < 2 ^ 32 ∨ 2 ^ 40 < limit.toNat) := by
        simp only [hname, Bool.not_true, Bool.false_eq_true, false_or]
        omega
      refine ⟨fun hwf => ?_, exec_of_arrive rfl h (if_neg hin)⟩
      rw [State.ctx_onCtx c _ hwf]
    · exact exec_of_arrive rfl h (if_pos (.inr hout))
  · intro r hpass
    refine ⟨fun hend => congrArg _ (State.rekeyStep_of_none hpass hend), ?_⟩
    intro c hnext t b cur cs waits
    refine ⟨fun hother => congrArg _ (State.rekeyStep_of_other hpass hnext hother), ?_⟩
    rintro ⟨htier, hctx⟩
    exact ⟨fun hgen => congrArg _ (State.rekeyStep_of_done hpass hnext htier hctx hgen),
      fun hgen => congrArg _ (State.rekeyStep_of_due hpass hnext htier hctx hgen)⟩
  · intro d rest hwalk
    refine ⟨fun habort => congrArg _ (State.destroyStep_of_abort hwalk habort), ?_, ?_⟩
    · rintro ⟨hgoes, hend⟩
      exact congrArg _ (State.destroyStep_of_none hwalk hgoes hend)
    · rintro c ⟨hgoes, hnext⟩
      exact congrArg _ (State.destroyStep_of_some hwalk hgoes hnext)

end Sys2Proof.Machine
end

section
/-! IDE, SPDM and TSP requests (R203, R205, R219, R400, R422). -/

namespace Sys2Proof.Machine

/-- Out of a Watch exit nothing waits for its end (R422, R423). -/
theorem exec_of_afterExit {c i : Instr} {s t : State} {f : State → State} (hx : exec c s = .next (s.afterExit i f))
    (hexit : s.eaves.exiting = false) (hf : f s = t) : exec c s = .next t := by
  rw [hx, State.afterExit, if_neg (by simp [hexit]), hf]

/-- A TSP request on a port that serves, for a device that exists, is answered on its session (R205). -/
theorem State.tspAnswer_of_keyed {s : State} {ld : LdId} (hld : s.portServes (ldPort ld) = true ∧ s.ldExists ld = true) (session : BitVec 16)
    (hready : s.ready rdyFlashing = true) (f : State → State × ReturnCode × List Byte) :
    s.tspAnswer ld session f = (f s).1.emit (.tsp ld session (f s).2.1 (f s).2.2) := by
  obtain ⟨hport, hexists⟩ := hld
  simp [State.tspAnswer, hport, hexists, State.keyed_of_ready hready]

section Ide
variable {s : State} {port : HostPort} {m : List Byte} (hport : s.portServes port = true)
include hport

/-- Object 2 programs a key of the stream (R219). -/
theorem State.ideMessage_keyProg (cxl : Bool) (hobject : (m.getD 1 0).toNat = 2) :
    s.ideMessage port cxl m =
      (s.onIde port fun x => if cxl then { x with cxlKeys := putIdeKey x.cxlKeys m } else { x with pcieKeys := putIdeKey x.pcieKeys m }).emit
        (.doe port (le 1 0 ++ le 1 3 ++ slice m 2 6)) := by
  simp only [State.ideMessage, hport, hobject]
  rfl

/-- Object 4 starts the stream, object 5 stops it (R219). -/
theorem State.ideMessage_go (cxl : Bool) {v : Bool} (hobject : (m.getD 1 0).toNat = if v then 4 else 5) :
    s.ideMessage port cxl m =
      (s.onIde port fun x => if cxl then { x with cxlRunning := v } else { x with pcieRunning := v }).emit
        (.doe port (le 1 0 ++ le 1 6 ++ slice m 2 6)) := by
  cases v <;> simp only [State.ideMessage, hport, hobject] <;> rfl

end Ide

/-- Settles O50: out of a Watch exit each request acts at once, an IDE_KM message by its object, a TSP request by what it names (R203,
R205, R219, R226, R400, R422). -/
theorem secureLinksAndTsp : Obligations.SecureLinksAndTsp := by
  intro s port ld session hexit
  have acts {c i : Instr} {f : State → State} {t : State} (hx : exec c s = .next (s.afterExit i f)) : f s = t → exec c s = .next t :=
    exec_of_afterExit hx hexit
  refine ⟨?_, fun hport => ⟨fun offset length => ?_, fun m hm => ?_, fun m hm => ?_, fun m hm => ?_⟩,
    fun hld => ⟨fun op => ?_, fun hready => ⟨?_, ?_⟩⟩⟩
  · rintro ⟨hport, hruns⟩
    exact if_pos (by simp [hport, hruns])
  · exact acts rfl (if_pos hport)
  · exact ⟨acts rfl (State.ideMessage_keyProg hport true hm), acts rfl (State.ideMessage_keyProg hport false hm)⟩
  · exact ⟨acts rfl (State.ideMessage_go hport true (v := true) hm), acts rfl (State.ideMessage_go hport false (v := true) hm)⟩
  · exact ⟨acts rfl (State.ideMessage_go hport true (v := false) hm), acts rfl (State.ideMessage_go hport false (v := false) hm)⟩
  · exact acts rfl (if_neg (by simp [hld]))
  · intro ctx wrapped x
    exact ⟨acts rfl (State.tspAnswer_of_keyed hld session hready _), acts rfl (State.tspAnswer_of_keyed hld session hready _)⟩
  · rintro ctx ⟨hctx, hname⟩
    refine acts rfl ((State.tspAnswer_of_keyed hld session hready _).trans ?_)
    rw [if_neg (State.not_unnamed hctx hname)]

end Sys2Proof.Machine
end

section
/-! The messages and timers of a cascade (R222, R324, R350 to R355, R361, R364, R365). -/

namespace Sys2Proof.Machine

/-! ## Claims and announcements -/

/-- A claim heard on a hop is kept, and flooded on where it is the better one (R352). -/
def State.heedClaim (s : State) (claim : Claim) (better : Bool) : State :=
  let t := s.onCasc fun c => { c with
    claims := (c.claims.filter fun x => x.id != claim.id) ++ [claim]
    highest := max c.highest claim.term.toNat
    best := if better then some claim else c.best }
  if better then t.emit (.control none (.claim claim)) else t

/-- The best claim known to a sled outside every cascade and its own, the better of the two (R352). -/
def State.bestKnown (s : State) : Option Claim :=
  match s.casc.best, s.ownClaim with
  | some b, some o => some (if betterClaim b o then b else o)
  | some b, none => some b
  | none, o => o

/-- A claim on a hop that is up is heeded as it compares with the best known, once a ridge of a lower term has given up its role (R352,
R353). -/
theorem exec_ridgeClaimMessage_of_up {s : State} {port : RaftPort} (claim : Claim) (hhop : s.awake = true ∧ s.hopUp port.toNat = true) :
    exec (.ridgeClaimMessage port claim) s =
      let t := if s.casc.role = .ridge ∧ s.casc.term < claim.term.toNat then s.stepDown else s
      .next (t.heedClaim claim (t.bestKnown.all (betterClaim claim))) := by
  obtain ⟨hawake, hup⟩ := hhop
  have hbetter (best : Option Claim) : (match best with | some b => betterClaim claim b | none => true) = best.all (betterClaim claim) := by
    cases best <;> rfl
  have hhears : ¬(!s.awake || !s.hopUp port.toNat) = true := by simp [hawake, hup]
  exact (if_neg hhears).trans (congrArg (fun better => Host.Outcome.next (State.heedClaim _ claim better)) (hbetter (State.bestKnown _)))

section Timeout
variable {s : State} (halone : s.casc.joined = false ∧ s.anyHop = true)
include halone

/-- A sled whose own claim is the best takes the ridge role (R352). -/
theorem exec_ridgeClaimTimeout_of_own {o : Claim} (hown : s.ownClaim = some o) (hbest : ∀ b, s.casc.best = some b → betterClaim b o = false) :
    exec .ridgeClaimTimeout s = .next (s.becomeRidge o.id.toNat) := by
  obtain ⟨hjoined, hhop⟩ := halone
  change execRidgeClaimTimeout s = _
  cases hheard : s.casc.best with
  | none => simp [execRidgeClaimTimeout, hjoined, hhop, hown, hheard, done]
  | some b => simp [execRidgeClaimTimeout, hjoined, hhop, hown, hheard, hbest b hheard, done]

/-- A sled that has heard a claim better than its own asks that claimant to join (R352, R355). -/
theorem exec_ridgeClaimTimeout_of_heard {b : Claim} (hheard : s.casc.best = some b) (hbest : ∀ o, s.ownClaim = some o → betterClaim b o = true) :
    exec .ridgeClaimTimeout s = .next (s.askJoin b.id) := by
  obtain ⟨hjoined, hhop⟩ := halone
  change execRidgeClaimTimeout s = _
  cases hown : s.ownClaim with
  | none => simp [execRidgeClaimTimeout, hjoined, hhop, hown, hheard, done]
  | some o => simp [execRidgeClaimTimeout, hjoined, hhop, hown, hheard, hbest o hown, done]

end Timeout

/-- The best claim of a sled outside every cascade as an announcement leaves it: one of no lower term takes its place (R352, R353). -/
def announced (src : SledId) (term : BitVec 32) (best : Option Claim) : Claim :=
  match best with
  | some b => if b.term.toNat ≤ term.toNat then { b with term, id := src } else b
  | none => { term, id := src }

/-- A sled that an announcement of a term finds: it has given up the role of a lower term, and knows the term (R353). -/
def State.metTerm (s : State) (term : BitVec 32) : State :=
  (if s.casc.term < term.toNat then s.stepDown else s).onCasc fun c => { c with highest := max c.highest term.toNat }

section Announce
variable {s : State} {src : SledId} {term : BitVec 32} (deputy : Option SledId) (hterm : s.casc.highest ≤ term.toNat)
include hterm

/-- An announcement of a higher term that names the deputy itself hands it the role (R384). -/
theorem exec_ridgeTermAnnounce_of_handed (hhanded : s.casc.role = .deputy ∧ src = s.casc.sledId ∧ s.casc.term < term.toNat) :
    exec (.ridgeTermAnnounce src term deputy) s = .next (s.takeRole term.toNat) :=
  (if_neg (Nat.not_lt.2 hterm)).trans (if_pos hhanded)

variable (hkept : ¬(s.casc.role = .deputy ∧ src = s.casc.sledId ∧ s.casc.term < term.toNat))
include hkept

/-- A member follows the ridge announced (R353). -/
theorem exec_ridgeTermAnnounce_of_member (hjoined : (s.metTerm term).casc.joined = true) :
    exec (.ridgeTermAnnounce src term deputy) s =
      let u := (s.metTerm term).onCasc fun c => { c with
        ridge := src, term := term.toNat, deputy
        role := if c.role = .ridge then .ridge else if deputy = some c.sledId then .deputy else .member }
      .next (if s.casc.ridge ≠ src then u.ridgeChanged (if s.casc.deputy = some src then 2 else 1) else u) :=
  (if_neg (Nat.not_lt.2 hterm)).trans ((if_neg hkept).trans (if_neg (by simpa [State.metTerm] using hjoined)))

/-- A sled outside every cascade takes the announcement for a claim (R352, R353). -/
theorem exec_ridgeTermAnnounce_of_alone (halone : (s.metTerm term).casc.joined = false) :
    exec (.ridgeTermAnnounce src term deputy) s =
      .next ((s.metTerm term).onCasc fun c => { c with best := some (announced src term c.best) }) := by
  have hclaim (best : Option Claim) :
      (match best with
        | some b => if b.term.toNat ≤ term.toNat then some { b with term, id := src } else some b
        | none => some { term, id := src }) = some (announced src term best) := by
    cases best with
    | none => rfl
    | some b => exact (apply_ite some ..).symm
  exact (if_neg (Nat.not_lt.2 hterm)).trans ((if_neg hkept).trans ((if_pos (by simpa [State.metTerm] using halone)).trans
    (congrArg (fun best => Host.Outcome.next ((s.metTerm term).onCasc fun c => { c with best })) (hclaim (s.metTerm term).casc.best))))

end Announce

/-! ## Link keys at a member -/

section LinkKey
variable {s : State} {src : SledId} (keyId : BitVec 2) (hmember : s.casc.joined = true ∧ s.casc.role ≠ .ridge ∧ src = s.casc.ridge)
include hmember

/-- A key that the member's wrapping key opens is taken and confirmed (R222). -/
theorem exec_linkKeyConfirmation_of_key (stopped : Bool) {wrapped key : List Byte} (hwrapped : wrapped ≠ [])
    (hkey : ((s.wrapKey (.member src)).bind fun k => Crypto.keyUnwrap k wrapped) = some key) :
    exec (.linkKeyConfirmation src keyId stopped wrapped) s =
      .next ((s.onFlash fun f => { f with linkKeys := Sparse.set [] f.linkKeys keyId.toNat key }).emit
        (.control (some src) (.linkKeyConfirm keyId false))) := by
  obtain ⟨hjoined, hrole, rfl⟩ := hmember
  change execLinkKeyConfirmation s.casc.ridge keyId stopped wrapped s = _
  simp [execLinkKeyConfirmation, hrole, hjoined, hwrapped, hkey, done]

/-- Without a key the ridge withdraws the old one, or has the senders switch (R222). -/
theorem exec_linkKeyConfirmation_of_empty (stopped : Bool) :
    exec (.linkKeyConfirmation src keyId stopped []) s =
      .next (if stopped then s.onFlash fun f => { f with linkKeys := Sparse.erase f.linkKeys (keyId - 1).toNat }
        else ((s.onFlash fun f => { f with linkId := keyId }).onLink fun l => { l with sealedCount := 0 }).emit
          (.control (some src) (.linkKeyConfirm keyId true))) := by
  obtain ⟨hjoined, hrole, rfl⟩ := hmember
  refine (if_neg hrole).trans ((if_neg (by simp [hjoined])).trans ?_)
  cases stopped <;> rfl

end LinkKey

/-- Settles O51: each message and timer takes the branch of the role, term, hop or range that its hypotheses name (R222, R324, R350 to
R355, R361, R364, R365, R384). -/
theorem cascadeMessages : Obligations.CascadeMessages := by
  intro s
  refine ⟨?_, ?_, ?_, ?_, ?_, ?_, ?_, ?_, ?_, ?_, ?_, ?_, ?_, ?_, ?_, ?_, ?_⟩
  · exact fun port claim hhop => exec_ridgeClaimMessage_of_up claim hhop
  · intro halone
    refine ⟨?_, ?_⟩
    · rintro o ⟨hown, hbest⟩
      exact exec_ridgeClaimTimeout_of_own halone hown hbest
    · rintro b ⟨hheard, hbest⟩
      exact exec_ridgeClaimTimeout_of_heard halone hheard hbest
  · rintro d ⟨hrole, hdeputy⟩
    change execHeartbeatSend s = _
    simp only [execHeartbeatSend, hrole, hdeputy, done]
  · exact fun src term => rfl
  · exact fun hrole => congrArg _ (if_neg (not_not_intro hrole))
  · intro src term deputy hterm handed t u
    refine ⟨exec_ridgeTermAnnounce_of_handed deputy hterm, ?_, ?_⟩
    · rintro ⟨hkept, hjoined⟩
      exact exec_ridgeTermAnnounce_of_member deputy hterm hkept hjoined
    · rintro ⟨hkept, halone⟩
      exact exec_ridgeTermAnnounce_of_alone deputy hterm hkept halone
  · exact fun src term deputy hterm => if_pos hterm
  · rintro src version ⟨hrole, hdeputy⟩
    exact congrArg _ (if_pos (by simp [hrole, hdeputy]))
  · rintro src u ⟨hjoined, hrole, hterm, hsrc⟩ t
    exact if_neg (by simp [hjoined, hrole, hterm, hsrc])
  · rintro src term neighbours routes hjoined report
    have hin : ¬(!s.casc.joined) = true := by simp [hjoined]
    refine ⟨fun hrole => (if_neg hin).trans (if_pos hrole), ?_⟩
    rintro ⟨hrole, hterm, hsrc⟩
    exact (if_neg hin).trans ((if_neg hrole).trans (if_neg (by simp [hterm, hsrc])))
  · rintro port join ⟨hawake, hup, hrole⟩
    exact congrArg _ (if_pos (by simp [hawake, hup, hrole]))
  · exact fun grant hjoined => congrArg _ (if_neg (ne_true_of_eq_false hjoined))
  · intro src member hrole
    exact ⟨congrArg _ (if_pos hrole), fun hprobed => congrArg _ (if_pos (by simp [hrole, hprobed]))⟩
  · exact fun src keyId wrapped hrole => ⟨if_pos hrole, if_pos hrole⟩
  · intro src keyId hmember
    refine ⟨?_, exec_linkKeyConfirmation_of_empty keyId hmember true, exec_linkKeyConfirmation_of_empty keyId hmember false⟩
    rintro stopped wrapped key ⟨hwrapped, hkey⟩
    exact exec_linkKeyConfirmation_of_key keyId hmember stopped hwrapped hkey
  · rintro lead copy b ⟨hawake, htaken⟩
    change execMirrorCopy lead copy s = _
    simp [execMirrorCopy, hawake, htaken, done]
  · exact fun range usable hawake => congrArg _ (if_pos hawake)

end Sys2Proof.Machine
end

section
/-! DRAM channels: the work of a channel, its sleep and that of its group, and the DRAM commands (R229 to R232, R234, R235, R239, R241,
R245 to R247, R249 to R256, R267). -/

namespace Sys2Proof.Machine

/-! ## Channels and groups -/

@[simp] theorem State.onGroup_clock (s : State) (g : Nat) (f : Group → Group) : (s.onGroup g f).clock = s.clock := rfl

/-- Two changes of the DRAM part that agree on the part as it stands are one. -/
theorem State.onDram_congr {s : State} {f g : Dram → Dram} (h : f s.dram = g s.dram) : s.onDram f = s.onDram g :=
  congrArg (fun dram => { s with dram }) h

/-! ## Maintenance -/

/-- Maintenance of a channel that executes enters its queue (R245). -/
theorem State.maintain_of_executes {s : State} {n : Nat} (h : s.executes n = true) (e : QueueEntry) : s.maintain n e = s.enterItem n e :=
  if_pos h

/-- Maintenance of a sleeping channel waits for its wake (R249). -/
theorem State.maintain_of_asleep {s : State} {n : Nat} (hstill : s.executes n = false) (htrained : (s.channel n).trained = true)
    (hasleep : (s.channel n).asleep = true) (hin : (s.channel n).outOfService = false) (e : QueueEntry) :
    s.maintain n e = s.onChannel n fun c => { c with deferred := c.deferred ++ [e] } :=
  (if_neg (ne_true_of_eq_false hstill)).trans (if_pos (by simp [htrained, hasleep, hin]))

/-- A refresh of a channel that executes enters its queue, in a retraining it only moves the refresh position on (R239, R246). -/
theorem exec_refreshDue_of_executes {s : State} {ch : ChannelId} (h : s.executes ch.toNat = true) :
    exec (.refreshDue ch) s = .next (if (s.channel ch.toNat).retraining
      then s.onChannel ch.toNat fun c => { c with refreshAt := (c.refreshAt + 1) % 16 } else s.enterItem ch.toNat .refresh) :=
  congrArg _ (if_neg (by simp [h]))

/-- The oldest slot read that is out goes back to its fetch, unless the key of the fetch's context has an error (R234, R267). -/
theorem exec_slotReadComplete_of_cons {s : State} {ch : ChannelId} {x : InFlight} {rest : List InFlight} {f : Fetch}
    (hread : (s.channel ch.toNat).inFlight = x :: rest) (hfetch : s.fetch x.fetch = some f) :
    let t := s.onChannel ch.toNat fun c => { c with inFlight := rest }
    exec (.slotReadComplete ch) s = .next (if Sparse.get false s.sram.keyErrors (f.batten.ctx.toNat * 2 + b2n f.batten.gen)
      then (t.loseKey f.batten.ctx.toNat f.batten.gen).endFetch x.fetch f (zeros 256) 15 0
      else (t.slotBack ch.toNat x f).settleFetch x.fetch) := by
  intro t
  have hfetch' : t.fetch x.fetch = some f := hfetch
  change execSlotReadComplete ch s = _
  simp only [execSlotReadComplete, hread]
  rw [hfetch']
  exact (apply_ite done ..).symm

/-! ## Retraining -/

/-- The first channel in turn begins its retraining where its drift is over the threshold or a command asked for it (R245, R247). -/
theorem exec_writeDqRetrainTurn_of_due {s : State} {ch : ChannelId} {rest : List Nat} (drift : BitVec 16) (hruns : s.executes ch.toNat = true)
    (hturn : s.dram.turns = ch.toNat :: rest) (hfree : s.anyRetraining = false)
    (hdue : s.dram.driftPs < drift.toNat ∨ (s.channel ch.toNat).wantsTurn = true) :
    exec (.writeDqRetrainTurn ch drift) s =
      .next (((s.onDram fun d => { d with turns := rest }).onChannel ch.toNat fun c => { c with drift }).startRetraining ch.toNat) := by
  have hturns : (s.onDram fun d => { d with turns := d.turns.drop 1 }) = s.onDram fun d => { d with turns := rest } :=
    State.onDram_congr (by rw [hturn]; rfl)
  have hstart : ¬(decide (drift.toNat ≤ s.dram.driftPs) && !(s.channel ch.toNat).wantsTurn) = true := by
    rcases hdue with hover | hwants
    · simp [Nat.not_le.2 hover]
    · simp [hwants]
  refine (if_neg (by simp [hturn, hfree])).trans ((if_neg (by simp [hruns])).trans ((if_neg hstart).trans ?_))
  exact congrArg (fun t : State => Host.Outcome.next ((t.onChannel ch.toNat fun c => { c with drift }).startRetraining ch.toNat)) hturns

section Retrained
variable {s : State} {ch : ChannelId} (hretrains : (s.channel ch.toNat).retraining = true)
include hretrains

/-- A first failure is retried (R250). -/
theorem exec_writeDqRetrainDone_of_first_failure (ns : BitVec 32) (hfirst : (s.channel ch.toNat).retried = false) :
    exec (.writeDqRetrainDone ch false ns) s = .next (s.onChannel ch.toNat fun c => { c with retried := true }) :=
  (if_neg (by simp [hretrains])).trans (if_pos (by simp [hfirst]))

/-- A pass, or a second failure, ends the retraining: the channel serves on, or goes out of service (R245, R250). -/
theorem exec_writeDqRetrainDone_of_end {passed : Bool} (ns : BitVec 32) (hlast : passed = false → (s.channel ch.toNat).retried = true) :
    let n := ch.toNat
    let c := s.channel n
    let us := ns.toNat / 1000
    let t := (s.onChannel n fun c => { c with retraining := false, longestStall := max c.longestStall us, since := s.clock }).trace
      3 4 0xFFFF 0xFFFF (le 1 n ++ le 1 4 ++ le 1 (if passed then 1 else 5) ++ le 4 us)
    let u := t.onChannel n fun c => { c with retrainings := c.retrainings + 1 }
    exec (.writeDqRetrainDone ch passed ns) s = .next (if passed then
      (((u.raiseLimited 0x0703 n .informational 0xFFFF (le 1 n ++ le 2 c.drift.toNat ++ le 2 (min us 65535) ++ zeros 4) [(5, 4)] [1]
        u.lds).finishRetrain n 1 0 ns.toNat).runChannel n).recompute
      else (t.takeOut n 1).recompute) := by
  refine (if_neg (by simp [hretrains])).trans ((if_neg ?_).trans (apply_ite done ..).symm)
  cases passed
  · simp [hlast rfl]
  · simp

end Retrained

/-- Settles O34: a channel that executes takes each of its items at once, maintenance of a sleeping one waits, a slot read goes back to
its fetch, and a retraining begins and ends as its turn, its drift and its tries say (R234, R235, R239, R245 to R247, R249, R250, R267). -/
theorem channelWork : Obligations.ChannelWork := by
  intro s ch n c
  refine ⟨fun hruns => ⟨?_, fun hidle => ?_, fun codes => ?_, ?_⟩, ?_, fun passed ns => rfl, fun drift => ⟨fun hruns => ?_, ?_⟩, ?_, ?_⟩
  · exact congrArg _ (if_pos hruns)
  · exact congrArg _ (if_pos (Bool.and_eq_true_iff.2 ⟨hruns, congrArg not hidle⟩))
  · exact congrArg _ (if_pos hruns)
  · exact exec_refreshDue_of_executes hruns
  · rintro x rest f ⟨hread, hfetch⟩
    exact exec_slotReadComplete_of_cons hread hfetch
  · exact congrArg _ (State.maintain_of_executes hruns _)
  · rintro ⟨hstill, htrained, hasleep, hin⟩
    exact congrArg _ (State.maintain_of_asleep hstill htrained hasleep hin _)
  · rintro drift rest ⟨hruns, hturn, hfree, hdue⟩
    exact exec_writeDqRetrainTurn_of_due drift hruns hturn hfree hdue
  · intro ns hretrains
    refine ⟨exec_writeDqRetrainDone_of_first_failure hretrains ns, fun hretried => ?_, ?_⟩
    · exact (exec_writeDqRetrainDone_of_end hretrains ns fun _ => hretried).trans (congrArg _ (if_neg Bool.false_ne_true))
    · exact (exec_writeDqRetrainDone_of_end (passed := true) hretrains ns nofun).trans (congrArg _ (if_pos (Eq.refl true)))

/-! ## Self-refresh and power-down -/

/-- A group goes down with its channels asleep, and the trace has the time that it was live (R252). -/
theorem State.downGroup_eq (s : State) (g : Nat) :
    let u := foldState State.sleepChannel s (groupChannels g)
    s.downGroup g = (u.onGroup g fun x => { x with st := .poweredDown, waking := false, since := u.clock }).trace
      3 1 0xFFFF 0xFFFF (le 1 g ++ le 1 1 ++ le 1 2 ++ le 4 (min (usOf (u.clock - (u.group g).since)) 0xFFFFFFFF)) := by
  simp only [State.downGroup, State.onGroup_clock]

/-- A live group that may power down with every channel idle does, or where a request came in time leaves its channels in self-refresh
(R252, R254). -/
theorem exec_groupPowerDownEntry_of_idle {s : State} {g : GroupId} (hlive : (s.group g.toNat).st = .live)
    (henable : (s.group g.toNat).enable = true) (hidle : ∀ c ∈ groupChannels g.toNat, (s.channel c).idle = true) (abandoned : Bool) :
    exec (.groupPowerDownEntry g abandoned) s = .next (if abandoned
      then (foldState State.sleepChannel s (groupChannels g.toNat)).onGroup g.toNat fun x => { x with abandoned := x.abandoned + 1 }
      else s.downGroup g.toNat) := by
  have hall : ((groupChannels g.toNat).all fun ch => (s.channel ch).idle) = true := List.all_eq_true.2 hidle
  exact (if_neg (by simp [hlive, henable, hall])).trans (apply_ite done ..).symm

/-- Settles O35: each entry and the wake take the branch whose conditions their hypotheses name (R241, R251 to R254). -/
theorem sleepOfChannels : Obligations.SleepOfChannels := by
  intro s ch g
  refine ⟨?_, ?_, ?_⟩
  · rintro ⟨hruns, hidle, hdrained⟩
    exact congrArg _ (if_pos (by simp [hruns, hidle, hdrained]))
  · rintro ⟨hlive, henable, hidle⟩ u
    have hentry := exec_groupPowerDownEntry_of_idle hlive henable hidle
    exact ⟨(hentry false).trans (congrArg _ ((if_neg Bool.false_ne_true).trans (s.downGroup_eq g.toNat))),
      (hentry true).trans (congrArg _ (if_pos (Eq.refl true)))⟩
  · rintro ns ⟨hdown, hwaking⟩
    change execGroupWakeComplete g ns s = _
    simp [execGroupWakeComplete, hdown, hwaking, done]

/-! ## The DRAM commands -/

/-- The refresh codes of a channel's four dies, one byte each. -/
theorem length_deviceCodes (codes : BitVec 12) :
    ((List.range 4).flatMap fun d => le 1 (bits codes.toNat (3 * d + 2) (3 * d))).length = 4 := by
  rw [← List.flatMap_map (fun d => bits codes.toNat (3 * d + 2) (3 * d)) (le 1), length_flatMap_le, List.length_map, List.length_range]

/-- A retraining asked of an awake trained channel is noted for its turn, its calibration for both ranks (R245, R247). -/
theorem begins_retrainChannel_of_awake {s : State} {p : Path} {ch : BitVec 8} (kind : BitVec 8) (h : s.serves p 0xC1C7)
    (hp : Path.privileged p = true) (hq : Path.backgrounds p = true) (hb : (s.arrives p).backgroundBusy (Path.carrier p) = false)
    (hkind : kind.toNat = 1 ∨ kind.toNat = 2) (hch : ch.toNat ≤ 127)
    (hcode : ((s.arrives p).startBackground p 0xC1C7).channelCode ch.toNat ∉ [0, 5, 6])
    (hawake : (((s.arrives p).startBackground p 0xC1C7).channel ch.toNat).asleep = false) :
    let t := ((s.arrives p).startBackground p 0xC1C7).onDram fun d => { d with commands := d.commands ++ [(ch.toNat, kind.toNat, p)] }
    Begins (.retrainChannel p ch kind) p 0xC1C7 s (if kind.toNat = 1
      then (t.onChannel ch.toNat fun c => { c with wantsTurn := true }).wantTurn ch.toNat
      else t.onChannel ch.toNat fun c => { c with zqWanted := 2 }) := by
  refine begins_of_privilegedBackground rfl h hp hq hb ?_
  simp only [List.mem_cons, List.not_mem_nil, or_false, not_or] at hcode
  obtain ⟨huntrained, hout, hwithheld⟩ := hcode
  refine (if_neg ?_).trans ((if_neg (ne_true_of_eq_false hawake)).trans (apply_ite (·, none) ..).symm)
  simp only [huntrained, hout, hwithheld, or_false]
  omega

/-- Settles O36: the three queries by their payloads, each setting by its ranges, and Retrain Channel by its kind (R229 to R232, R245,
R247, R251, R252, R256). -/
theorem channelCommands : Obligations.ChannelCommands := by
  intro s p a
  refine ⟨?_, ?_, ?_, fun hp => ⟨?_, ?_, ?_, ?_, ?_⟩⟩
  · rintro ch ⟨h, hch⟩
    refine answers_of_arrive rfl h (if_neg (Nat.not_lt.2 hch)) ?_
    simp only [List.forall_mem_cons, List.append_assoc, fieldLe_append_right, le_length, length_deviceCodes, fieldLe_le_append, Nat.reduceLeDiff,
      Nat.reduceSub, Nat.reducePow, Nat.zero_mod, Nat.sub_self, Nat.le_refl, List.not_mem_nil, false_implies, implies_true, and_self]
  · rintro g ⟨h, hg⟩
    refine answers_of_arrive rfl h (if_neg (Nat.not_lt.2 hg)) ?_
    simp only [List.forall_mem_cons, List.append_assoc, fieldLe_append_right, le_length, fieldLe_le_append, Nat.reduceLeDiff,
      Nat.reduceSub, Nat.reducePow, Nat.zero_mod, Nat.sub_self, Nat.le_refl, List.not_mem_nil, false_implies, implies_true, and_self]
  · rintro slot ⟨h, hslot⟩ x
    refine answers_of_arrive rfl h (if_neg (ne_true_of_eq_false hslot)) ?_
    simp only [x, List.forall_mem_cons, List.append_assoc, fieldLe_append_right, le_length, zeros_length, fieldLe_le_append, Nat.reduceLeDiff,
      Nat.reduceSub, Nat.reducePow, Nat.zero_mod, Nat.sub_self, Nat.le_refl, List.not_mem_nil, false_implies, implies_true, and_self]
  · rintro g enable us ns ⟨h, hg, hus, hus', hns, hns', hratio⟩ set t
    have hnamed : ¬(15 < g.toNat ∧ g.toNat ≠ 255) := by
      rcases hg with hg | rfl
      · omega
      · simp
    refine exec_of_arrive rfl h ((if_pos hp).trans ((if_neg hnamed).trans ((if_neg (by omega)).trans ?_)))
    have hevery : g.toNat = 255 ↔ g = 255 := BitVec.toNat_inj (y := 255)
    simp only [hevery]
    rfl
  · rintro zq check drift poll ⟨h, hzq, hzq', hcheck, hcheck', hdrift, hdrift', hpoll, hpoll'⟩ t
    exact exec_of_arrive rfl h ((if_pos hp).trans (if_neg (by omega)))
  · rintro speed ⟨h, hspeed⟩ t
    exact exec_of_arrive rfl h ((if_pos hp).trans (if_neg (Nat.not_lt.2 hspeed)))
  · rintro m0 m1 m2 ⟨h, hm0, hm1, hm2⟩ t
    exact exec_of_arrive rfl h ((if_pos hp).trans (if_neg (by simp [hm0, hm1, hm2])))
  · rintro ch b ⟨h, hq, hb, hch, hcode, hawake⟩
    exact ⟨begins_retrainChannel_of_awake 1 h hp hq hb (.inl rfl) hch hcode hawake,
      begins_retrainChannel_of_awake 2 h hp hq hb (.inr rfl) hch hcode hawake⟩

end Sys2Proof.Machine
end

section
/-! Bring-up: the firmware's boot and the admission of groups (R243, R244, R386, R394, R402 to R404). -/

namespace Sys2Proof.Machine

/-- The firmware boots from the boot slot where its image passes, else from the other, else the sled is in recovery (R386). -/
theorem exec_firmwareBoot_of_tested {s : State} (tests : BootTests) (hstep : s.boot.step = .sramTested) :
    let first := s.tryBoot s.purlin.fw.boot tests
    let second := first.1.tryBoot (3 - s.purlin.fw.boot) tests
    exec (.firmwareBoot tests) s = .next (if first.2 then first.1.runFirmware s.purlin.fw.boot s.purlin.fw.boot tests
      else if second.2 then second.1.runFirmware (3 - s.purlin.fw.boot) s.purlin.fw.boot tests else second.1.setReady rdyRecovery true) := by
  intro first second
  refine (if_neg (not_not_intro hstep)).trans ?_
  rw [apply_ite Host.Outcome.next, apply_ite Host.Outcome.next]
  rfl

/-! ## The admission of a group -/

section Admission
variable {s : State} {g : Nat} (hadmits : s.admits = true)
include hadmits

/-- While the groups are not settled the next group in order begins its admission (R402). -/
theorem exec_groupAdmission_of_next (hopen : (State.advance 17 s).ready rdySettled = false) (hnext : (State.advance 17 s).nextGroup = some g) :
    exec .groupAdmission s = .next ((State.advance 17 s).startAdmission g false none) := by
  change execGroupAdmission s = _
  simp [execGroupAdmission, hadmits, hopen, hnext, done]

/-- Once they are, a retry that is due begins, and is the group's only one (R404). -/
theorem exec_groupAdmission_of_retry (hsettled : (State.advance 17 s).ready rdySettled = true)
    (hretry : (State.advance 17 s).nextRetry = some g) :
    exec .groupAdmission s = .next (((State.advance 17 s).onBoot fun b =>
      { b with retried := b.retried ||| BitVec.ofNat 16 (2 ^ g) }).startAdmission g true none) := by
  change execGroupAdmission s = _
  simp [execGroupAdmission, hadmits, hsettled, hretry, done]

end Admission

/-- An attempt of the group in admission ends by what its switch, its sensor and its channels say (R244, R402, R403). -/
theorem exec_groupTrainingAttemptDone_of_admission {s : State} {g : GroupId} {x : Admission} (passed step rank : BitVec 8)
    (hx : s.boot.admission = some x ∧ x.group = g.toNat ∧ x.trained = false) (settled valid : Bool) :
    let t := foldState (fun s i => s.fenceAtTraining (8 * x.group + i) x.speed step.toNat rank.toNat) s
      ((List.range 8).filter fun i => !bitAt passed.toNat i)
    let u := s.attemptFailed x step.toNat passed.toNat
    exec (.groupTrainingAttemptDone g passed step rank settled valid) s = .next (
      if !settled then (s.attemptFailed x 9 0).failAdmission x 3 0
      else if !valid then s.failAdmission x 4 passed.toNat
      else if enoughChannels passed.toNat x.speed then
        (t.onBoot fun b => { b with admission := some { x with trained := true, passed } }).progress x.path opRetryGroup 33
      else if x.speed < 2 then u.onBoot fun b => { b with admission := some { x with speed := x.speed + 1 } }
      else u.failAdmission x 1 passed.toNat) := by
  obtain ⟨hadmission, hgroup, huntrained⟩ := hx
  change execGroupTrainingAttemptDone g passed step rank settled valid s = _
  simp only [execGroupTrainingAttemptDone, hadmission, apply_ite Host.Outcome.next]
  exact if_neg (by simp [hgroup, huntrained])

/-- A trained group joins where enough of its channels serve, else it is withheld (R402, R403). -/
theorem exec_groupJoin_of_trained {s : State} {x : Admission} (codecs : BitVec 8) (repairs : BitVec 128)
    (hadmission : s.boot.admission = some x) (htrained : x.trained = true) :
    let serving := maskOf 8 fun i => bitAt x.passed.toNat i && !bitAt codecs.toNat i
    let t := s.applyRepairs x.group x.passed.toNat repairs.toNat
    let u := foldState (fun s i => ((s.onChannel (8 * x.group + i) fun c => { c with fenced := true }).raiseAll 0x080F .failure
      (le 1 (8 * x.group + i) ++ le 2 (Config.failingVector (8 * x.group + i)).toNat))) t
      ((List.range 8).filter fun i => bitAt x.passed.toNat i && bitAt codecs.toNat i)
    exec (.groupJoin codecs repairs) s = .next (if enoughChannels serving x.speed then u.joinGroup x serving
      else (u.attemptFailed x 8 serving).failAdmission x 2 serving) := by
  intro serving t u
  change execGroupJoin codecs repairs s = _
  simp only [execGroupJoin, hadmission, apply_ite Host.Outcome.next]
  exact if_neg (by simp [htrained])

/-- Settles O44: the boot by the two slots, an admission by what is next, an attempt by its outcome, and a join by the channels that serve
(R243, R244, R386, R394, R402 to R404). -/
theorem bringUpSteps : Obligations.BringUpSteps := by
  intro s
  refine ⟨exec_firmwareBoot_of_tested, fun hadmits => ⟨?_, ?_⟩, ?_, ?_⟩
  · rintro g ⟨hopen, hnext⟩
    exact exec_groupAdmission_of_next hadmits hopen hnext
  · rintro g ⟨hsettled, hretry⟩
    exact exec_groupAdmission_of_retry hadmits hsettled hretry
  · intro g x passed step rank hx
    have hdone := exec_groupTrainingAttemptDone_of_admission passed step rank hx
    refine ⟨hdone false, hdone true false, fun henough => ?_, ?_, ?_⟩
    · exact (hdone true true).trans (congrArg _ (if_pos henough))
    · rintro ⟨hfew, hfaster⟩
      exact (hdone true true).trans (congrArg _ ((if_neg (ne_true_of_eq_false hfew)).trans (if_pos hfaster)))
    · rintro ⟨hfew, hlowest⟩
      exact (hdone true true).trans (congrArg _ ((if_neg (ne_true_of_eq_false hfew)).trans (if_neg (Nat.not_lt.2 hlowest))))
  · rintro x codecs repairs ⟨hadmission, htrained⟩
    exact exec_groupJoin_of_trained codecs repairs hadmission htrained

end Sys2Proof.Machine
end

section
/-! The commands of scrubs, faults and retirement (R276, R277, R279, R280, R282, R284, R287). -/

namespace Sys2Proof

/-- The second of two strings, cut out whole. -/
theorem slice_append_right {a b : List Byte} {o n : Nat} (ho : a.length = o) (hn : b.length = n) : slice (a ++ b) o n = b := by
  rw [slice_of_le (by rw [List.length_append]; omega), List.drop_left' ho, List.take_of_length_le (Nat.le_of_eq hn)]

end Sys2Proof

namespace Sys2Proof.Machine

/-- A fault record takes 16 bytes (R279). -/
@[simp] theorem FaultRecord.toBytes_length (r : FaultRecord) : r.toBytes.length = 16 := by
  simp only [FaultRecord.toBytes, List.length_append, le_length, zeros_length]

theorem FaultRecord.length_flatMap_toBytes (rs : List FaultRecord) : (rs.flatMap FaultRecord.toBytes).length = 16 * rs.length := by
  induction rs with
  | nil => rfl
  | cons r rs ih => rw [List.flatMap_cons, List.length_append, r.toBytes_length, ih, List.length_cons, Nat.mul_succ, Nat.add_comm]

/-- Settles O38: the three queries by their payloads, each background command by the range or the storage it takes, and each setting by
its ranges (R276, R277, R279, R280, R282, R284, R287). -/
theorem sparingCommands : Obligations.SparingCommands := by
  intro s p a
  refine ⟨fun h => ?_, fun h => ?_, ?_, ?_, fun hp => ⟨?_, ?_, ?_, ?_, ?_⟩⟩
  · refine answers_of_arrive rfl h rfl ?_
    simp only [List.forall_mem_cons, List.append_assoc, fieldLe_append_right, le_length, zeros_length, fieldLe_le_append, Nat.reduceLeDiff,
      Nat.reduceSub, Nat.reducePow, Nat.zero_mod, Nat.sub_self, Nat.le_refl, List.not_mem_nil, false_implies, implies_true, and_self]
  · refine answers_of_arrive rfl h rfl ?_
    simp only [List.forall_mem_cons, List.append_assoc, fieldLe_append_right, le_length, zeros_length, fieldLe_le_append, Nat.reduceLeDiff,
      Nat.reduceSub, Nat.reducePow, Nat.zero_mod, Nat.sub_self, Nat.le_refl, List.not_mem_nil, false_implies, implies_true, and_self]
  · rintro first count ⟨h, hone, hmost, hheld⟩
    refine answers_of_arrive rfl h ((if_neg (by omega)).trans (if_neg (Nat.not_lt.2 hheld))) ⟨?_, ?_, ?_⟩
    · simp only [List.append_assoc, fieldLe_le_append, Nat.zero_mod]
    · simp only [List.append_assoc, fieldLe_append_right, le_length, fieldLe_le_append, Nat.le_refl, Nat.sub_self, List.length_take]
      exact Nat.mod_eq_of_lt (by omega)
    · exact slice_append_right (by simp only [List.length_append, le_length, zeros_length]) (FaultRecord.length_flatMap_toBytes _)
  · rintro dpa courses deep share b ⟨h, hq, hb, hrange, hshare, hfree⟩ x
    have hvalid : (!b.rangeOk (b.issuing p) dpa.toNat courses.toNat || decide (50 < share.toNat)) = false := by
      simp only [hrange, Nat.not_lt.2 hshare, Bool.not_true, decide_false, Bool.or_self]
    have hidle : (Sparse.find b.spare.scrubs (b.issuing p).toNat).isSome = false := congrArg Option.isSome hfree
    have hdefault : share.toNat = 0 ↔ share = 0 := BitVec.toNat_inj (y := 0)
    refine begins_of_background rfl h hq hb ((if_neg (ne_true_of_eq_false hvalid)).trans ((if_neg (ne_true_of_eq_false hidle)).trans ?_))
    simp only [hdefault]
    rfl
  · rintro enable minutes ⟨h, hlow, hhigh⟩ t u
    exact exec_of_arrive rfl h ((if_pos hp).trans (if_neg (by omega)))
  · rintro rows dies rank share hold ⟨h, hrows, hrows', hdies, hdies', hrank, hrank', hshare, hshare'⟩ t u
    refine exec_of_arrive rfl h ((if_pos hp).trans ((if_neg (by omega)).trans ?_))
    cases hold <;> rfl
  · rintro kind ch rank bank row r b ⟨h, hq, hb, hnamed⟩
    refine begins_of_privilegedBackground rfl h hp hq hb ?_
    simp only [b, a] at hnamed
    simp only [hnamed]
    rfl
  · intro ch rank bank row h new t
    exact exec_of_arrive rfl h ((if_pos hp).trans (if_pos rfl))
  · rintro slot count first pattern x ⟨h, hdata, hone, hmost, hend, hsmall, hpattern⟩
    refine exec_of_arrive rfl h ((if_pos hp).trans (if_neg ?_))
    have hvalid : (isCheckSlot x || decide (count.toNat < 1) || decide (4 < count.toNat) || decide (68 < first.toNat + count.toNat) ||
        (a.small && bitAt x 27) || pattern == 0) = false := by
      simp only [hdata, hsmall, Nat.not_lt.2 hone, Nat.not_lt.2 hmost, Nat.not_lt.2 hend, beq_eq_false_iff_ne.2 hpattern,
        decide_false, Bool.or_self]
    exact ne_true_of_eq_false hvalid

end Sys2Proof.Machine
end

section
/-! Queues and monitors, and the commands of their regulation (R291, R292, R298 to R302, R305 to R308, R312 to R317, R384, R418). -/

namespace Sys2Proof

/-- Changing the values at some keys, each once: a read gives the changed value at each of them, and what stood there at every other. -/
theorem Sparse.get_foldl_modify {α : Type} [DecidableEq α] {d : α} (f : Nat → α → α) {l : List Nat} (hl : l.Nodup) (j : Nat) :
    ∀ {m : Sparse α}, Sparse.wf d m = true →
      Sparse.get d (l.foldl (fun m k => Sparse.modify d m k (f k)) m) j = if j ∈ l then f j (Sparse.get d m j) else Sparse.get d m j := by
  induction l with
  | nil => exact fun _ => rfl
  | cons k l ih =>
    intro m hm
    obtain ⟨hk, hl⟩ := List.nodup_cons.1 hl
    have hget : Sparse.get d (Sparse.modify d m k (f k)) j = if j = k then f k (Sparse.get d m k) else Sparse.get d m j := Sparse.get_set k j _ hm
    rw [List.foldl_cons, ih hl (m := Sparse.modify d m k (f k)) (Sparse.set_wf k _ hm), hget]
    by_cases hj : j = k
    · subst hj
      rw [if_neg hk, if_pos rfl, if_pos List.mem_cons_self]
    · simp only [List.mem_cons, hj, false_or, if_false]

end Sys2Proof

namespace Sys2Proof.Machine

/-! ## Histograms -/

/-- The queues of a class. -/
def Regulator.ofClass (g : Regulator) (c : Nat) : List Queue := (g.queues.filter fun q => q.1 % 64 == c).map fun q => q.2

/-- Some classes are sampled, each by the queues given for it (R308). -/
def State.sampleClasses (s : State) (queues : Nat → List Queue) (l : List Nat) : State :=
  s.onReg fun g => { g with histograms := l.foldl (fun h c => Sparse.modify {} h c fun x => x.sample s.clock (queues c)) g.histograms }

/-- Every monitored queue is sampled (R308). -/
def State.sampleMonitors (s : State) : State :=
  s.onReg fun g => { g with monitors := g.monitors.map fun m => (m.1, { m.2 with hist := m.2.hist.sample s.clock [s.queue m.2.queue] }) }

/-- The monitors after a sample of both kinds: the classes' part leaves the clock and the queues. -/
theorem State.sampleMonitors_sampleClasses_monitors (s : State) (queues : Nat → List Queue) (l : List Nat) :
    (s.sampleClasses queues l).sampleMonitors.reg.monitors =
      s.reg.monitors.map fun m => (m.1, { m.2 with hist := m.2.hist.sample s.clock [s.queue m.2.queue] }) := rfl

@[simp] theorem State.sampleMonitors_histograms (s : State) : s.sampleMonitors.reg.histograms = s.reg.histograms := rfl

/-- Sampling classes one after another is sampling them all. -/
theorem foldState_eq_sampleClasses (queues : Nat → List Queue) (l : List Nat) (s : State) :
    foldState (fun s c => s.onReg fun g => { g with histograms := Sparse.modify {} g.histograms c fun h => h.sample s.clock (queues c) }) s l =
      s.sampleClasses queues l := by
  induction l generalizing s with
  | nil => rfl
  | cons c l ih => exact ih _

/-- A sample while the hub runs takes each of the 64 classes, then the monitored queues (R308). -/
theorem exec_histogramSample_of_runs {s : State} (hruns : s.hubRuns = true) :
    exec .histogramSample s = .next (s.sampleClasses s.reg.ofClass (List.range 64)).sampleMonitors :=
  (if_neg (by simp [hruns])).trans
    (congrArg (fun t => done t.sampleMonitors) (foldState_eq_sampleClasses s.reg.ofClass (List.range 64) s))

/-- A sampled class reads as its sample, where the histograms are in canonical form. -/
theorem State.get_sampleClasses {s : State} (hwf : Sparse.wf {} s.reg.histograms = true) (queues : Nat → List Queue) {c n : Nat} (hc : c < n) :
    Sparse.get {} (s.sampleClasses queues (List.range n)).reg.histograms c = (Sparse.get {} s.reg.histograms c).sample s.clock (queues c) :=
  (Sparse.get_foldl_modify (fun k (x : Histogram) => x.sample s.clock (queues k)) List.nodup_range c hwf).trans (if_pos (List.mem_range.2 hc))

/-- Settles O39: a request enters by the room of the store, a sample goes class by class, an interval ends by the pause and the hub, and
a pin's level is written at its own pair (R291, R302, R305, R308, R312, R384, R418). -/
theorem queuesAndMonitors : Obligations.QueuesAndMonitors := by
  intro s
  refine ⟨?_, ?_, ⟨fun hstands => ?_, ?_⟩, fun pair level hpins => ⟨_, rfl, fun k => Sparse.get_set pair.toNat k level hpins⟩⟩
  · rintro r rest ⟨hlanded, hroom⟩
    change execLandedRequestEnterStore s = _
    simp only [execLandedRequestEnterStore, hlanded, hroom, if_true, done]
  · rintro ⟨hruns, hwf⟩
    refine ⟨_, exec_histogramSample_of_runs hruns, fun c hc => ?_, s.sampleMonitors_sampleClasses_monitors ..⟩
    rw [State.sampleMonitors_histograms]
    exact State.get_sampleClasses hwf s.reg.ofClass hc
  · have hstop : (s.purlin.paused || !s.hubRuns) = true := by simpa using hstands
    exact congrArg _ (if_pos hstop)
  · rintro ⟨hpaused, hruns⟩
    have hgoes : (s.purlin.paused || !s.hubRuns) = false := by simp [hpaused, hruns]
    exact congrArg _ (if_neg (ne_true_of_eq_false hgoes))

/-! ## The regulation commands -/

/-- Does a sum of guarantees, in 1/256 request per µs, fit under B, where there is one (R313)? -/
def State.fits (s : State) (sum : Nat) : Bool :=
  match s.reg.rates.b with
  | some b => decide (sum ≤ 256 * b)
  | none => true

theorem State.fits_iff {s : State} {sum : Nat} : s.fits sum = true ↔ ∀ b, s.reg.rates.b = some b → sum ≤ 256 * b := by
  cases hb : s.reg.rates.b <;> simp [State.fits, hb]

theorem State.not_fits {s : State} {sum b : Nat} (hb : s.reg.rates.b = some b) (hover : 256 * b < sum) : s.fits sum = false :=
  eq_false_of_ne_true fun h => Nat.not_le.2 hover (State.fits_iff.1 h b hb)

/-- Settles O40: the two queries by their payloads, each setting by its ranges, a guarantee by the sum that it leaves under B, and an
urgency source by its kind (R292, R298, R299, R301, R306, R313, R315, R317). -/
theorem regulationCommands : Obligations.RegulationCommands := by
  intro s p a
  refine ⟨fun h => ?_, ?_, ?_, fun hp => ⟨?_, ?_, ?_, fun h => ⟨?_, ?_, ?_, ?_⟩⟩⟩
  · refine answers_of_arrive rfl h rfl ?_
    simp only [List.forall_mem_cons, List.append_assoc, fieldLe_append_right, le_length, fieldLe_le_append, Nat.reduceLeDiff,
      Nat.reduceSub, Nat.reducePow, Nat.zero_mod, Nat.sub_self, Nat.le_refl, List.not_mem_nil, false_implies, implies_true, and_self]
  · rintro rid cls ⟨h, hcls, hown⟩
    have hseen : (63 < cls.toNat || !a.ownsRid p rid.toNat) = false := by simp [hown, hcls]
    exact answers_of_arrive rfl h (if_neg (ne_true_of_eq_false hseen)) rfl
  · rintro slot cls rid us ⟨h, hslot, hcls, hus, hfree⟩ rate
    have hkept : us.toNat = 0 ↔ us = 0 := BitVec.toNat_inj (y := 0)
    have hrange (action : Nat) (haction : action ≤ 1) : ¬(1023 < slot.toNat ∨ 1 < action ∨ 63 < cls.toNat ∨ 1000000 < us.toNat) := by
      omega
    refine ⟨fun hown => ?_, ?_⟩
    · have hbinds : (!a.mayRebind p slot.toNat || (decide ((1 : BitVec 8).toNat = 1) && !a.ownsRid p rid.toNat)) = false := by simp [hfree, hown]
      refine exec_of_arrive rfl h ((if_neg (hrange 1 (by decide))).trans ((if_neg (ne_true_of_eq_false hbinds)).trans ?_))
      simp only [hkept]
      rfl
    · have hfrees : (!a.mayRebind p slot.toNat || (decide ((0 : BitVec 8).toNat = 1) && !a.ownsRid p rid.toNat)) = false := by simp [hfree]
      refine exec_of_arrive rfl h ((if_neg (hrange 0 (by decide))).trans ((if_neg (ne_true_of_eq_false hfrees)).trans ?_))
      simp only [hkept]
      rfl
  · rintro q ⟨h, hcls, hshaper, hpolicer⟩ sh po
    have hrange : (63 < q.cls.toNat || !burstOk q.shaperBurst || !burstOk q.policerBurst) = false := by simp [hcls, hshaper, hpolicer]
    exact exec_of_arrive rfl h ((if_pos hp).trans (if_neg (ne_true_of_eq_false hrange)))
  · rintro cls weight on rate burst ⟨h, hcls, hburst, hweight⟩ t
    have hrange : (63 < cls.toNat || !burstOk burst || (decide (cls.toNat < 60) && weight == 0)) = false := by
      rcases hweight with hstrict | hweight
      · simp [hcls, hburst, Nat.not_lt.2 hstrict]
      · simpa [hcls, hburst] using fun _ => hweight
    exact exec_of_arrive rfl h ((if_pos hp).trans (if_neg (ne_true_of_eq_false hrange)))
  · rintro cls new burst ⟨h, hcls, hburst⟩ old sum
    have hrange : (63 < cls.toNat || !burstOk burst) = false := by simp [hcls, hburst]
    refine ⟨fun hadmitted => ?_, ?_⟩
    · have hfits : (decide (old < new.toNat) && !a.fits (sum - old + new.toNat)) = false := by
        rcases hadmitted with hfalls | hunder
        · simp [Nat.not_lt.2 hfalls]
        · simp [State.fits_iff.2 hunder]
      exact exec_of_arrive rfl h ((if_pos hp).trans ((if_neg (ne_true_of_eq_false hrange)).trans (if_neg (ne_true_of_eq_false hfits))))
    · rintro b ⟨hrise, hb, hover⟩
      have hexcess : (decide (old < new.toNat) && !a.fits (sum - old + new.toNat)) = true := by
        simp [hrise, State.not_fits hb hover]
      refine exec_of_arrive rfl h ((if_pos hp).trans ((if_neg (ne_true_of_eq_false hrange)).trans ((if_pos hexcess).trans ?_)))
      rw [hb]
  · rintro i rid map ⟨hi, hrid⟩ t
    refine exec_of_arrive rfl h ((if_pos hp).trans ((if_neg (by omega)).trans ?_))
    have hbinds : rid.toNat ≠ 0xFFFF := by omega
    simp only [hbinds, if_false]
    rfl
  · intro i map hi t
    have hrange : ¬(3 < i.toNat ∨ (4095 < (0xFFFF : BitVec 16).toNat ∧ (0xFFFF : BitVec 16).toNat ≠ 0xFFFF)) := by simp [hi]
    exact exec_of_arrive rfl h ((if_pos hp).trans (if_neg hrange))
  · rintro i rid map ⟨hi, hrid⟩ t
    exact exec_of_arrive rfl h ((if_pos hp).trans (if_neg (by omega)))
  · rintro i rid map x ⟨hi, hx1, hx2, hx3⟩ t
    have hrange : ¬(63 < i.toNat ∨ x.1 < i.toNat ∨ x.2.1 < x.1 ∨ x.2.2 < x.2.1 ∨ 63 < x.2.2) := by omega
    exact exec_of_arrive rfl h ((if_pos hp).trans (if_neg hrange))

end Sys2Proof.Machine
end

section
/-! Hops of the rafter link and the timers of a pair (R222, R322 to R324, R328, R329, R337, R341 to R344, R364, R391). -/

namespace Sys2Proof.Machine

/-! ## Hops -/

section AwakeHop
variable {s : State} {port : RaftPort} (hhop : s.awake = true ∧ s.hopUp port.toNat = true)
include hhop

/-- A parity error on a hop that is up counts against its lane and takes the hop down (R322). -/
theorem exec_laneParityError_of_up (lane : BitVec 3) :
    exec (.laneParityError port lane) s = .next (s.laneError port.toNat lane.toNat) := by
  obtain ⟨hawake, hup⟩ := hhop
  exact congrArg done (if_pos (by simp [hawake, hup]))

/-- A down notice takes the hop down with no lane at fault (R322). -/
theorem exec_downNoticeReceived_of_up : exec (.downNoticeReceived port) s = .next (s.hopDown port.toNat 0xFF) := by
  obtain ⟨hawake, hup⟩ := hhop
  exact congrArg done (if_pos (by simp [hawake, hup]))

end AwakeHop

/-- A training that was under way ends by its result (R323). -/
theorem exec_hopTrainingDone_of_training {s : State} {port : RaftPort} (x : HopTraining)
    (htraining : s.awake = true ∧ (s.rport port.toNat).phase = .training) :
    exec (.hopTrainingDone port x) s = .next (s.trained port.toNat x) := by
  obtain ⟨hawake, hphase⟩ := htraining
  exact congrArg done (if_pos (by simp [hawake, hphase]))

/-- A port that is down rejoins on a clean pair of lanes (R324). -/
theorem exec_portRetryTimer_of_clean {s : State} {port : RaftPort} {x : HopTraining} (hdown : s.awake = true ∧ (s.rport port.toNat).phase = .down)
    (hclean : x.clean = true) (hpair : x.lanes.toNat ∈ [0x03, 0x0C, 0x30, 0xC0]) :
    exec (.portRetryTimer port x) s = .next ((s.hopRise port.toNat x 3).afterRise s port.toNat) := by
  obtain ⟨hawake, hphase⟩ := hdown
  have hcontains := List.contains_iff_mem.2 hpair
  exact if_pos (by simp only [hawake, hphase, hclean, hcontains, beq_self_eq_true, Bool.and_self])

/-- The oldest forwarded packet of a port ages out for drop reason 5, and makes room for what had spilled (R328). -/
theorem exec_forwardAgeDrop_of_cons {s : State} {port : RaftPort} {f : Forwarded} {fs : List Forwarded}
    (hegress : (s.rport port.toNat).egress = f :: fs) :
    exec (.forwardAgeDrop port) s =
      .next (((s.onRport port.toNat fun x => { x with egress := fs }).dropPacket port.toNat 5).refillGutter) := by
  change execForwardAgeDrop port s = _
  simp only [execForwardAgeDrop, hegress, done]

/-- A hop that may carry packets sends the one its port picks; a ridge whose key is spent then rotates it (R222, R329). -/
theorem exec_egressPacketSend_of_pick {s : State} {port : RaftPort} {b : List Byte} {x : RafterLink}
    (hport : s.awake = true ∧ s.hopUp port.toNat = true ∧ (s.rport port.toNat).foreign = false)
    (hpick : (s.rport port.toNat).pick = some (b, x)) :
    exec (.egressPacketSend port) s =
      let t := ((s.onRport port.toNat fun _ => x).refillGutter.countBytes (2 + port.toNat) 0 b.length).emit
        (.packet (BitVec.ofNat 2 port.toNat) b)
      .next (if t.casc.role = .ridge ∧ 2 ^ 40 ≤ t.link.sealedCount ∧ t.flash.rotation = none then t.beginRotation none else t) := by
  obtain ⟨hawake, hup, hours⟩ := hport
  have hsends : ¬(!s.awake || !s.hopUp port.toNat || (s.rport port.toNat).foreign) = true := by simp [hawake, hup, hours]
  change done (s.egress port.toNat) = _
  rw [State.egress, if_neg hsends, hpick]
  simp only [Option.isNone_iff_eq_none, done]

/-! ## Timers of a pair -/

/-- An ack that is due goes in a packet of its own (R337). -/
theorem exec_ackTimer_of_due {s : State} {peer : SledId}
    (hdue : s.awake = true ∧ (s.peer peer.toNat).hasRecv = true ∧ (s.peer peer.toNat).ackDue = true) :
    exec (.ackTimer peer) s = .next (s.sendUnsequenced peer.toNat 5 []) := by
  obtain ⟨hawake, hrecv, hack⟩ := hdue
  exact congrArg done (if_pos (by simp [hawake, hrecv, hack]))

/-- A pair that no confirmation has made live is announced again (R342). -/
theorem exec_replayTimer_of_unconfirmed {s : State} {peer : SledId}
    (hst : (s.peer peer.toNat).st = .syncing ∨ (s.peer peer.toNat).st = .unreachable) :
    exec (.replayTimer peer) s = .next (s.announce peer.toNat) := by
  change execReplayTimer peer s = _
  obtain hsyncing | hunreachable := hst
  · simp only [execReplayTimer, hsyncing, done]
  · simp only [execReplayTimer, hunreachable, done]

/-- A live pair is replayed where it has entries unacknowledged, and waits for its primary hop no longer (R341, R344). -/
theorem exec_replayTimer_of_live {s : State} {peer : SledId} (hlive : (s.peer peer.toNat).st = .live) :
    exec (.replayTimer peer) s =
      .next (((if (s.peer peer.toNat).unacked then s.replay peer.toNat else s).onPeer peer.toNat fun p =>
        { p with returning := false }).pump peer.toNat) := by
  change execReplayTimer peer s = _
  simp only [execReplayTimer, hlive, done]

/-- A pair found unreachable loses its entries, is reported, and fails its relayed commands (R343, R391). -/
def State.purgePair (s : State) (peer : SledId) : State :=
  let x := s.loseEntries peer.toNat true fun _ => true
  ((x.1.onPeer peer.toNat fun p => { p with st := .unreachable, returning := false }).raiseAll 0x0A06 .failure
    (le 2 peer.toNat ++ le 4 x.2.1 ++ le 4 x.2.2)).failRelays peer

/-- A ridge probes the sled that it finds unreachable, and another member tells its ridge (R343, R364). -/
theorem exec_pairUnreachable_of_open {s : State} {peer : SledId}
    (hopen : (s.peer peer.toNat).st = .syncing ∨ (s.peer peer.toNat).st = .live) :
    exec (.pairUnreachable peer) s =
      let t := s.purgePair peer
      .next (if !t.casc.joined then t else if t.casc.role = .ridge then t.probe peer.toNat
        else t.emit (.control (some t.casc.ridge) (.unreachable peer.toNat))) := by
  have htracked : ¬((s.peer peer.toNat).st = .none ∨ (s.peer peer.toNat).st = .unreachable) := by
    obtain hsyncing | hlive := hopen
    · simp [hsyncing]
    · simp [hlive]
  exact if_neg htracked

/-- Settles O32: each hop event and each timer takes the branch of the hop or the pair that its hypotheses name (R222, R322 to R324,
R328, R329, R337, R341 to R344, R364, R391). -/
theorem rafterHops : Obligations.RafterHops := by
  intro s port peer
  refine ⟨fun hhop => ?_, ?_, ?_, ?_, ?_, ?_, ?_, ?_, ?_⟩
  · exact ⟨exec_laneParityError_of_up hhop, exec_downNoticeReceived_of_up hhop⟩
  · exact fun x htraining => exec_hopTrainingDone_of_training x htraining
  · rintro x ⟨hawake, hphase, hclean, hpair⟩
    exact exec_portRetryTimer_of_clean ⟨hawake, hphase⟩ hclean hpair
  · exact fun f fs hegress => exec_forwardAgeDrop_of_cons hegress
  · rintro b x ⟨hawake, hup, hours, hpick⟩
    exact exec_egressPacketSend_of_pick ⟨hawake, hup, hours⟩ hpick
  · exact exec_ackTimer_of_due
  · exact exec_replayTimer_of_unconfirmed
  · exact exec_replayTimer_of_live
  · exact exec_pairUnreachable_of_open

end Sys2Proof.Machine
end

section
/-! The power-state commands and Get Log Store Status (R390, R417, R420, R425, R430, R435, R436). -/

namespace Sys2Proof

/-- A slice that begins where the second of two strings does. -/
theorem slice_append_of_length {a b : List Byte} {o n : Nat} (h : a.length = o) : slice (a ++ b) o n = slice b 0 n := by
  rw [slice, slice, List.drop_left' h, List.drop_zero]

end Sys2Proof

namespace Sys2Proof.Machine

/-- Settles O29: the four queries by their payloads, a consent by the path that may set it, and the two settings by their ranges (R390,
R417, R420, R425, R430, R435, R436). -/
theorem powerStateCommands : Obligations.PowerStateCommands := by
  intro s p a
  refine ⟨fun h => ?_, ?_, ?_, ?_, fun h => ?_, ?_, fun h => ?_⟩
  · refine answers_of_arrive rfl h rfl ?_
    simp only [List.forall_mem_cons, List.append_assoc, fieldLe_append_right, le_length, fieldLe_le_append, Nat.reduceLeDiff,
      Nat.reduceSub, Nat.reducePow, Nat.zero_mod, Nat.sub_self, Nat.le_refl, List.not_mem_nil, false_implies, implies_true, and_self]
  · rintro consent whole ⟨h, hp | ⟨rfl, l, m, rfl⟩⟩
    · have hpath (primary : Bool) : ¬ (!primary && !Path.privileged p) = true := by simp [hp]
      have hwhole : ¬ (whole && !Path.privileged p) = true := by simp [hp]
      exact exec_of_arrive rfl h ((if_neg (hpath _)).trans (if_neg hwhole))
    · exact exec_of_arrive rfl h rfl
  · rintro drowse watch idle sample ceiling ⟨h, hp, hidle, hidle', hsample, hsample', hceiling, hceiling'⟩ t
    exact exec_of_arrive rfl h ((if_pos hp).trans (if_neg (by simp [hidle, hidle', hsample, hsample', hceiling, hceiling'])))
  · rintro index lowOn highOn low high ⟨h, hp, hindex, hbelow⟩ t
    exact exec_of_arrive rfl h ((if_pos hp).trans (if_neg (by simp [hindex, hbelow])))
  · refine answers_of_arrive rfl h rfl ⟨?_, slice_append_of_length rfl⟩
    simp only [List.append_assoc, fieldLe_append_right, le_length, zeros_length, fieldLe_le_append, Nat.reduceLeDiff, Nat.reduceSub,
      Nat.sub_self, Nat.le_refl]
  · rintro block ⟨h, hasked⟩
    refine answers_of_arrive rfl h (if_neg (by simp [hasked])) ⟨?_, ?_⟩
    · simp only [List.append_assoc, fieldLe_append_right, le_length, fieldLe_le_append, Nat.reducePow, Nat.le_refl, Nat.sub_self]
    · simp only [List.append_assoc, fieldLe_append_right, le_length, zeros_length, fieldLe_le_append, Nat.reduceLeDiff, Nat.reduceSub,
        Nat.sub_self, Nat.le_refl]
  · refine answers_of_arrive rfl h rfl ?_
    simp only [List.forall_mem_cons, List.append_assoc, fieldLe_append_right, le_length, fieldLe_le_append, Nat.reduceLeDiff,
      Nat.reduceSub, Nat.reducePow, Nat.zero_mod, Nat.sub_self, Nat.le_refl, List.not_mem_nil, false_implies, implies_true, and_self]

end Sys2Proof.Machine
end

section
/-! The cascade commands (R354, R356, R359, R361, R366, R367). -/

namespace Sys2Proof.Machine

/-! ## A command whose reply may wait -/

/-- A command that answers at once (R354). -/
theorem exec_of_deferred {c i : Instr} {p : Path} {op : Nat} {s t : State} {f : State → State × Option ReturnCode} {rc : ReturnCode}
    (hx : exec c s = .next (s.deferred i p op f)) (h : s.serves p op) (hf : f (s.arrives p) = (t, some rc)) :
    exec c s = .next (t.answered p op rc []) := by
  rw [hx, State.deferred_serves h i f (congrArg Prod.snd hf), hf]

/-- A command whose reply waits is counted as served, and nothing is answered yet (R354). -/
theorem exec_of_deferred_waits {c i : Instr} {p : Path} {op : Nat} {s t : State} {f : State → State × Option ReturnCode}
    (hx : exec c s = .next (s.deferred i p op f)) (h : s.serves p op) (hf : f (s.arrives p) = (t, none)) :
    exec c s = .next (t.onPurlin fun x => { x with served := x.served + 1 }) := by
  have hserve : s.service p op false = .serve := h
  simp only [hx, State.deferred, hserve, hf]

/-! ## Set Cascade Range -/

section SetRange
variable {s : State} {p : Path} {action : BitVec 8} {index : BitVec 16} {entry : RangeSpec} {segments : List (BitVec 32)}
  (h : s.serves p 0xC2C1)
include h

/-- Only the ridge changes the map, and only for a path that may carry cascade commands (R354, R366). -/
theorem setCascadeRange_of_not_ridge (hno : (s.arrives p).cascadePath p = false ∨ (s.arrives p).casc.role ≠ .ridge) :
    TurnedAway (.setCascadeRange p action index entry segments) p 0xC2C1 s .unsupported := by
  have hturned : (!(s.arrives p).cascadePath p || (s.arrives p).casc.role != .ridge) = true := by simpa using hno
  refine exec_of_deferred rfl h ?_
  simp only [hturned, if_true]

variable (hridge : (s.arrives p).cascadePath p = true ∧ (s.arrives p).casc.role = .ridge)
include hridge

/-- A change that the rules of ranges allow is proposed, and the command waits for it (R354, R361). -/
theorem setCascadeRange_of_ok {map : CascadeMap} (hok : (s.arrives p).rangeChange (s.arrives p).latestMap action.toNat index.toNat entry
      (segments.map fun x => segmentOf x.toNat) = .ok map) :
    exec (.setCascadeRange p action index entry segments) s =
      .next (((s.arrives p).propose { map, path := some p, range := some (index.toNat, action.toNat) }).onPurlin fun x =>
        { x with served := x.served + 1 }) := by
  obtain ⟨hpath, hrole⟩ := hridge
  refine exec_of_deferred_waits rfl h ?_
  simp [hpath, hrole, hok]

/-- A change that they do not allow is answered with its refusal (R356, R361). -/
theorem setCascadeRange_of_error {rc : ReturnCode} (herr : (s.arrives p).rangeChange (s.arrives p).latestMap action.toNat index.toNat entry
      (segments.map fun x => segmentOf x.toNat) = .error rc) :
    TurnedAway (.setCascadeRange p action index entry segments) p 0xC2C1 s rc := by
  obtain ⟨hpath, hrole⟩ := hridge
  refine exec_of_deferred rfl h ?_
  simp [hpath, hrole, herr]

end SetRange

/-- Settles O52: the three queries by their payloads, Set Cascade Range by the sled's role and the rules of ranges, an extent by its
blocks and a policy by its ranges (R354, R356, R359, R361, R366, R367). -/
theorem cascadeCommands : Obligations.CascadeCommands := by
  intro s p a
  refine ⟨fun h => ?_, ?_, ?_, fun action index entry segments h => ⟨?_, fun hridge => ⟨?_, ?_⟩⟩, ?_, ?_⟩
  · refine answers_of_arrive rfl h rfl ?_
    simp only [List.forall_mem_cons, List.append_assoc, fieldLe_append_right, le_length, zeros_length, fieldLe_le_append, beq_iff_eq,
      Nat.reduceLeDiff, Nat.reduceSub, Nat.reducePow, Nat.zero_mod, Nat.sub_self, Nat.le_refl, List.not_mem_nil, false_implies,
      implies_true, and_self]
  · rintro index ⟨h, hindex⟩
    exact answers_of_arrive rfl h (if_neg (Nat.not_lt.2 hindex)) rfl
  · rintro sled ⟨h, hsled⟩
    exact answers_of_arrive rfl h (if_neg (Nat.not_lt.2 hsled)) rfl
  · exact setCascadeRange_of_not_ridge h
  · exact fun map => setCascadeRange_of_ok h hridge
  · exact fun rc => setCascadeRange_of_error h hridge
  · rintro ld region base blocks dpa x ⟨h, hpath, hready, hld, hlow, hhigh, hsome, haligned, hdpa, hbase, hfree⟩ t
    have hextent : ¬ ((!a.ldExists ld) = true ∨ region.toNat = 0 ∨ 7 < region.toNat ∨ blocks.toNat = 0 ∨ dpa.toNat % blockBytes ≠ 0 ∨
        a.maxBlocks < x + blocks.toNat ∨ 2 ^ 24 < base.toNat + blocks.toNat) := by
      simp only [hld, Bool.not_true, Bool.false_eq_true, false_or]
      omega
    have hblocks : (!(List.range blocks.toNat).all fun i =>
        (a.casc.map.rangeAt (base.toNat + i)).isSome && !a.extTaken ld (x + i)) = false := by
      simpa using hfree
    exact exec_of_arrive rfl h ((if_neg (by simp [a, hpath])).trans ((if_neg (by simp [a, hready])).trans ((if_neg hextent).trans
      (if_neg (ne_true_of_eq_false hblocks)))))
  · rintro timeout rate eligible ⟨h, hpath, hlow, hhigh, hslow, hfast⟩ t
    exact exec_of_arrive rfl h ((if_neg (by simp [a, hpath])).trans (if_neg (by omega)))

end Sys2Proof.Machine
end

section
/-! Steps: the front command or a hub cycle, and what both keep of a sound state (R393, R415, R416, R428, R440 to R447). -/

namespace Sys2Proof.Machine

/-! ## A step -/

theorem step_of_cons {s : State} {c : Instr} {rest : List Instr} (h : s.pending = c :: rest) :
    step s = exec c { s with pending := rest } := by
  rw [step, h]

theorem step_of_nil {s : State} (h : s.pending = []) : step s = .next s.tick := by
  rw [step, h]

/-! ## A hub cycle -/

/-- The counters that a hub cycle samples change nothing that a command keeps, so of these parts the clock alone moves. -/
theorem State.tick_keeps (s : State) : Keeps { s with clock := s.clock + 1 } s.tick := by
  unfold State.tick
  extract_lets t
  split
  · exact (Keeps.refl t).fold _ fun u n h => State.sampleCounter_keeps h n
  · exact Keeps.refl t

theorem State.tick_of_halted {s : State} (h : s.hubRuns = false) : s.tick = { s with clock := s.clock + 1 } :=
  if_neg (ne_true_of_eq_false h)

/-- Settles O53: the two branches of a step, and a hub cycle with and without a running hub. -/
theorem stepRunsTheFront : Obligations.StepRunsTheFront := fun s =>
  ⟨fun _ _ h => step_of_cons h, fun h => ⟨step_of_nil h, s.tick_keeps.clock, State.tick_of_halted⟩⟩

/-! ## Soundness -/

theorem State.Sound.withPending {s : State} (h : s.Sound) (rest : List Instr) : ({ s with pending := rest } : State).Sound :=
  ⟨h.memory, h.latched, h.asleep⟩

theorem State.Sound.withClock {s : State} (h : s.Sound) (n : Nat) : ({ s with clock := n } : State).Sound :=
  ⟨h.memory, h.latched, h.asleep⟩

/-- Settles O58: nothing is stored at reset, no latch is set, and no entry is under way (R415, R447). -/
theorem soundAtReset : Obligations.SoundAtReset :=
  ⟨rfl, fun h => absurd h Bool.false_ne_true, fun _ => rfl⟩

/-- Settles O59: a step runs the front command, which keeps a sound state sound as every command does (`exec_keeps`), or samples the
counters of a hub cycle. -/
theorem stepsKeepSoundness : Obligations.StepsKeepSoundness := by
  intro s t hsound hstep
  cases hqueue : s.pending with
  | nil =>
    rw [step_of_nil hqueue, Host.Outcome.next.injEq] at hstep
    exact hstep ▸ s.tick_keeps.sound (hsound.withClock _)
  | cons c rest =>
    obtain ⟨u, hu, hkeeps⟩ := exec_keeps c { s with pending := rest }
    rw [step_of_cons hqueue, hu, Host.Outcome.next.injEq] at hstep
    exact hstep ▸ hkeeps.sound (hsound.withPending rest)

/-! ## The state at reset -/

/-- Nothing is bound at reset, so every course is seen absent. -/
theorem view_reset_tier (c : Nat) : (State.reset.view c).tier = .absent := rfl

/-- Settles O54: the fields of the reset state, and its empty directory. -/
theorem resetState : Obligations.ResetState :=
  ⟨rfl, rfl, rfl, rfl, rfl, rfl, rfl, rfl, rfl, rfl, rfl, rfl, rfl, view_reset_tier, rfl, rfl, rfl, rfl, rfl, rfl⟩

end Sys2Proof.Machine
end

section
/-! The power path: changes of state, the way into Off-aux, trips, conversions, and commands C3C0h to C3C4h (R415, R416, R439 to R453). -/

namespace Sys2Proof.Machine

/-! ## A change of the sled's state -/

/-- A change of state moves the patrol's lap clock and the fields of the eaves domain that count it, and raises its events (R276, R416). -/
theorem State.changeState_of (s : State) (new : SledState) (cause : Option Nat) : ∃ (f : Sparing → Sparing) (g : Eaves → Eaves),
    OnlyEvents ((s.onSpare f).onEaves g) (s.changeState new cause) ∧
      ∀ e, (g e).st = new ∧ (g e).entry = e.entry ∧ (g e).backoffUs = e.backoffUs := by
  unfold State.changeState
  extract_lets e old dur entering leaving quiet slept s1 s2 s3
  have htrace : OnlyEvents s2 s3 := by
    unfold s3
    split
    · exact OnlyEvents.refl _
    · exact State.trace_only ..
  have hraise (code rid log data lds) : OnlyEvents s3 (if quiet then s3 else s3.raise code log rid data lds) := by
    split
    · exact OnlyEvents.refl _
    · exact State.raise_only ..
  exact ⟨_, _, htrace.trans (hraise ..), fun e => ⟨rfl, rfl, rfl⟩⟩

section ChangeState
variable (s : State) (new : SledState) (cause : Option Nat)

theorem State.changeState_eaves : (s.changeState new cause).eaves.st = new ∧ (s.changeState new cause).eaves.entry = s.eaves.entry ∧
    (s.changeState new cause).eaves.backoffUs = s.eaves.backoffUs := by
  obtain ⟨f, g, hevents, hg⟩ := s.changeState_of new cause
  rw [hevents.eaves]
  exact hg _

theorem State.changeState_power : ∃ held, (s.changeState new cause).power = { s.power with held } := by
  obtain ⟨f, g, hevents, -⟩ := s.changeState_of new cause
  exact ⟨_, hevents.power⟩

end ChangeState

/-! ## Off-aux and fold-back -/

@[simp] theorem State.enterOffAux_eaves_st (s : State) : s.enterOffAux.eaves.st = .offAux := by
  unfold State.enterOffAux
  extract_lets t
  split
  · assumption
  · exact (State.changeState_eaves ..).1

/-- The power path outlives the main rails, and notes that they are no longer good (R415, R416). -/
theorem State.enterOffAux_power (s : State) : ∃ held, s.enterOffAux.power = { s.power with railsGoodAt := none, held } := by
  unfold State.enterOffAux
  extract_lets t
  split
  · exact ⟨_, rfl⟩
  · exact State.changeState_power t.powerOff .offAux none

theorem State.onPower_congr {s : State} {f g : PowerPath → PowerPath} (h : f s.power = g s.power) : s.onPower f = s.onPower g :=
  congrArg (fun p => { s with power := p }) h

theorem State.setFold_of_ne {s : State} {v : Bool} (h : s.power.foldback ≠ v) :
    s.setFold v = s.onPower fun p => { p with soa8 := s.power.soaAt s.clock, foldSince := s.clock, foldback := v } :=
  State.onPower_congr (if_neg h)

theorem State.setFold_power (s : State) (v : Bool) :
    ∃ soa8 foldSince, (s.setFold v).power = { s.power with soa8, foldSince, foldback := v } := by
  by_cases h : s.power.foldback = v
  · exact ⟨s.power.soa8, s.power.foldSince, by subst h; exact if_pos rfl⟩
  · exact ⟨_, _, if_neg h⟩

theorem State.raisePower_power (s : State) (code : Nat) (log : EventLog) (data : List Byte) :
    ∃ held, (s.raisePower code log data).power = { s.power with held } :=
  ⟨_, (s.raisePower_only code log data).power⟩

/-! ## A trip -/

/-- The record of a trip (R448). -/
def State.tripRecord (s : State) (cause : Nat) (sense : TripSense) : TripRecord :=
  let count := min (s.power.count + 1) 255
  { seconds := s.seconds, cause, phase := if s.power.sw = .ramp then 1 else 2, count, latched := decide (s.power.retry < count),
    mainMv := sense.mainMv.toNat, busMv := sense.busMv.toNat, peakMa := sense.peakMa.toNat, soaUs := s.power.soaAt s.clock / 8 }

theorem State.trip_eaves_st (s : State) (cause : Nat) (sense : TripSense) : (s.trip cause sense).eaves.st = .offAux := by
  simp only [State.trip]
  split <;> simp

/-- What a trip leaves of the power path (R445, R446, R448). -/
theorem State.trip_power (s : State) (cause : Nat) (sense : TripSense) :
    let r := s.tripRecord cause sense
    ∃ soa8 foldSince held, (s.trip cause sense).power =
      { s.power with
        sw := if r.latched then .latched else .retryWait, count := r.count, latched := r.latched, tripWait := true, lastCause := cause,
        lastTripSeconds := s.seconds, trips := min (s.power.trips + 1) 0xFFFFFFFF, records := (r :: s.power.records).take 16,
        railsGoodAt := none, foldback := false, soa8, foldSince, held } := by
  intro r
  obtain ⟨soa8, foldSince, hfold⟩ := s.setFold_power false
  unfold State.trip
  extract_lets p phase soa count latch now folded opened off raised
  have hopened : opened.power = { (s.setFold false).power with
      sw := if latch then .latched else .retryWait, count, latched := latch, tripWait := true, lastCause := cause, lastTripSeconds := now,
      trips := min ((s.setFold false).power.trips + 1) 0xFFFFFFFF, records := (r :: (s.setFold false).power.records).take 16 } := rfl
  obtain ⟨_, hoff⟩ : ∃ held, off.power = { opened.power with railsGoodAt := none, held } := opened.enterOffAux_power
  obtain ⟨_, hraised⟩ : ∃ held, raised.power = { off.power with held } := State.raisePower_power ..
  obtain ⟨held, hlatch⟩ : ∃ held, (if latch then raised.raisePower 0x0F04 .failure (le 1 count ++ le 1 cause) else raised).power =
      { raised.power with held } := by
    split
    · exact State.raisePower_power ..
    · exact ⟨_, rfl⟩
  refine ⟨soa8, foldSince, held, ?_⟩
  rw [hlatch, hraised, hoff, hopened, hfold]
  rfl

/-- A trip leaves the sled in Off-aux, the trip counted and recorded first among 16, and the switch latched above the retry limit (R445,
R446, R448). -/
theorem State.trip_outcome (s : State) (cause : Nat) (sense : TripSense) :
    let t := s.trip cause sense
    t.eaves.st = .offAux ∧ t.power.count = min (s.power.count + 1) 255 ∧ t.power.lastCause = cause ∧ t.power.tripWait = true ∧
      t.power.foldback = false ∧ t.power.latched = decide (s.power.retry < t.power.count) ∧
      t.power.sw = (if s.power.retry < t.power.count then .latched else .retryWait) ∧ t.power.records.length ≤ 16 ∧
      t.power.records.tail = s.power.records.take 15 ∧ ∃ r, t.power.records.head? = some r ∧
      (r.seconds, r.cause, r.phase, r.count, r.latched) =
        (s.seconds, cause, if s.power.sw = .ramp then 1 else 2, t.power.count, t.power.latched) ∧
      (r.mainMv, r.busMv, r.peakMa) = (sense.mainMv.toNat, sense.busMv.toNat, sense.peakMa.toNat) := by
  intro t
  obtain ⟨soa8, foldSince, held, hpower⟩ := s.trip_power cause sense
  have hswitch (count : Nat) : (if decide (s.power.retry < count) = true then Switch.latched else .retryWait) =
      if s.power.retry < count then .latched else .retryWait :=
    ite_congr (propext decide_eq_true_iff) (fun _ => rfl) fun _ => rfl
  refine ⟨s.trip_eaves_st cause sense, ?_⟩
  rw [show t.power = _ from hpower]
  exact ⟨rfl, rfl, rfl, rfl, rfl, hswitch _, List.length_take_le .., rfl, s.tripRecord cause sense, rfl, rfl, rfl⟩

theorem exec_tripRetry_of_ready {s : State} (hwait : s.power.tripWait = true) (hsw : s.power.sw = .retryWait)
    (hstart : (s.onPower fun p => { p with tripWait := false }).mayStart = true) :
    exec .tripRetry s = .next ((s.onPower fun p => { p with tripWait := false, sw := .ramp }).raisePower 0x0F02 .warning
      (le 1 s.power.count ++ le 1 s.power.retry)) :=
  (if_neg (by simp [hwait])).trans (if_pos ⟨hsw, hstart⟩)

/-- Settles O25: each cause is a trip where its hypothesis holds, and `trip_power` says what a trip leaves; the retry, the reset of the
count and fold-back take the branch that their hypotheses name (R443 to R446). -/
theorem tripsAndLatch : Obligations.TripsAndLatch := by
  intro s Tripped
  have tripped {c : TripSense → Instr} {cause : Nat} (hx : ∀ sense, exec (c sense) s = .next (s.trip cause sense)) : Tripped c cause :=
    fun sense => ⟨_, hx sense, s.trip_outcome cause sense⟩
  refine ⟨fun hramp => ?_, fun hrails => ?_, fun hon => ?_, ?_, fun hclosed => ?_, ?_, fun hon => ?_, ?_, fun hfold => ?_⟩
  · exact tripped fun _ => congrArg Host.Outcome.next (if_pos hramp)
  · exact tripped fun _ => congrArg Host.Outcome.next (if_pos hrails)
  · exact tripped fun _ => congrArg Host.Outcome.next (if_pos hon)
  · rintro ⟨hclosed, hfold⟩
    exact fun sense => ⟨_, if_pos (by simp [hclosed, hfold]),
      State.trip_outcome (s.onPower fun p => { p with soa8 := p.soaSetting, foldSince := s.clock }) 1 sense⟩
  · exact tripped fun _ => congrArg Host.Outcome.next (if_pos hclosed)
  · rintro ⟨hwait, hsw, hstart⟩
    exact exec_tripRetry_of_ready hwait hsw hstart
  · exact congrArg Host.Outcome.next (if_pos hon)
  · rintro ⟨hclosed, hfold⟩
    exact congrArg Host.Outcome.next ((if_pos hclosed).trans (State.setFold_of_ne (by simp [hfold])))
  · exact congrArg Host.Outcome.next (State.setFold_of_ne (by simp [hfold]))

/-! ## Conversions and commands -/

/-- A command that arrives on a path which serves it, where the eaves responder serves it as well (R370, R376, R435). -/
theorem exec_of_arrive_offAux {c i : Instr} {p : Path} {op : Nat} {s t : State} {f : State → State × ReturnCode × List Byte}
    {rc : ReturnCode} {out : List Byte} (hx : exec c s = .next (s.arrive i p op true f)) (h : s.service p op true = .serve)
    (hf : f (s.arrives p) = (t, rc, out)) : exec c s = .next (t.answered p op rc out) := by
  rw [hx, State.arrive_serves h, hf]

theorem answers_of_arrive_offAux {c i : Instr} {p : Path} {op : Nat} {s : State} {f : State → State × ReturnCode × List Byte}
    {post : State → List Byte → Prop} {out : List Byte} (hx : exec c s = .next (s.arrive i p op true f))
    (h : s.service p op true = .serve) (hf : f (s.arrives p) = (s.arrives p, .success, out)) (hp : post (s.arrives p) out) :
    Answers c p op s post :=
  ⟨out, exec_of_arrive_offAux hx h hf, hp⟩

/-- Settles O26: a conversion by the sled's state, the status, the readings and the records by their payloads, the policy by its ranges,
and the latch by whether it is set (R447, R448, R451 to R453). -/
theorem powerPathCommands : Obligations.PowerPathCommands := by
  intro s p a
  refine ⟨fun c => ⟨fun hactive => ?_, ?_⟩, fun h => ?_, ?_, ?_, fun h peaks energy => ?_, fun h => ?_⟩
  · change execPowerConversion c s = _
    simp only [execPowerConversion, hactive]
  · rintro ⟨hoff, hretention⟩
    change execPowerConversion c s = _
    simp only [execPowerConversion, hoff, hretention, if_true]
  · refine answers_of_arrive_offAux rfl h rfl ?_
    simp only [List.append_assoc, fieldLe_append_right, le_length, fieldLe_le_append, Nat.reduceLeDiff, Nat.reduceSub, Nat.reducePow,
      Nat.zero_mod, Nat.sub_self, Nat.le_refl, and_self]
  · rintro limit retry soa delay ⟨h, hp, hlimit, hlimit', hretry, hsoa, hsoa', hdelay, hdelay', hmargin⟩ t
    exact exec_of_arrive_offAux rfl h ((if_neg (by simp [hp])).trans (if_neg (by
      simpa [hlimit, hlimit', hretry, hsoa, hsoa', hdelay, hdelay'] using hmargin)))
  · rintro ⟨h, hp⟩
    refine ⟨fun hclear => ?_, fun hlatched => ?_⟩
    · exact exec_of_arrive_offAux rfl h ((if_neg (by simp [hp])).trans (if_pos (by simpa [a] using hclear)))
    · exact exec_of_arrive_offAux rfl h ((if_neg (by simp [hp])).trans (if_neg (by simpa [a] using hlatched)))
  · refine ⟨_, ?_, ?_, ?_, exec_of_arrive_offAux rfl h rfl⟩ <;>
      simp only [List.append_assoc, fieldLe_append_right, le_length, zeros_length, fieldLe_le_append, Nat.reduceLeDiff, Nat.reduceSub,
        Nat.sub_self, Nat.le_refl] <;>
      exact Nat.mod_eq_of_lt (BitVec.isLt _)
  · refine answers_of_arrive_offAux rfl h rfl ⟨?_, ?_, ?_⟩
    · simp only [List.append_assoc, fieldLe_le_append, Nat.zero_mod]
    · simp only [List.append_assoc, fieldLe_append_right, le_length, fieldLe_le_append, Nat.reducePow, Nat.le_refl, Nat.sub_self]
    · exact slice_append_right rfl (slice_length ..)

end Sys2Proof.Machine
end

section
/-! Thermal limits and the connector, the region test of on-chip memory, and the bring-up commands (R399 to R405, R461 to R465, R485 to
R497, R514, R515). -/

namespace Sys2Proof.Machine

/-! ## Thermal limits and the connector -/

/-- Does a thermal shutdown follow another within 10 minutes (R515)? -/
def State.shutAgain (s : State) : Bool :=
  match s.therm.lastShutdown with
  | some t => decide (s.clock < t + 600 * 1600000000)
  | none => false

theorem State.shutAgain_iff (s : State) :
    s.shutAgain = true ↔ ∃ t, s.therm.lastShutdown = some t ∧ s.clock < t + 600 * 1600000000 := by
  unfold State.shutAgain
  cases s.therm.lastShutdown <;> simp

/-- A sensor at its mark opens the switch, and a second shutdown within 10 minutes latches it (R515). -/
theorem exec_thermalShutdown_of_hot {s : State} {sensor : BitVec 8} {reading : BitVec 16} (hon : s.power.sw = .on)
    (hsensor : sensor.toNat ≤ 18) (hmark : shutdownMark sensor.toNat ≤ reading.toInt) :
    exec (.thermalShutdown sensor reading) s = .next (((((s.onTherm fun t =>
      { t with shutdowns := min (t.shutdowns + 1) 0xFFFFFFFF, lastShutdown := some s.clock, coolDown := true,
               pendingEvent := t.pendingEvent ++ [(sensor.toNat, reading.toNat, s.shutAgain)] }).setFold false).onPower
      fun p => { p with latched := p.latched || s.shutAgain }).openSwitch).enterOffAux) :=
  if_neg (by simp [hon, hsensor, hmark])

/-- Settles O23: the shutdown by its sensor's mark and the time of the last one, each query by its payload, and each event by the state
that lets it act (R425, R485, R493 to R497, R514, R515). -/
theorem thermalAndConnector : Obligations.ThermalAndConnector := by
  intro s p a
  refine ⟨?_, ?_, rfl, fun h => ?_, fun h => ?_, fun hp h => ?_, fun htimed => ?_, rfl, ?_, fun read hinactive => ?_,
    fun address htakes => ⟨congrArg Host.Outcome.next (if_pos htakes), fun hnone => ?_⟩⟩
  · rintro g c ⟨hactive, hruns⟩
    exact congrArg Host.Outcome.next (if_pos (by simp [hactive, hruns]))
  · rintro sensor reading ⟨hon, hsensor, hmark⟩
    exact ⟨s.shutAgain, s.shutAgain_iff, exec_thermalShutdown_of_hot hon hsensor hmark⟩
  · refine answers_of_arrive rfl h rfl ?_
    simp only [List.append_assoc, fieldLe_append_right, le_length, fieldLe_le_append, Nat.reducePow, Nat.zero_mod, Nat.sub_self,
      Nat.le_refl, and_self]
  · refine answers_of_arrive rfl h rfl ?_
    simp only [List.forall_mem_cons, List.append_assoc, fieldLe_append_right, le_length, zeros_length, fieldLe_le_append,
      Nat.reduceLeDiff, Nat.reduceSub, Nat.reducePow, Nat.zero_mod, Nat.sub_self, Nat.le_refl, List.not_mem_nil, false_implies,
      implies_true, and_self]
  · exact ⟨exec_of_arrive rfl h (if_pos hp), exec_of_arrive rfl h (if_pos hp), exec_of_arrive rfl h (if_pos hp)⟩
  · exact congrArg (fun c => Host.Outcome.next { s with conn := c }) (if_pos htimed)
  · rintro ⟨halert, hsmbus⟩
    exact if_pos (by simp [halert, hsmbus])
  · exact if_pos (by simp [hinactive])
  · exact congrArg Host.Outcome.next (if_pos (by simp [htakes, hnone]))

/-! ## On-chip memory -/

/-- The region test at its place: a lap that begins notes the time (R461). -/
def State.regionBegun (s : State) : State :=
  s.onSram fun m => if m.bank = 0 ∧ m.region = 0 ∧ !m.inTest then { m with lapStart := s.clock } else m

section RegionTest
variable {s : State}

theorem exec_regionTestInterval_of_rest (hrest : s.regionTests = false) (word : Option (BitVec 16)) (finished : Bool) :
    exec (.regionTestInterval word finished) s = .next s :=
  if_pos (by simp [hrest])

variable (hruns : s.regionTests = true)
include hruns

theorem exec_regionTestInterval_of_failing (word : BitVec 16) (finished : Bool) :
    exec (.regionTestInterval (some word) finished) s =
      .next ((s.regionBegun.onSram fun m =>
        { m with inTest := false, stopped := some (s.regionBegun.sram.bank, s.regionBegun.sram.region) }).raiseAll 0x1003 .failure
        (le 2 s.regionBegun.sram.bank ++ le 1 s.regionBegun.sram.region ++ le 2 word.toNat)) :=
  if_neg (by simp [hruns])

theorem exec_regionTestInterval_of_finished : exec (.regionTestInterval none true) s =
    .next (s.regionBegun.onSram fun m => ({ m with inTest := false, done := m.done + 1 } : OnChip).nextRegion s.regionBegun.clock) :=
  if_neg (by simp [hruns])

theorem exec_regionTestInterval_of_unfinished :
    exec (.regionTestInterval none false) s = .next (s.regionBegun.onSram fun m => { m with inTest := true }) :=
  if_neg (by simp [hruns])

end RegionTest

/-- Settles O20: an interval by whether the test runs and how its region ends, the status by its payload, and the policy by its range
(R461, R462, R465). -/
theorem onchipMemoryTest : Obligations.OnchipMemoryTest := by
  intro s p a
  refine ⟨exec_regionTestInterval_of_rest, fun hruns => ?_, rfl, fun h => ?_, ?_⟩
  · exact ⟨exec_regionTestInterval_of_failing hruns, exec_regionTestInterval_of_finished hruns,
      exec_regionTestInterval_of_unfinished hruns⟩
  · refine answers_of_arrive rfl h rfl ?_
    cases (s.arrives p).sram.stopped <;> simp [fieldLe_append_right, b2n]
  · rintro enable us ⟨h, hp, hlow, hhigh⟩
    exact exec_of_arrive rfl h ((if_pos hp).trans (if_neg (by simp; omega)))

/-! ## Bring-up -/

/-- Settles O45: the status by its payload, the retry by a group that may be admitted, and the setting by its ranges and the groups that
it would leave (R399, R403 to R405). -/
theorem bringUpCommands : Obligations.BringUpCommands := by
  intro s p a
  refine ⟨fun h => ?_, fun hp => ⟨?_, ?_⟩⟩
  · refine answers_of_arrive rfl h rfl ?_
    simp only [msField, List.forall_mem_cons, List.append_assoc, fieldLe_append_right, le_length, zeros_length, fieldLe_le_append,
      Nat.reduceLeDiff, Nat.reduceSub, Nat.reducePow, Nat.zero_mod, Nat.sub_self, Nat.le_refl, List.not_mem_nil, false_implies,
      implies_true, and_self]
  · rintro g b ⟨h, hcarries, hfree, hgroup, hsettled, hwithheld, hreason, hadmission, hretry⟩
    have hopen : ¬ (!b.ready rdySettled) = true := ne_true_of_eq_false (congrArg not hsettled)
    have hgoes : ¬ ((!b.groupWithheld g.toNat) = true ∨ Sparse.get 0 b.boot.reasons g.toNat = 5) :=
      not_or.2 ⟨ne_true_of_eq_false (congrArg not hwithheld), hreason⟩
    have hidle : ¬ (b.boot.admission.isSome = true ∨ b.nextRetry.isSome = true) := by simp [hadmission, hretry]
    exact begins_of_privilegedBackground rfl h hp hcarries hfree
      ((if_neg (Nat.not_lt.2 hgroup)).trans ((if_neg hopen).trans ((if_neg hgoes).trans (if_neg hidle))))
  · intro g action bit new t h
    refine ⟨fun hgood => ?_, fun hbad => ?_⟩
    · exact exec_of_arrive rfl h ((if_pos hp).trans (if_neg (by simpa [a, new, bit] using hgood)))
    · exact exec_of_arrive rfl h ((if_pos hp).trans (if_pos hbad))

end Sys2Proof.Machine
end

section
/-! The sleep handshake, the sampler, the other events of the eaves domain, and the ends of an activation pause and of a Watch exit (R384,
R412 to R434, R521). -/

namespace Sys2Proof.Machine

/-! ## Entries -/

theorem State.beginEntry_eaves (s : State) (kind : SledState) :
    (s.beginEntry kind).eaves = { s.eaves with entry := some { target := kind }, retry := none, gated := [] } := by
  rw [State.beginEntry, State.onEaves_eaves, State.leaveRegion_eaves]

theorem exec_watchEntryStart_of_active {s : State} (hactive : s.eaves.st = .active) (hruns : s.firmwareRuns = true)
    (hserves : s.purlin.paused = false) (hnone : s.eaves.entry = none) (hready : s.watchReady = true) :
    exec .watchEntryStart s = .next (s.beginEntry .watch).watchWork := by
  change execWatchEntryStart s = _
  simp [execWatchEntryStart, hactive, hruns, hserves, hnone, hready]

/-- A retry of Watch looks at the policy and the consents, one of Drowse at the policy (R429). -/
theorem exec_sleepBackoffRetry_of_retry {s : State} {kind : SledState} (hactive : s.eaves.st = .active) (hnone : s.eaves.entry = none)
    (hretry : s.eaves.retry = some kind) :
    let t := s.onEaves fun e => { e with retry := none }
    exec .sleepBackoffRetry s = .next (if kind = .watch then
        (if s.eaves.watchOn ∧ t.consentWanted = 0 then (t.beginEntry .watch).watchWork else t)
      else if s.eaves.drowseOn then t.beginEntry .drowse else t) := by
  intro t
  have hfree : ¬ (t.eaves.st ≠ .active ∨ t.eaves.entry.isSome = true) := by simp [t, hactive, hnone]
  have hwatch : (t.eaves.watchOn && t.consentWanted == 0) = true ↔ s.eaves.watchOn = true ∧ t.consentWanted = 0 := by simp [t]
  change execSleepBackoffRetry s = _
  rw [execSleepBackoffRetry, hretry]
  refine (if_neg hfree).trans ?_
  by_cases hkind : kind = .watch
  · rw [if_pos hkind, if_pos hkind]
    exact congrArg Host.Outcome.next (ite_congr (propext hwatch) (fun _ => rfl) fun _ => rfl)
  · rw [if_neg hkind, if_neg hkind]
    rfl

/-! ## The answer of a block -/

section Answer
variable {s : State} {e : Entry} (hentry : s.eaves.entry = some e)
include hentry

theorem State.answerSleep_of_refusal {refusal : Nat} (h : 1 ≤ refusal ∧ refusal ≤ 6) :
    s.answerSleep refusal = s.refuseSleep e (sleepOrder.getD e.next 0) refusal := by
  have hne : refusal ≠ 0 := by omega
  simp only [State.answerSleep, hentry, if_pos h, if_pos hne]

theorem State.answerSleep_of_agreed (hcan : s.sleepRefusal e.target (sleepOrder.getD e.next 0) = 0) (hwake : e.wake = false) :
    s.answerSleep 0 = s.agreeSleep e (sleepOrder.getD e.next 0) := by
  simp only [State.answerSleep, hentry, hcan]
  simp [hwake]

end Answer

theorem State.pauseJob_eaves (s : State) (e : Nat) : (s.pauseJob e).eaves = s.eaves := by
  unfold State.pauseJob
  split <;> rfl

/-- A block before the sixteenth is gated and the next one is asked (R428). -/
theorem State.agreeSleep_eaves {s : State} {e : Entry} (id : Nat) (hmore : e.next < 15) :
    (s.agreeSleep e id).eaves = { s.eaves with gated := s.eaves.gated ++ [id], entry := some { e with next := e.next + 1 } } := by
  rw [State.agreeSleep, if_pos (show e.next + 1 < sleepOrder.length from Nat.succ_lt_succ hmore)]
  extract_lets t
  split
  · exact foldState_keeps (fun u => u.eaves = t.eaves) State.pauseJob (fun u g h => (u.pauseJob_eaves g).trans h) _ t rfl
  · rfl

/-- The sixteenth agreement commits the entry (R429, R431). -/
theorem State.agreeSleep_last {s : State} {e : Entry} (id : Nat) (hlast : e.next = 15) :
    (s.agreeSleep e id).eaves.entry = none ∧ (s.agreeSleep e id).eaves.st = e.target ∧ (s.agreeSleep e id).eaves.backoffUs = 1000 := by
  rw [State.agreeSleep, if_neg (show ¬ e.next + 1 < sleepOrder.length by rw [hlast]; decide), State.commitEntry]
  obtain ⟨hst, hentry, hbackoff⟩ := State.changeState_eaves _ e.target none
  exact ⟨hentry, hst, hbackoff⟩

/-- An entry that holds no save area is abandoned with nothing gated (R429). -/
theorem State.abandonEntry_eaves {s : State} (h : s.eaves.saveAreas = []) :
    s.abandonEntry.eaves = { s.eaves with entry := none, gated := [], stopped := [] } := by
  unfold State.abandonEntry
  extract_lets jobs t u
  have hfree : u.eaves = { s.eaves with entry := none, gated := [], stopped := [] } := by
    simp [u, State.freeSave, t, h]
  refine (foldState_keeps (fun v => v.eaves = u.eaves) _ (fun v j hv => ?_) _ u rfl).trans hfree
  split
  · exact hv
  · exact hv

/-- A refusal without a save area to give back: the entry ends with nothing gated, and a retry waits for the doubled back-off (R429). -/
theorem State.refuseSleep_eaves {s : State} (e : Entry) (id reason : Nat) (h : s.eaves.saveAreas = []) :
    (s.refuseSleep e id reason).eaves.entry = none ∧ (s.refuseSleep e id reason).eaves.gated = [] ∧
      (s.refuseSleep e id reason).eaves.retry = some e.target ∧ (s.refuseSleep e id reason).eaves.st = s.eaves.st ∧
      (s.refuseSleep e id reason).eaves.backoffUs = min (2 * s.eaves.backoffUs) (1000 * s.eaves.ceilingMs) := by
  unfold State.refuseSleep
  extract_lets t u
  rw [(State.raiseLimited_only ..).eaves]
  simp [u, t, State.abandonEntry_eaves h]

/-- Settles O27: each entry begins where its conditions hold, and the answer of the block asked by its place, its refusal and the save
area (R416, R417, R420, R421, R428 to R430). -/
theorem sleepEntries : Obligations.SleepEntries := by
  intro s
  refine ⟨fun hrest => ?_, ?_, s.beginEntry_eaves, ?_, fun e hentry => ?_⟩
  · exact if_pos (by simpa using hrest)
  · rintro ⟨hactive, hruns, hserves, hnone, hready⟩
    exact exec_watchEntryStart_of_active hactive hruns hserves hnone hready
  · rintro kind ⟨hactive, hnone, hretry⟩
    exact exec_sleepBackoffRetry_of_retry hactive hnone hretry
  intro id
  refine ⟨?_, ?_, fun refusal hrefusal => ?_⟩
  · rintro ⟨hcan, hwake, hmore⟩
    exact ⟨_, congrArg Host.Outcome.next (State.answerSleep_of_agreed hentry hcan hwake), State.agreeSleep_eaves id hmore⟩
  · rintro ⟨hcan, hwake, hlast⟩
    exact ⟨_, congrArg Host.Outcome.next (State.answerSleep_of_agreed hentry hcan hwake), State.agreeSleep_last id hlast⟩
  · intro u t
    refine ⟨congrArg Host.Outcome.next (State.answerSleep_of_refusal hentry hrefusal), ?_, s.refuseSleep_eaves e id refusal.toNat⟩
    rintro rfl
    exact congrArg Host.Outcome.next (State.answerSleep_of_refusal hentry hrefusal)

/-! ## The sampler and the other events of the eaves domain -/

/-- A cycle in which no quantity crosses its window only samples (R425, R426). -/
theorem exec_samplerCycle_of_quiet {s : State} {samples : List (BitVec 16)} (hasleep : s.eaves.st = .drowse ∨ s.eaves.st = .watch)
    (hquiet : ∀ x ∈ s.eaves.sampled.zipIdx, x.1.crossed x.2 (samples.getD x.2 0) = 0) :
    exec (.samplerCycle samples) s = .next ((s.onEaves fun e => { e with
      cycles := e.cycles + 1
      sampled := e.sampled.zipIdx.map fun x => x.1.take x.2 (samples.getD x.2 0) }).convert (samples.getD 19 0).toNat
        (samples.getD 21 0).toNat (samples.getD 20 0).toNat s.power.aux100uA.toNat (1000 * s.eaves.period) false) := by
  have hruns : ¬ (s.eaves.st ≠ .drowse ∧ s.eaves.st ≠ .watch) := by
    obtain h | h := hasleep <;> simp [h]
  have hhits : ((s.eaves.sampled.zipIdx.map fun x => (x.2, x.1.crossed x.2 (samples.getD x.2 0))).filter
      fun x => x.2 != 0).isEmpty = true := by
    rw [List.isEmpty_iff, List.filter_eq_nil_iff]
    intro hit hmem
    obtain ⟨x, hx, rfl⟩ := List.mem_map.1 hmem
    simpa using hquiet x hx
  exact (if_neg hruns).trans (if_pos hhits)

/-- Settles O28: a cycle by whether a quantity crosses its window, the crystal by whether it runs, and a gated block's access (R412, R425
to R427, R434, R521). -/
theorem samplerAndEaves : Obligations.SamplerAndEaves := by
  intro s
  refine ⟨fun samples hasleep => ?_, fun address => rfl, ?_, fun hretention => ?_, fun block hgated => ?_⟩
  · obtain ⟨t, ht, -⟩ := exec_keeps (.samplerCycle samples) s
    refine ⟨t, ht, fun hquiet => ?_⟩
    rw [exec_samplerCycle_of_quiet hasleep hquiet, Host.Outcome.next.injEq] at ht
    subst ht
    exact ⟨rfl, rfl, rfl, rfl⟩
  · rintro ⟨hretention, hcrystal⟩
    exact if_neg (by simp [hretention, hcrystal])
  · exact congrArg Host.Outcome.next (if_pos hretention)
  · exact if_neg (by simp [hgated])

/-! ## Service goes on -/

/-- Settles O31: the commands held in a pause, and a Watch exit by what was found of the image, the save area, the retention RAM and the
directory (R384, R413, R423, R424). -/
theorem resumptionOfService : Obligations.ResumptionOfService := by
  intro s
  refine ⟨fun us hpaused => if_neg (by simp [hpaused]), ?_⟩
  rintro image save retention directory wakeNs exitUs ⟨hwatch, hexiting⟩ r x u t
  refine ⟨(if_neg (by simp [hwatch, hexiting])).trans (congrArg (fun v : State => Host.Outcome.next v.tellSideband.serveWaiting) ?_),
    fun hstill => if_pos hstill⟩
  cases retention
  · rfl
  · cases image <;> cases save <;> rfl

end Sys2Proof.Machine
end
